-- ==== Sys2Proof/Word.lean ====
section
/-! DEFINITION. The words the CZ416 moves on its link and its ports. -/

namespace Sys2Proof

/-- One byte of a frame, of the link's bit stream or of the Prompt Store. -/
abbrev Byte := BitVec 8

/-- The 16-bit two's-complement word of one slot of a TDM frame (R162). -/
abbrev SlotWord := BitVec 16

/-- The 64 words one slot carries in one slice (R24, R162). -/
abbrev SlotSlice := Vector SlotWord 64

/-- One slice of all sixteen slots of one direction of a port (R162). -/
abbrev AudioBlock := Vector SlotSlice 16

/-- A position 0..15 (Table 3-1 of the introduction). -/
abbrev PosIx := Fin 16

/-- A clip id 0..63. -/
abbrev ClipIx := Fin 64

/-- A hold stream id 0..3. -/
abbrev StreamIx := Fin 4

end Sys2Proof
end

