-- ==== Sys2Proof/Syntax.lean ====
section
/-! DEFINITION. The commands of the block: one constructor for each row of spec/opcode_table.json. -/

namespace Sys2Proof

/-- A frame on the link without its LEN byte, which counts the bytes that follow (R173, Table 11-1). -/
structure Frame where
  kind : Byte
  src : Byte
  tag : Byte
  body : List Byte
deriving DecidableEq, Repr

/-- A player item as the host sends it: nine bytes of a command body (R125, R173). -/
structure ItemSpec where
  sourceKind : Byte
  sourceId : Byte
  startOffset : BitVec 32
  loops : Byte
  level : Byte
  tag : Byte
deriving DecidableEq, Repr

/-- The two moments of a read transaction (R180): its type byte is complete, and SEL goes high after `clocked` bytes. -/
inductive ReadEvent where
  | start
  | selHigh (clocked : Nat)
deriving DecidableEq, Repr

/-- The two audio ports (R162). -/
inductive PortId where
  | network
  | position
deriving DecidableEq, Repr

/-- The two players of a position (R123). -/
inductive PlayerId where
  | net
  | agent
deriving DecidableEq, Repr

/-- The two floor trackers of a position (R31). -/
inductive TrackerId where
  | microphone
  | callerPath
deriving DecidableEq, Repr

/-- The commands. A row that is a command frame carries the frame's SRC and TAG and its body's fields; a row that is an event
carries what the event brings from outside. Log entries 1 and 3. -/
inductive Instr where
  /-- POWER_ON (R183). -/
  | powerOn
  /-- RESET_PIN (R172, R183): the pin is held and released. -/
  | resetPin
  /-- FRAME_ARRIVAL (R175). -/
  | frameArrival (f : Frame)
  /-- FRAME_ERROR (R174): the LEN byte, and how many bytes followed it before SEL went high. -/
  | frameError (len : Byte) (followed : Nat)
  /-- READ (R180). -/
  | read (e : ReadEvent)
  /-- LINK_CLEAR (R176). -/
  | linkClear (src tag : Byte) (body : List Byte)
  /-- BAD_KIND (R177). -/
  | badKind (f : Frame)
  /-- RESET_DEVICE (R182). -/
  | resetDevice (src tag erase : Byte)
  /-- RESET_POSITION (R182, R20). -/
  | resetPosition (src tag erase : Byte)
  /-- SLEEP (R169). -/
  | sleep (src tag : Byte)
  /-- WAKE (R170). -/
  | wake (src tag : Byte)
  /-- PORT_SET (R163). -/
  | portSet (src tag port role : Byte) (slots : List Byte)
  /-- PORT_STATUS (R168). -/
  | portStatus (src tag : Byte)
  /-- SET_PARAM (R181). -/
  | setParam (src tag id : Byte) (value : BitVec 16)
  /-- GET_PARAM (R181). -/
  | getParam (src tag id : Byte)
  /-- POS_OPEN (R4). -/
  | posOpen (src tag : Byte)
  /-- POS_CLOSE (R11). -/
  | posClose (src tag : Byte)
  /-- CALL_OFFER (R5). -/
  | callOffer (src tag : Byte) (whisper net : Option ItemSpec) (hint : Option (BitVec 16))
  /-- CALL_CONNECT (R8). -/
  | callConnect (src tag : Byte)
  /-- CALL_HOLD (R9). -/
  | callHold (src tag : Byte) (item : ItemSpec)
  /-- CALL_CLEAR (R10). -/
  | callClear (src tag : Byte)
  /-- MUTE (R12). -/
  | mute (src tag value : Byte)
  /-- POS_STATUS (R13). -/
  | posStatus (src tag : Byte)
  /-- EC_MODE (R77). -/
  | ecMode (src tag value : Byte)
  /-- EC_FREEZE (R78). -/
  | ecFreeze (src tag value : Byte)
  /-- SEARCH (R87). -/
  | search (src tag value : Byte)
  /-- WINDOW_SET (R79). -/
  | windowSet (src tag : Byte) (lag : BitVec 16)
  /-- EC_STATUS (R80). -/
  | ecStatus (src tag : Byte)
  /-- PLAY_NOW (R125, R127). -/
  | playNow (src tag player : Byte) (item : ItemSpec)
  /-- PLAY_INTERRUPT (R125, R128). -/
  | playInterrupt (src tag player : Byte) (item : ItemSpec)
  /-- PLAY_NEXT (R125, R129). -/
  | playNext (src tag player : Byte) (item : ItemSpec)
  /-- PLAY_ONLY (R125, R130). -/
  | playOnly (src tag player : Byte) (item : ItemSpec)
  /-- STOP_CURRENT (R136). -/
  | stopCurrent (src tag player : Byte)
  /-- STOP_ALL (R136). -/
  | stopAll (src tag player : Byte)
  /-- PLAYER_STATUS (R140). -/
  | playerStatus (src tag : Byte)
  /-- TONE_START (R157). -/
  | toneStart (src tag : Byte) (frequency : BitVec 16) (level : Byte) (period onTime : BitVec 16) (bursts route : Byte)
  /-- TONE_STOP (R161). -/
  | toneStop (src tag : Byte)
  /-- CLIP_ALLOC (R109). -/
  | clipAlloc (src tag clip format : Byte) (capacity : BitVec 32)
  /-- CLIP_WRITE (R110). -/
  | clipWrite (src tag clip : Byte) (data : List Byte)
  /-- CLIP_END (R111). -/
  | clipEnd (src tag clip : Byte)
  /-- CLIP_FREE (R112). -/
  | clipFree (src tag clip : Byte)
  /-- CLIP_INFO (R113). -/
  | clipInfo (src tag clip : Byte)
  /-- STORE_COMPACT (R116). -/
  | storeCompact (src tag : Byte)
  /-- EXPAND_LOAD (R107). -/
  | expandLoad (src tag start : Byte) (entries : List (BitVec 16))
  /-- STREAM_OPEN (R145). -/
  | streamOpen (src tag stream format : Byte) (halfSize : BitVec 16)
  /-- STREAM_FILL (R146). -/
  | streamFill (src tag stream half last : Byte) (data : List Byte)
  /-- STREAM_START (R147). -/
  | streamStart (src tag stream : Byte)
  /-- STREAM_STOP (R147). -/
  | streamStop (src tag stream : Byte)
  /-- STREAM_CLOSE (R152). -/
  | streamClose (src tag stream : Byte)
  /-- STREAM_STATUS (R154). -/
  | streamStatus (src tag stream : Byte)
  /-- SLICE_PERIOD (R165): a slice period begins; the frames both ports receive in it, and the group of the Position Port that
  completes in the same instant, if one does (R166). -/
  | slicePeriod (netIn posIn : AudioBlock) (group : Option AudioBlock)
  /-- POSITION_SLICE (R15). -/
  | positionSlice (p : PosIx)
  /-- FLOOR_TRACKER_RISE (R30): which tracker of the position, and the level it is stepped with. -/
  | floorTrackerRise (p : PosIx) (which : TrackerId) (level : Nat)
  /-- VAD_HANGOVER_EXPIRY (R39): the signal-to-floor ratio of the slice. -/
  | vadHangoverExpiry (p : PosIx) (ratio : Nat)
  /-- BOOST_REFRESH (R47). -/
  | boostRefresh (p : PosIx)
  /-- DOUBLE_TALK_HANGOVER_EXPIRY (R60): Ymax and Xmax of the slice. -/
  | doubleTalkHangoverExpiry (p : PosIx) (ymax xmax : Nat)
  /-- CONVERGED (R65). -/
  | converged (p : PosIx)
  /-- DIVERGED (R66): the levels of the estimate and of the return in the slice. -/
  | diverged (p : PosIx) (estimateLevel returnLevel : Nat)
  /-- LOSS_OF_ERLE (R67). -/
  | lossOfErle (p : PosIx)
  /-- RESEARCH_PERIOD_EXPIRY (R68). -/
  | researchPeriodExpiry (p : PosIx)
  /-- SEARCH_START (R89). -/
  | searchStart
  /-- SEARCH_COMPLETES (R95). -/
  | searchCompletes
  /-- TIMED_OUT (R92). -/
  | timedOut
  /-- PASS_END (R133): a clip item plays its last sample. -/
  | passEnd (p : PosIx) (which : PlayerId)
  /-- BURST_COMPLETE (R159). -/
  | burstComplete (p : PosIx)
  /-- NEW_CYCLE (R159). -/
  | newCycle (p : PosIx)
  /-- HALF_EMPTY (R150): the stream reads the last sample of its half. -/
  | halfEmpty (i : StreamIx)
  /-- TURN (R117). -/
  | turn
  /-- MOVE_COMPLETES (R118). -/
  | moveCompletes
  /-- FRAME_SYNC (R164): a sync at a slave port, and its distance from the previous one in bit clocks. -/
  | frameSync (port : PortId) (distance : Nat)
  /-- MISSING_SYNC (R164). -/
  | missingSync (port : PortId)
  /-- POSITION_PORT_GROUP (R166): the slice received in the group. -/
  | positionPortGroup (received : AudioBlock)
deriving DecidableEq, Repr

end Sys2Proof
end

