-- ==== Sys2Proof/Config.lean ====
section
/-! DEFINITION. The values the manual leaves open: constants without a body, so that nothing can be proved of what they are.
The argument `draw` is the counter of `State.draws`, a fresh number for each use. -/

namespace Sys2Proof

/-- FREE VALUE. The code of "the port it concerns" in a PORT report that concerns both ports (SLEEP's STOPPED and WAKE's
STARTED): R168 names no value. Log entry 6. -/
opaque Config.bothPortsCode : (draw : Nat) → Byte

/-- FREE VALUE. The event that a PORT-STATUS reply shows, one of the five codes: R168 gives the reply "the same fields" as the report,
and a query has no event. Log entry 26. -/
opaque Config.portStatusEvent : (draw : Nat) → Fin 5

/-- FREE VALUE. The port that the event of a PORT-STATUS reply concerns (R168). Log entry 26. -/
opaque Config.portStatusPort : (draw : Nat) → Byte

/-- FREE VALUE. What SDO carries at a place after the type byte of a transaction whose type is neither 0x5A nor 0xC3: R172 says of it
only that the rest is ignored. Log entry 17. -/
opaque Config.sdoIgnored : (draw place : Nat) → Byte

/-- FREE VALUE. Which of several gaps of the largest length is reported as the largest gap (R100); it is taken modulo the
number of such gaps. Log entry 7. -/
opaque Config.gapChoice : (draw : Nat) → Nat

/-- FREE VALUE. The place at which the `n`-th thing of an unordered group is inserted when the manual fixes no order; it is
taken modulo the number of places, so that every order is possible. Log entry 5. -/
opaque Config.orderChoice : (draw n : Nat) → Nat

/-- FREE VALUE. "The bursts it had completed" in the reply of a TONE-START or TONE-STOP that found no tone running (R157, R161
state no number there). Log entry 29. -/
opaque Config.idleBursts : (draw : Nat) → Byte

/-- FREE VALUE. The start offset that PLAYER-STATUS shows for a queued stream item, whose start offset is "ignored" (R124,
R140). Log entry 24. -/
opaque Config.streamStartOffset : (draw place : Nat) → BitVec 24

/-- FREE VALUE. The passes remaining that PLAYER-STATUS shows for a current or stacked stream item, which has none (R124, R140).
Log entry 24. -/
opaque Config.streamPasses : (draw place : Nat) → Byte

end Sys2Proof
end

