-- ==== Sys2Proof/Machine/Tables.lean ====
section
/-! DEFINITION. The fixed tables of the part and the parameter table's ids, ranges and defaults. -/

namespace Sys2Proof.Machine

/-- The 88 gain multipliers, gain index −63 first: entry G + 63 is round(32768 × 10^(0.0375 × G)) (R25). Log entry 25. -/
def gainTable : List Nat := [
   142, 155, 169, 184, 201, 219, 239, 260, 284, 309, 337, 368,
   401, 437, 476, 519, 566, 617, 673, 734, 800, 872, 950, 1036,
   1130, 1232, 1343, 1464, 1596, 1740, 1896, 2068, 2254, 2457, 2679, 2920,
   3184, 3471, 3784, 4125, 4497, 4903, 5345, 5827, 6353, 6925, 7550, 8231,
   8973, 9783, 10665, 11627, 12675, 13818, 15064, 16423, 17904, 19519, 21279, 23198,
   25290, 27571, 30057, 32768, 35723, 38945, 42457, 46286, 50460, 55011, 59972, 65381,
   71277, 77705, 84713, 92353, 100682, 109761, 119660, 130452, 142216, 155042, 169025, 184268,
   200886, 219003, 238754, 260285]

/-- gtab(G), in units of 1/32768, for G in −63..24 (R25). -/
def gtab (g : Int) : Int := (gainTable.getD (g + 63).toNat 0 : Nat)

/-- The first quarter of the sine table, entries 0..64: round(16,384 × sin(2πi / 256)) (R158). Log entry 25. -/
def sineQuarter : List Nat := [
   0, 402, 804, 1205, 1606, 2006, 2404, 2801, 3196, 3590, 3981, 4370,
   4756, 5139, 5520, 5897, 6270, 6639, 7005, 7366, 7723, 8076, 8423, 8765,
   9102, 9434, 9760, 10080, 10394, 10702, 11003, 11297, 11585, 11866, 12140, 12406,
   12665, 12916, 13160, 13395, 13623, 13842, 14053, 14256, 14449, 14635, 14811, 14978,
   15137, 15286, 15426, 15557, 15679, 15791, 15893, 15986, 16069, 16143, 16207, 16261,
   16305, 16340, 16364, 16379, 16384]

/-- Entry i of the 256-entry sine table, from the quarter's symmetries (R158). -/
def sineEntry (i : Nat) : Int :=
  let j := i % 128
  let v : Int := (sineQuarter.getD (if j ≤ 64 then j else 128 - j) 0 : Nat)
  if i % 256 < 128 then v else -v

/-- min(round(2^(F/8)), 32767) for F = 0..120 (R75). Log entry 25. -/
def noiseAmplitudeTable : List Nat := [
   1, 1, 1, 1, 1, 2, 2, 2, 2, 2, 2, 3,
   3, 3, 3, 4, 4, 4, 5, 5, 6, 6, 7, 7,
   8, 9, 10, 10, 11, 12, 13, 15, 16, 17, 19, 21,
   23, 25, 27, 29, 32, 35, 38, 41, 45, 49, 54, 59,
   64, 70, 76, 83, 91, 99, 108, 117, 128, 140, 152, 166,
   181, 197, 215, 235, 256, 279, 304, 332, 362, 395, 431, 470,
   512, 558, 609, 664, 724, 790, 861, 939, 1024, 1117, 1218, 1328,
   1448, 1579, 1722, 1878, 2048, 2233, 2435, 2656, 2896, 3158, 3444, 3756,
   4096, 4467, 4871, 5312, 5793, 6317, 6889, 7512, 8192, 8933, 9742, 10624,
   11585, 12634, 13777, 15024, 16384, 17867, 19484, 21247, 23170, 25268, 27554, 30048,
   32767]

/-- The comfort-noise amplitude a at caller-path floor F (R75). -/
def noiseAmplitude (f : Nat) : Int := (noiseAmplitudeTable.getD f 32767 : Nat)

/-- The default expansion entry of byte b (R106). -/
def defaultExpansionEntry (b : Nat) : Int :=
  let magnitude : Int := (((b % 16 + 16) * 2 ^ (b / 16 % 8 + 3) : Nat) : Int) - 128
  if b < 128 then magnitude else -magnitude

/-- The default expansion table (R106). -/
def defaultExpansion : List Int := (List.range 256).map defaultExpansionEntry

/-- The 34 per-position parameters (Tables 1-2, 3-4, 3-5 and 4-8). -/
inductive PosParam where
  /-- NS_ENABLE. -/
  | nsEnable
  /-- NS_AMAX. -/
  | nsAmax
  /-- NS_K1. -/
  | nsK1
  /-- NS_K2. -/
  | nsK2
  /-- NS_K3. -/
  | nsK3
  /-- NS_Q1. -/
  | nsQ1
  /-- NS_Q2. -/
  | nsQ2
  /-- NS_Q3. -/
  | nsQ3
  /-- NS_Q4. -/
  | nsQ4
  /-- FLOOR_RISE. -/
  | floorRise
  /-- VAD_T. -/
  | vadT
  /-- VAD_HANG. -/
  | vadHang
  /-- BOOST_START. -/
  | boostStart
  /-- BOOST_K1. -/
  | boostK1
  /-- BOOST_K2. -/
  | boostK2
  /-- BOOST_K3. -/
  | boostK3
  /-- BOOST_Q1. -/
  | boostQ1
  /-- BOOST_Q2. -/
  | boostQ2
  /-- BOOST_Q3. -/
  | boostQ3
  /-- BOOST_Q4. -/
  | boostQ4
  /-- BOOST_MAX. -/
  | boostMax
  /-- BOOST_REFRESH. -/
  | boostRefresh
  /-- VOLUME. -/
  | volume
  /-- TX_ATT. -/
  | txAtt
  /-- SIDETONE. -/
  | sidetone
  /-- DUCK. -/
  | duck
  /-- EC_MU_TRAIN. -/
  | ecMuTrain
  /-- EC_MU_TRACK. -/
  | ecMuTrack
  /-- EC_CONV. -/
  | ecConv
  /-- EC_LOSS. -/
  | ecLoss
  /-- EC_NLP_ON. -/
  | ecNlpOn
  /-- EC_DT_HANG. -/
  | ecDtHang
  /-- EC_AUTO_SEARCH. -/
  | ecAutoSearch
  /-- EC_RESEARCH. -/
  | ecResearch
deriving DecidableEq, Repr

/-- The two device parameters (Table 5-7). -/
inductive DevParam where
  /-- SEARCH_PEAK_RATIO. -/
  | peakRatio
  /-- SEARCH_TIMEOUT. -/
  | searchTimeout
deriving DecidableEq, Repr

/-- A known parameter id's parameter (R181). -/
inductive ParamName where
  | position (q : PosParam)
  | device (q : DevParam)
deriving DecidableEq, Repr

/-- The parameter an id names; none for an unknown id (R181). -/
def paramOfId : Nat → Option ParamName
  | 0x01 => some (.position .nsEnable)
  | 0x02 => some (.position .nsAmax)
  | 0x03 => some (.position .nsK1)
  | 0x04 => some (.position .nsK2)
  | 0x05 => some (.position .nsK3)
  | 0x06 => some (.position .nsQ1)
  | 0x07 => some (.position .nsQ2)
  | 0x08 => some (.position .nsQ3)
  | 0x09 => some (.position .nsQ4)
  | 0x0A => some (.position .floorRise)
  | 0x0B => some (.position .vadT)
  | 0x0C => some (.position .vadHang)
  | 0x10 => some (.position .boostStart)
  | 0x11 => some (.position .boostK1)
  | 0x12 => some (.position .boostK2)
  | 0x13 => some (.position .boostK3)
  | 0x14 => some (.position .boostQ1)
  | 0x15 => some (.position .boostQ2)
  | 0x16 => some (.position .boostQ3)
  | 0x17 => some (.position .boostQ4)
  | 0x18 => some (.position .boostMax)
  | 0x19 => some (.position .boostRefresh)
  | 0x1A => some (.position .volume)
  | 0x1B => some (.position .txAtt)
  | 0x1C => some (.position .sidetone)
  | 0x1D => some (.position .duck)
  | 0x20 => some (.position .ecMuTrain)
  | 0x21 => some (.position .ecMuTrack)
  | 0x22 => some (.position .ecConv)
  | 0x23 => some (.position .ecLoss)
  | 0x24 => some (.position .ecNlpOn)
  | 0x25 => some (.position .ecDtHang)
  | 0x26 => some (.position .ecAutoSearch)
  | 0x27 => some (.position .ecResearch)
  | 0x28 => some (.device .peakRatio)
  | 0x29 => some (.device .searchTimeout)
  | _ => none

/-- The range and the default of a parameter. -/
structure ParamRange where
  min : Nat
  default : Nat
  max : Nat
deriving DecidableEq, Repr

/-- Tables 1-2, 3-4, 3-5 and 4-8. -/
def posParamRange : PosParam → ParamRange
  | .nsEnable => ⟨0, 1, 1⟩
  | .nsAmax => ⟨0, 16, 63⟩
  | .nsK1 => ⟨0, 4, 120⟩
  | .nsK2 => ⟨0, 8, 120⟩
  | .nsK3 => ⟨0, 16, 120⟩
  | .nsQ1 => ⟨0, 0, 32⟩
  | .nsQ2 => ⟨0, 8, 32⟩
  | .nsQ3 => ⟨0, 6, 32⟩
  | .nsQ4 => ⟨0, 2, 32⟩
  | .floorRise => ⟨1, 32, 250⟩
  | .vadT => ⟨1, 12, 60⟩
  | .vadHang => ⟨0, 50, 250⟩
  | .boostStart => ⟨0, 56, 120⟩
  | .boostK1 => ⟨0, 8, 120⟩
  | .boostK2 => ⟨0, 16, 120⟩
  | .boostK3 => ⟨0, 24, 120⟩
  | .boostQ1 => ⟨0, 4, 32⟩
  | .boostQ2 => ⟨0, 4, 32⟩
  | .boostQ3 => ⟨0, 2, 32⟩
  | .boostQ4 => ⟨0, 0, 32⟩
  | .boostMax => ⟨0, 24, 24⟩
  | .boostRefresh => ⟨25, 625, 2500⟩
  | .volume => ⟨0, 0, 63⟩
  | .txAtt => ⟨0, 0, 63⟩
  | .sidetone => ⟨0, 64, 64⟩
  | .duck => ⟨0, 8, 63⟩
  | .ecMuTrain => ⟨0, 64, 128⟩
  | .ecMuTrack => ⟨0, 16, 128⟩
  | .ecConv => ⟨0, 20, 60⟩
  | .ecLoss => ⟨0, 6, 60⟩
  | .ecNlpOn => ⟨0, 12, 61⟩
  | .ecDtHang => ⟨0, 32, 250⟩
  | .ecAutoSearch => ⟨0, 1, 1⟩
  | .ecResearch => ⟨0, 0, 250⟩

/-- Table 5-7. -/
def devParamRange : DevParam → ParamRange
  | .peakRatio => ⟨2, 6, 15⟩
  | .searchTimeout => ⟨250, 2500, 12500⟩

/-- One position's values in the parameter table (R181). -/
structure PosParams where
  nsEnable : Nat
  nsAmax : Nat
  nsK1 : Nat
  nsK2 : Nat
  nsK3 : Nat
  nsQ1 : Nat
  nsQ2 : Nat
  nsQ3 : Nat
  nsQ4 : Nat
  floorRise : Nat
  vadT : Nat
  vadHang : Nat
  boostStart : Nat
  boostK1 : Nat
  boostK2 : Nat
  boostK3 : Nat
  boostQ1 : Nat
  boostQ2 : Nat
  boostQ3 : Nat
  boostQ4 : Nat
  boostMax : Nat
  boostRefresh : Nat
  volume : Nat
  txAtt : Nat
  sidetone : Nat
  duck : Nat
  ecMuTrain : Nat
  ecMuTrack : Nat
  ecConv : Nat
  ecLoss : Nat
  ecNlpOn : Nat
  ecDtHang : Nat
  ecAutoSearch : Nat
  ecResearch : Nat
deriving DecidableEq, Repr

/-- The defaults (R181). -/
def defaultPosParams : PosParams where
  nsEnable := (posParamRange .nsEnable).default
  nsAmax := (posParamRange .nsAmax).default
  nsK1 := (posParamRange .nsK1).default
  nsK2 := (posParamRange .nsK2).default
  nsK3 := (posParamRange .nsK3).default
  nsQ1 := (posParamRange .nsQ1).default
  nsQ2 := (posParamRange .nsQ2).default
  nsQ3 := (posParamRange .nsQ3).default
  nsQ4 := (posParamRange .nsQ4).default
  floorRise := (posParamRange .floorRise).default
  vadT := (posParamRange .vadT).default
  vadHang := (posParamRange .vadHang).default
  boostStart := (posParamRange .boostStart).default
  boostK1 := (posParamRange .boostK1).default
  boostK2 := (posParamRange .boostK2).default
  boostK3 := (posParamRange .boostK3).default
  boostQ1 := (posParamRange .boostQ1).default
  boostQ2 := (posParamRange .boostQ2).default
  boostQ3 := (posParamRange .boostQ3).default
  boostQ4 := (posParamRange .boostQ4).default
  boostMax := (posParamRange .boostMax).default
  boostRefresh := (posParamRange .boostRefresh).default
  volume := (posParamRange .volume).default
  txAtt := (posParamRange .txAtt).default
  sidetone := (posParamRange .sidetone).default
  duck := (posParamRange .duck).default
  ecMuTrain := (posParamRange .ecMuTrain).default
  ecMuTrack := (posParamRange .ecMuTrack).default
  ecConv := (posParamRange .ecConv).default
  ecLoss := (posParamRange .ecLoss).default
  ecNlpOn := (posParamRange .ecNlpOn).default
  ecDtHang := (posParamRange .ecDtHang).default
  ecAutoSearch := (posParamRange .ecAutoSearch).default
  ecResearch := (posParamRange .ecResearch).default

/-- The stored value of a per-position parameter. -/
def getPosParam (t : PosParams) : PosParam → Nat
  | .nsEnable => t.nsEnable
  | .nsAmax => t.nsAmax
  | .nsK1 => t.nsK1
  | .nsK2 => t.nsK2
  | .nsK3 => t.nsK3
  | .nsQ1 => t.nsQ1
  | .nsQ2 => t.nsQ2
  | .nsQ3 => t.nsQ3
  | .nsQ4 => t.nsQ4
  | .floorRise => t.floorRise
  | .vadT => t.vadT
  | .vadHang => t.vadHang
  | .boostStart => t.boostStart
  | .boostK1 => t.boostK1
  | .boostK2 => t.boostK2
  | .boostK3 => t.boostK3
  | .boostQ1 => t.boostQ1
  | .boostQ2 => t.boostQ2
  | .boostQ3 => t.boostQ3
  | .boostQ4 => t.boostQ4
  | .boostMax => t.boostMax
  | .boostRefresh => t.boostRefresh
  | .volume => t.volume
  | .txAtt => t.txAtt
  | .sidetone => t.sidetone
  | .duck => t.duck
  | .ecMuTrain => t.ecMuTrain
  | .ecMuTrack => t.ecMuTrack
  | .ecConv => t.ecConv
  | .ecLoss => t.ecLoss
  | .ecNlpOn => t.ecNlpOn
  | .ecDtHang => t.ecDtHang
  | .ecAutoSearch => t.ecAutoSearch
  | .ecResearch => t.ecResearch

/-- The table with one value stored. -/
def putPosParam (t : PosParams) (v : Nat) : PosParam → PosParams
  | .nsEnable => { t with nsEnable := v }
  | .nsAmax => { t with nsAmax := v }
  | .nsK1 => { t with nsK1 := v }
  | .nsK2 => { t with nsK2 := v }
  | .nsK3 => { t with nsK3 := v }
  | .nsQ1 => { t with nsQ1 := v }
  | .nsQ2 => { t with nsQ2 := v }
  | .nsQ3 => { t with nsQ3 := v }
  | .nsQ4 => { t with nsQ4 := v }
  | .floorRise => { t with floorRise := v }
  | .vadT => { t with vadT := v }
  | .vadHang => { t with vadHang := v }
  | .boostStart => { t with boostStart := v }
  | .boostK1 => { t with boostK1 := v }
  | .boostK2 => { t with boostK2 := v }
  | .boostK3 => { t with boostK3 := v }
  | .boostQ1 => { t with boostQ1 := v }
  | .boostQ2 => { t with boostQ2 := v }
  | .boostQ3 => { t with boostQ3 := v }
  | .boostQ4 => { t with boostQ4 := v }
  | .boostMax => { t with boostMax := v }
  | .boostRefresh => { t with boostRefresh := v }
  | .volume => { t with volume := v }
  | .txAtt => { t with txAtt := v }
  | .sidetone => { t with sidetone := v }
  | .duck => { t with duck := v }
  | .ecMuTrain => { t with ecMuTrain := v }
  | .ecMuTrack => { t with ecMuTrack := v }
  | .ecConv => { t with ecConv := v }
  | .ecLoss => { t with ecLoss := v }
  | .ecNlpOn => { t with ecNlpOn := v }
  | .ecDtHang => { t with ecDtHang := v }
  | .ecAutoSearch => { t with ecAutoSearch := v }
  | .ecResearch => { t with ecResearch := v }

/-- The device parameters' values (R98, R181). -/
structure DevParams where
  peakRatio : Nat
  searchTimeout : Nat
deriving DecidableEq, Repr

/-- Their defaults. -/
def defaultDevParams : DevParams where
  peakRatio := (devParamRange .peakRatio).default
  searchTimeout := (devParamRange .searchTimeout).default

/-- The stored value of a device parameter. -/
def getDevParam (t : DevParams) : DevParam → Nat
  | .peakRatio => t.peakRatio
  | .searchTimeout => t.searchTimeout

/-- The device table with one value stored. -/
def putDevParam (t : DevParams) (v : Nat) : DevParam → DevParams
  | .peakRatio => { t with peakRatio := v }
  | .searchTimeout => { t with searchTimeout := v }

end Sys2Proof.Machine
end

