-- ==== Sys2Proof/Machine/Arith.lean ====
section
/-! DEFINITION. The shared arithmetic of chapter 2: saturation, scaling, the level index, the floor tracker and the segmented
curve. Division `/` of integers by a positive divisor is the floor of R23; `Int.tdiv` is its truncation toward zero. -/

namespace Sys2Proof.Machine

/-- clamp(x, lo, hi) on integers. -/
def clampInt (x lo hi : Int) : Int := max lo (min x hi)

/-- clamp(x, lo, hi) on naturals. -/
def clampNat (x lo hi : Nat) : Nat := max lo (min x hi)

/-- Saturation to the sample range (R22). -/
def saturate (v : Int) : Int := clampInt v (-32768) 32767

/-- Scaling by a gain index (R26). -/
def scale (v g : Int) : Int := (v * gtab g + 16384) / 32768

/-- A count that stops at 65,535 (R166, R174, R175). -/
def bump16 (n : Nat) : Nat := min (n + 1) 65535

/-- The sum of the squares of a slice (R28). -/
def energySum (xs : List Int) : Nat := (xs.map fun x => x.natAbs * x.natAbs).sum

/-- The level index of mean square E (R28). -/
def levelOfEnergy (e : Nat) : Nat :=
  if e ≤ 1 then 0 else 4 * Nat.log2 e + (4 * e / 2 ^ Nat.log2 e - 4)

/-- The level index of a slice of 64 samples (R28). -/
def levelIndex (xs : List Int) : Nat := levelOfEnergy (energySum xs / 64)

/-- The largest magnitude in a list of samples; 0 for none (R60). -/
def peakMagnitude (xs : List Int) : Nat := xs.foldl (fun m x => max m x.natAbs) 0

/-- A floor tracker: the floor, 0..120, and the rise counter, 0..249 (R30). -/
structure Tracker where
  level : Nat
  count : Nat
deriving DecidableEq, Repr

/-- The preset (R30). -/
def trackerPreset : Tracker := ⟨120, 0⟩

/-- One step of a tracker with the level index of a slice (R30). -/
def trackerStep (rise l : Nat) (t : Tracker) : Tracker :=
  if l < t.level then ⟨l, 0⟩
  else if rise ≤ t.count + 1 then ⟨min (t.level + 1) l, 0⟩
  else ⟨t.level, t.count + 1⟩

/-- Whether the step makes the counter reach RISE (R30). -/
def trackerRiseDue (rise l : Nat) (t : Tracker) : Bool :=
  t.level ≤ l && rise ≤ t.count + 1

/-- The knees and slopes of a segmented curve (R32). -/
structure Curve where
  k1 : Nat
  k2 : Nat
  k3 : Nat
  q1 : Nat
  q2 : Nat
  q3 : Nat
  q4 : Nat
deriving DecidableEq, Repr

/-- The quarter-step displacement D4 at offset w (R32). -/
def curveDisplacement (c : Curve) (w : Nat) : Nat :=
  c.q1 * min w c.k1 + c.q2 * min (w - c.k1) (c.k2 - c.k1) + c.q3 * min (w - c.k2) (c.k3 - c.k2) + c.q4 * (w - c.k3)

/-- A falling curve from its ceiling VMAX, which is also its start value (R32, R33). -/
def curveFalling (c : Curve) (vmax u u0 : Nat) : Nat := vmax - curveDisplacement c (u - u0) / 4

/-- A rising curve from 0 with ceiling VMAX (R32, R33). -/
def curveRising (c : Curve) (vmax u u0 : Nat) : Nat := min (curveDisplacement c (u - u0) / 4) vmax

/-- The suppression instance (R33). -/
def suppressionCurve (t : PosParams) : Curve := ⟨t.nsK1, t.nsK2, t.nsK3, t.nsQ1, t.nsQ2, t.nsQ3, t.nsQ4⟩

/-- The boost instance (R33). -/
def boostCurve (t : PosParams) : Curve := ⟨t.boostK1, t.boostK2, t.boostK3, t.boostQ1, t.boostQ2, t.boostQ3, t.boostQ4⟩

/-- A lag rounded down to a multiple of 16 and clamped to 1792 (R55). -/
def windowStart (lag : Nat) : Nat := min (lag / 16 * 16) 1792

/-- A value moved one step towards a target (R48, R62). -/
def stepTowards (v target : Nat) : Nat :=
  if v < target then v + 1 else if target < v then v - 1 else v

end Sys2Proof.Machine
end

