-- ==== Sys2Proof/Machine/Types.lean ====
section
/-! DEFINITION. The records of the units, as plain data. -/

namespace Sys2Proof.Machine

/-! ## Position Controller (chapter 1) -/

/-- The five call states (R1). -/
inductive CallState where
  | vacant
  | ready
  | announce
  | connected
  | held
deriving DecidableEq, Repr

/-! ## Floor Suppressor (chapter 3) -/

/-- Table 3-1. -/
structure Suppressor where
  /-- The microphone floor F_m and its rise counter. -/
  floor : Tracker
  vad : Bool
  hangover : Nat
  /-- Applied suppression A_a. -/
  applied : Nat
  /-- Boost target B_t. -/
  target : Nat
  /-- Applied boost B. -/
  boost : Nat
  /-- Refresh counter. -/
  refresh : Nat
deriving DecidableEq, Repr

/-! ## Echo Canceller (chapter 4) -/

/-- The canceller modes (R63), in the order of EC-MODE's codes (R77). -/
inductive CancellerMode where
  | off
  | bypass
  | on
deriving DecidableEq, Repr

/-- The canceller states (R63). -/
inductive CancellerState where
  | off
  | bypass
  | standby
  | training
  | tracking
deriving DecidableEq, Repr

/-- The record of one canceller (R54, R55, R63, Table 4-9). -/
structure Canceller where
  mode : CancellerMode
  state : CancellerState
  /-- The reference history, 2112 samples, oldest first: sample 2048 + j is x(n0 + j) of the last slice (R54). -/
  history : List Int
  /-- The window start D. -/
  window : Nat
  /-- h_0 .. h_255. -/
  coeffs : List Int
  /-- ERLE_s. -/
  erle : Nat
  /-- The double-talk hangover. -/
  hangover : Nat
  /-- The host freeze flag. -/
  freeze : Bool
  convergence : Nat
  divergence : Nat
  loss : Nat
  research : Nat
  /-- The caller-path floor F_c and its rise counter. -/
  floor : Tracker
  /-- The comfort-noise register. -/
  noise : BitVec 16
deriving DecidableEq, Repr

/-! ## Delay Search Engine (chapter 5) -/

/-- Search kinds (Table 5-1). -/
inductive SearchKind where
  | long
  | short
deriving DecidableEq, Repr

/-- Search origins (R84). -/
inductive SearchOrigin where
  | host
  | auto
deriving DecidableEq, Repr

/-- The outcomes of a search (Table 5-6). -/
inductive SearchOutcome where
  | foundMoved
  | foundSame
  | noPeak
  | timedOut
  | cancelled
deriving DecidableEq, Repr

/-- What a request asks for: a follow-up holds no more (R84, R86). -/
structure SearchRequest where
  kind : SearchKind
  origin : SearchOrigin
  escalate : Bool
deriving DecidableEq, Repr

/-- An entry of the search queue (R85). -/
structure SearchEntry where
  position : PosIx
  request : SearchRequest
deriving DecidableEq, Repr

/-- The in-flight record (R84). -/
structure InFlight where
  entry : SearchEntry
  first : Nat
  last : Nat
  eligible : Nat
  elapsed : Nat
deriving DecidableEq, Repr

/-- The search fields of an ECHO report (Table 5-6). -/
structure SearchFields where
  request : SearchRequest
  outcome : SearchOutcome
  eligible : Nat
  elapsed : Nat
  peakLag : Option Nat
deriving DecidableEq, Repr

/-- The engine (R84, R85): BUSY exactly while `inFlight` is present. -/
structure Engine where
  inFlight : Option InFlight
  followUp : Option SearchRequest
  queue : List SearchEntry
  /-- C[0] .. C[2047]. -/
  accumulators : List Int
deriving DecidableEq, Repr

/-! ## Players (chapter 7) -/

/-- What an item plays (R124). -/
inductive Source where
  | clip (id : ClipIx)
  | stream (id : StreamIx)
deriving DecidableEq, Repr

/-- An item (Table 7-1). -/
structure Item where
  source : Source
  startOffset : Nat
  loops : Nat
  level : Nat
  tag : Nat
  readOffset : Nat
  passes : Nat
deriving DecidableEq, Repr

/-- A player (R123): PLAYING exactly while it has a current item. The stack is held newest first, the queue head first. -/
structure Player where
  current : Option Item
  stack : List Item
  queue : List Item
deriving DecidableEq, Repr

/-! ## Tone Units (chapter 9) -/

/-- A tone's route (R156), in the order of TONE-START's codes. -/
inductive Route where
  | net
  | ear
  | both
deriving DecidableEq, Repr

/-- The tone unit (R156). -/
structure Tone where
  running : Bool
  route : Route
  increment : Nat
  level : Nat
  period : Nat
  onTime : Nat
  bursts : Nat
  phase : Nat
  cycle : Nat
  burstCount : Nat
deriving DecidableEq, Repr

/-! ## One position -/

/-- Everything the part holds for one position. -/
structure Position where
  call : CallState
  mute : Bool
  announceTag : Nat
  params : PosParams
  suppressor : Suppressor
  canceller : Canceller
  net : Player
  agent : Player
  tone : Tone
  /-- The last search outcome of the position (R97). -/
  lastSearch : Option SearchFields
  /-- The model's own: the position still has its slice of the present period to process. Log entry 4. -/
  sliceDue : Bool
deriving DecidableEq, Repr

/-! ## Prompt Store (chapter 6) -/

/-- Clip states (Table 6-1). -/
inductive ClipState where
  | free
  | uploading
  | ready
  | moving
  | damaged
deriving DecidableEq, Repr

/-- Stored formats (R104), in the order of their codes (R108). -/
inductive Format where
  | lin16
  | pack12
  | log8
deriving DecidableEq, Repr

/-- A clip-table entry (Table 6-1). -/
structure Clip where
  state : ClipState
  format : Format
  capacity : Nat
  length : Nat
  firstPage : Nat
  pageCount : Nat
  pending : Option Int
  refCount : Nat
  beforeMove : Option ClipState
deriving DecidableEq, Repr

/-- The move in progress (R116). -/
structure Move where
  clip : ClipIx
  source : Nat
  dest : Nat
  pages : Nat
  copied : Nat
deriving DecidableEq, Repr

/-- The compaction record (R116). -/
structure Compaction where
  running : Bool
  scan : Option Nat
  move : Option Move
  moved : Nat
  stayed : Nat
  skipped : Nat
deriving DecidableEq, Repr

/-- The Prompt Store. `mem` lists (address, byte) pairs, addresses strictly rising, no byte 0: an unlisted byte reads 0.
Log entry 9. -/
structure Store where
  mem : List Host.Cell
  clips : Vector Clip 64
  /-- The expansion table, 256 entries (R106). -/
  expansion : List Int
  compaction : Compaction
deriving DecidableEq, Repr

/-! ## Hold Streams (chapter 8) -/

/-- Stream states (Table 8-1). -/
inductive StreamState where
  | closed
  | opened
  | running
  | stopped
deriving DecidableEq, Repr

/-- Half states (R143). -/
inductive HalfState where
  | empty
  | filling
  | full
  | playing
deriving DecidableEq, Repr

/-- One half of a ring (R142, R143). -/
structure Half where
  state : HalfState
  fill : Nat
  valid : Nat
deriving DecidableEq, Repr

/-- One value of a stream's fixed slice (R148). -/
inductive StreamValue where
  | silence
  | sample (v : Int)
  | code (b : Nat)
deriving DecidableEq, Repr

/-- A stream record (Table 8-1), with the slice fixed for the present period and the judgement made after the last fixing
(R148, R151). -/
structure Stream where
  state : StreamState
  format : Format
  halfSize : Nat
  firstPage : Nat
  pageCount : Nat
  half0 : Half
  half1 : Half
  readHalf : Fin 2
  readOffset : Nat
  underrun : Bool
  listeners : Nat
  slice : List StreamValue
  sounding : Bool
deriving DecidableEq, Repr

/-! ## Audio ports (chapter 10) -/

/-- Port roles (R163), in the order of their codes. -/
inductive PortRole where
  | master
  | slave
deriving DecidableEq, Repr

/-- Port states (R164). -/
inductive PortState where
  | stopped
  | syncing
  | locked
deriving DecidableEq, Repr

/-- One port (R162 to R164). `acting`: the role in effect, which is the stored one but for a role stored in standby: that takes effect
at WAKE (R163; log entry 38). -/
structure Port where
  role : PortRole
  state : PortState
  goodSync : Nat
  slotMap : Vector (Fin 16) 16
  acting : PortRole
deriving DecidableEq, Repr

/-- The four slip counters of the Position Port (R166). -/
structure Slips where
  rxOver : Nat
  rxUnder : Nat
  txOver : Nat
  txUnder : Nat
deriving DecidableEq, Repr

/-- A slice in the receive buffer: received from the codecs, or silent and not received (R166, R167). -/
structure RxSlice where
  received : Bool
  words : AudioBlock
deriving DecidableEq, Repr

/-- The timing source (R165). -/
inductive TimingSource where
  | network
  | internal
deriving DecidableEq, Repr

/-- What a port's clock pins do: the bit clock and the frame sync (R164, Table 10-4). -/
inductive ClockPins where
  /-- Outputs, driven from the slice timing source. -/
  | driven (source : TimingSource)
  /-- Outputs, held low. -/
  | heldLow
  /-- Inputs. -/
  | inputs
deriving DecidableEq, Repr

/-- The ports, the elastic buffers (oldest first), the words being sent, and standby. `grouping`: the first group of the Position
Port since it became a LOCKED slave has begun (R166; log entry 10). -/
structure Ports where
  network : Port
  position : Port
  standby : Bool
  rx : List RxSlice
  tx : List AudioBlock
  grouping : Bool
  slips : Slips
  ndout : AudioBlock
  pdout : AudioBlock
deriving DecidableEq, Repr

/-- The slice period in progress: what the units read as the period began (R164, R166), and the earpiece slices so far. -/
structure Period where
  active : Bool
  netLocked : Bool
  micReceived : Bool
  netWords : AudioBlock
  micWords : AudioBlock
  earpiece : AudioBlock
deriving DecidableEq, Repr

/-! ## Control Link (chapter 11) -/

/-- Result codes (Table 11-4). -/
inductive Result where
  | ok
  | started
  | clamped
  | badKind
  | badSource
  | badLength
  | badValue
  | badParam
  | badState
  | busy
  | storeBusy
  | inUse
  | noSpace
  | full
  | notReady
  | empty
  | damaged
  | asleep
deriving DecidableEq, Repr

/-- One field of a message body (R173): a number of `width` bytes, or a two's-complement number of `width` bytes. -/
inductive Field where
  | num (width value : Nat)
  | signed (width : Nat) (value : Int)
deriving DecidableEq, Repr

/-- A reply (R173). -/
structure Reply where
  kind : Byte
  src : Byte
  tag : Byte
  result : Result
  fields : List Field
deriving DecidableEq, Repr

/-- ECHO events (R81). -/
inductive EchoEvent where
  | converged
  | diverged
  | outcome (o : SearchOutcome)
deriving DecidableEq, Repr

/-- PLAYER-NET and PLAYER-AGENT events (R139). -/
inductive ItemEvent where
  | itemEnd
  | itemDropped
deriving DecidableEq, Repr

/-- Why an item left (R139). -/
inductive LeaveReason where
  | completed
  | replaced
  | stopped
  | cleared
  | sourceClosed
  | stackOverflow
  | flushed
deriving DecidableEq, Repr

/-- The snapshot of a player report (R139). -/
structure ItemReport where
  event : ItemEvent
  reason : LeaveReason
  source : Source
  tag : Nat
  readOffset : Option Nat
  playing : Bool
  currentTag : Option Nat
  stackDepth : Nat
  queueDepth : Nat
deriving DecidableEq, Repr

/-- Why a tone stopped without a command to stop it (R161). -/
inductive StopCause where
  | completed
  | cleared
deriving DecidableEq, Repr

/-- LINK events (R183). -/
inductive LinkEvent where
  | powerOn
  | frameError
  | overrun
  | cleared
deriving DecidableEq, Repr

/-- PORT events (R168). -/
inductive PortEvent where
  | locked
  | lost
  | stopped
  | started
  | slip
deriving DecidableEq, Repr

/-- The port a PORT report concerns; `both` carries the draw of the free value that its code is. Log entry 6. -/
inductive Concerned where
  | one (port : PortId)
  | both (draw : Nat)
deriving DecidableEq, Repr

/-- The snapshot of a PORT report (R168). -/
structure PortReport where
  event : PortEvent
  concerned : Concerned
  netRole : PortRole
  netState : PortState
  posRole : PortRole
  posState : PortState
  source : TimingSource
  slips : Slips
deriving DecidableEq, Repr

/-- STREAM events (R153). -/
inductive StreamEvent where
  | halfEmpty
  | underrun
  | resumed
deriving DecidableEq, Repr

/-- The snapshot of a STREAM report (R153). -/
structure StreamReport where
  event : StreamEvent
  eventHalf : Fin 2
  state : StreamState
  half0 : Half
  half1 : Half
  readHalf : Fin 2
  readOffset : Nat
  underrun : Bool
  listeners : Nat
deriving DecidableEq, Repr

/-- The space figures of the store: total free pages, largest gap, first page of the largest gap (R100). -/
structure SpaceFigures where
  total : Nat
  gap : Nat
  gapFirst : Nat
deriving DecidableEq, Repr

/-- The snapshot a report carries, by kind (Table 11-3). -/
inductive ReportBody where
  | call (p : PosIx) (state : CallState) (mute : Bool) (tag : Nat)
  | echo (p : PosIx) (event : EchoEvent) (state : CancellerState) (window erle : Nat) (last : Option SearchFields)
  | player (p : PosIx) (which : PlayerId) (r : ItemReport)
  | level (p : PosIx) (target previous boost floor : Nat)
  | tone (p : PosIx) (cause : StopCause) (route : Route) (completed bursts : Nat)
  | link (event : LinkEvent) (latch : Bool) (depth discards errors : Nat)
  | port (r : PortReport)
  | store (moved stayed skipped : Nat) (space : SpaceFigures)
  | stream (i : StreamIx) (r : StreamReport)
deriving DecidableEq, Repr

/-- A message of the outbound queue (R178); a report carries its repeat count (R179). -/
inductive Message where
  | reply (r : Reply)
  | report (b : ReportBody) (repeats : Nat)
deriving DecidableEq, Repr

/-- A read transaction in progress (R180). -/
structure Reading where
  /-- The bytes it shifts out: the head message as it stood when the type byte was complete, or the single byte 0. -/
  bytes : List Byte
  /-- Whether there was a head message. -/
  present : Bool
  /-- Reports coalesced into the head entry since. -/
  coalesced : Nat
  /-- Whether a RESET of scope DEVICE emptied the queue since. -/
  emptied : Bool
deriving DecidableEq, Repr

/-- The Control Link's own state (R174, R175, R178, R180). -/
structure Link where
  inbound : List Frame
  latch : Bool
  discards : Nat
  frameErrors : Nat
  outbound : List Message
  reading : Option Reading
  /-- What the last finished read transaction shifted out on SDO after its type byte; elsewhere SDO carries 0x00 (R172). -/
  sdo : List Byte
deriving DecidableEq, Repr

end Sys2Proof.Machine
end

