-- ==== Sys2Proof/Machine/Operands.lean ====
section
/-! DEFINITION. Frames and bodies (R173): how a command body is read, which kinds and sizes there are, and how replies and
reports are laid out as bytes. -/

namespace Sys2Proof.Machine

/-! ## Reading a command body -/

/-- The byte at place i of a body. -/
def byteAt (b : List Byte) (i : Nat) : Nat := (b.getD i 0).toNat

/-- The two-byte number at place i, most significant byte first (R173). -/
def u16At (b : List Byte) (i : Nat) : Nat := byteAt b i * 256 + byteAt b (i + 1)

/-- The four-byte number at place i (R173). -/
def u32At (b : List Byte) (i : Nat) : Nat := u16At b i * 65536 + u16At b (i + 2)

/-- A 16-bit two's-complement value as a sample (R22, R173). -/
def sampleOfWord (w : Nat) : Int := (BitVec.ofNat 16 w).toInt

/-- The 16-bit samples in a run of bytes, two bytes each (R110, R146). -/
def samplesOfBytes : List Byte → List Int
  | a :: b :: rest => sampleOfWord (a.toNat * 256 + b.toNat) :: samplesOfBytes rest
  | _ => []

/-- A player item as read from nine bytes (R173). -/
structure ItemFields where
  sourceKind : Nat
  sourceId : Nat
  startOffset : Nat
  loops : Nat
  level : Nat
  tag : Nat
deriving DecidableEq, Repr

/-- The item at place i of a body (R173). -/
def itemAt (b : List Byte) (i : Nat) : ItemFields where
  sourceKind := byteAt b i
  sourceId := byteAt b (i + 1)
  startOffset := u32At b (i + 2)
  loops := byteAt b (i + 6)
  level := byteAt b (i + 7)
  tag := byteAt b (i + 8)

/-- A part of n bytes that may be absent: its presence byte first (R173). None where the presence byte is missing, is neither
0 nor 1, or the part is cut short. -/
def optionalPart (n : Nat) : List Byte → Option (Option (List Byte) × List Byte)
  | [] => none
  | c :: rest =>
    if c = 0 then some (none, rest)
    else if c = 1 ∧ n ≤ rest.length then some (some (rest.take n), rest.drop n)
    else none

/-- The three optional parts of a CALL-OFFER (R5, R173). -/
structure OfferFields where
  whisper : Option ItemFields
  net : Option ItemFields
  hint : Option Nat
deriving DecidableEq, Repr

/-- The parts of a CALL-OFFER body; none where its size is not the one its presence bytes imply (R177). -/
def offerAt (b : List Byte) : Option OfferFields :=
  match optionalPart 9 b with
  | none => none
  | some (w, b1) =>
    match optionalPart 9 b1 with
    | none => none
    | some (n, b2) =>
      match optionalPart 2 b2 with
      | some (h, []) => some ⟨w.map (itemAt · 0), n.map (itemAt · 0), h.map (u16At · 0)⟩
      | _ => none

/-! ## Writing a command body -/

/-- A two-byte number (R173). -/
def bytes16 (v : BitVec 16) : List Byte := [v.extractLsb' 8 8, v.extractLsb' 0 8]

/-- A four-byte number (R173). -/
def bytes32 (v : BitVec 32) : List Byte :=
  [v.extractLsb' 24 8, v.extractLsb' 16 8, v.extractLsb' 8 8, v.extractLsb' 0 8]

/-- A player item as nine bytes (R173). -/
def itemBytes (i : ItemSpec) : List Byte :=
  [i.sourceKind, i.sourceId] ++ bytes32 i.startOffset ++ [i.loops, i.level, i.tag]

/-- A part that may be absent (R173). -/
def optionalBytes : Option (List Byte) → List Byte
  | none => [0]
  | some b => 1 :: b

/-- A CALL-OFFER body (R173). -/
def offerBytes (whisper net : Option ItemSpec) (hint : Option (BitVec 16)) : List Byte :=
  optionalBytes (whisper.map itemBytes) ++ optionalBytes (net.map itemBytes) ++ optionalBytes (hint.map bytes16)

/-! ## Kinds and sizes -/

/-- The commands that reach a unit (Table 11-2); LINK-CLEAR is acted on at its arrival and is none of them (R176). -/
inductive Command where
  /-- RESET. -/
  | reset
  /-- SLEEP. -/
  | sleep
  /-- WAKE. -/
  | wake
  /-- PORT-SET. -/
  | portSet
  /-- PORT-STATUS. -/
  | portStatus
  /-- SET-PARAM. -/
  | setParam
  /-- GET-PARAM. -/
  | getParam
  /-- POS-OPEN. -/
  | posOpen
  /-- POS-CLOSE. -/
  | posClose
  /-- CALL-OFFER. -/
  | callOffer
  /-- CALL-CONNECT. -/
  | callConnect
  /-- CALL-HOLD. -/
  | callHold
  /-- CALL-CLEAR. -/
  | callClear
  /-- MUTE. -/
  | mute
  /-- POS-STATUS. -/
  | posStatus
  /-- EC-MODE. -/
  | ecMode
  /-- EC-FREEZE. -/
  | ecFreeze
  /-- SEARCH. -/
  | search
  /-- WINDOW-SET. -/
  | windowSet
  /-- EC-STATUS. -/
  | ecStatus
  /-- PLAY. -/
  | play
  /-- STOP. -/
  | stop
  /-- PLAYER-STATUS. -/
  | playerStatus
  /-- TONE-START. -/
  | toneStart
  /-- TONE-STOP. -/
  | toneStop
  /-- CLIP-ALLOC. -/
  | clipAlloc
  /-- CLIP-WRITE. -/
  | clipWrite
  /-- CLIP-END. -/
  | clipEnd
  /-- CLIP-FREE. -/
  | clipFree
  /-- CLIP-INFO. -/
  | clipInfo
  /-- STORE-COMPACT. -/
  | storeCompact
  /-- EXPAND-LOAD. -/
  | expandLoad
  /-- STREAM-OPEN. -/
  | streamOpen
  /-- STREAM-FILL. -/
  | streamFill
  /-- STREAM-START. -/
  | streamStart
  /-- STREAM-STOP. -/
  | streamStop
  /-- STREAM-CLOSE. -/
  | streamClose
  /-- STREAM-STATUS. -/
  | streamStatus
deriving DecidableEq, Repr

/-- The command a KIND names (Table 11-2). -/
def commandOfKind : Nat → Option Command
  | 0x01 => some .reset
  | 0x02 => some .sleep
  | 0x03 => some .wake
  | 0x05 => some .portSet
  | 0x06 => some .portStatus
  | 0x08 => some .setParam
  | 0x09 => some .getParam
  | 0x10 => some .posOpen
  | 0x11 => some .posClose
  | 0x12 => some .callOffer
  | 0x13 => some .callConnect
  | 0x14 => some .callHold
  | 0x15 => some .callClear
  | 0x16 => some .mute
  | 0x17 => some .posStatus
  | 0x18 => some .ecMode
  | 0x19 => some .ecFreeze
  | 0x1A => some .search
  | 0x1B => some .windowSet
  | 0x1C => some .ecStatus
  | 0x20 => some .play
  | 0x21 => some .stop
  | 0x22 => some .playerStatus
  | 0x24 => some .toneStart
  | 0x25 => some .toneStop
  | 0x28 => some .clipAlloc
  | 0x29 => some .clipWrite
  | 0x2A => some .clipEnd
  | 0x2B => some .clipFree
  | 0x2C => some .clipInfo
  | 0x2D => some .storeCompact
  | 0x2E => some .expandLoad
  | 0x30 => some .streamOpen
  | 0x31 => some .streamFill
  | 0x32 => some .streamStart
  | 0x33 => some .streamStop
  | 0x34 => some .streamClose
  | 0x35 => some .streamStatus
  | _ => none

/-- The KIND of a command (Table 11-2). -/
def kindOf : Command → Byte
  | .reset => 0x01
  | .sleep => 0x02
  | .wake => 0x03
  | .portSet => 0x05
  | .portStatus => 0x06
  | .setParam => 0x08
  | .getParam => 0x09
  | .posOpen => 0x10
  | .posClose => 0x11
  | .callOffer => 0x12
  | .callConnect => 0x13
  | .callHold => 0x14
  | .callClear => 0x15
  | .mute => 0x16
  | .posStatus => 0x17
  | .ecMode => 0x18
  | .ecFreeze => 0x19
  | .search => 0x1A
  | .windowSet => 0x1B
  | .ecStatus => 0x1C
  | .play => 0x20
  | .stop => 0x21
  | .playerStatus => 0x22
  | .toneStart => 0x24
  | .toneStop => 0x25
  | .clipAlloc => 0x28
  | .clipWrite => 0x29
  | .clipEnd => 0x2A
  | .clipFree => 0x2B
  | .clipInfo => 0x2C
  | .storeCompact => 0x2D
  | .expandLoad => 0x2E
  | .streamOpen => 0x30
  | .streamFill => 0x31
  | .streamStart => 0x32
  | .streamStop => 0x33
  | .streamClose => 0x34
  | .streamStatus => 0x35

/-- The body-size check of R177 (Table 11-2). -/
def bodyFits (c : Command) (b : List Byte) : Bool :=
  match c with
  | .reset => b.length == 2
  | .sleep => b.length == 0
  | .wake => b.length == 0
  | .portSet => b.length == 18
  | .portStatus => b.length == 0
  | .setParam => b.length == 3
  | .getParam => b.length == 1
  | .posOpen => b.length == 0
  | .posClose => b.length == 0
  | .callOffer => (offerAt b).isSome
  | .callConnect => b.length == 0
  | .callHold => b.length == 9
  | .callClear => b.length == 0
  | .mute => b.length == 1
  | .posStatus => b.length == 0
  | .ecMode => b.length == 1
  | .ecFreeze => b.length == 1
  | .search => b.length == 1
  | .windowSet => b.length == 2
  | .ecStatus => b.length == 0
  | .play => b.length == 11
  | .stop => b.length == 2
  | .playerStatus => b.length == 0
  | .toneStart => b.length == 9
  | .toneStop => b.length == 0
  | .clipAlloc => b.length == 6
  | .clipWrite => decide (1 ≤ b.length) && decide (b.length ≤ 241)
  | .clipEnd => b.length == 1
  | .clipFree => b.length == 1
  | .clipInfo => b.length == 1
  | .storeCompact => b.length == 0
  | .expandLoad => decide (3 ≤ b.length) && decide (b.length ≤ 241) && b.length % 2 == 1
  | .streamOpen => b.length == 4
  | .streamFill => decide (3 ≤ b.length) && decide (b.length ≤ 243)
  | .streamStart => b.length == 1
  | .streamStop => b.length == 1
  | .streamClose => b.length == 1
  | .streamStatus => b.length == 1

/-! ## Codes -/

/-- Table 11-4. -/
def resultCode : Result → Byte
  | .ok => 0x00
  | .started => 0x01
  | .clamped => 0x02
  | .badKind => 0x10
  | .badSource => 0x11
  | .badLength => 0x12
  | .badValue => 0x13
  | .badParam => 0x14
  | .badState => 0x20
  | .busy => 0x21
  | .storeBusy => 0x22
  | .inUse => 0x23
  | .noSpace => 0x24
  | .full => 0x25
  | .notReady => 0x26
  | .empty => 0x27
  | .damaged => 0x28
  | .asleep => 0x29

/-- Table 1-6's order. -/
def callStateCode : CallState → Nat
  | .vacant => 0
  | .ready => 1
  | .announce => 2
  | .connected => 3
  | .held => 4

/-- Table 4-7's order, not EC-MODE's codes. Log entry 16. -/
def cancellerModeCode : CancellerMode → Nat
  | .on => 0
  | .off => 1
  | .bypass => 2

/-- The order of Tables 1-6 and 4-7. -/
def cancellerStateCode : CancellerState → Nat
  | .off => 0
  | .bypass => 1
  | .standby => 2
  | .training => 3
  | .tracking => 4

/-- R77's codes. -/
def cancellerModeOfCode : Nat → Option CancellerMode
  | 0 => some .off
  | 1 => some .bypass
  | 2 => some .on
  | _ => none

/-- Table 5-6's order. -/
def searchKindCode : SearchKind → Nat
  | .long => 0
  | .short => 1

/-- R87's codes. -/
def searchKindOfCode : Nat → Option SearchKind
  | 0 => some .short
  | 1 => some .long
  | _ => none

/-- Table 5-6's order. -/
def searchOriginCode : SearchOrigin → Nat
  | .host => 0
  | .auto => 1

/-- Table 5-6's order. -/
def searchOutcomeCode : SearchOutcome → Nat
  | .foundMoved => 0
  | .foundSame => 1
  | .noPeak => 2
  | .timedOut => 3
  | .cancelled => 4

/-- R81's order: CONVERGED, DIVERGED, then the search outcomes. -/
def echoEventCode : EchoEvent → Nat
  | .converged => 0
  | .diverged => 1
  | .outcome o => 2 + searchOutcomeCode o

/-- R125's source kind and id. -/
def sourceCodes : Source → Nat × Nat
  | .clip i => (0, i.val)
  | .stream i => (1, i.val)

/-- R139's order. -/
def itemEventCode : ItemEvent → Nat
  | .itemEnd => 0
  | .itemDropped => 1

/-- R139's order. -/
def leaveReasonCode : LeaveReason → Nat
  | .completed => 0
  | .replaced => 1
  | .stopped => 2
  | .cleared => 3
  | .sourceClosed => 4
  | .stackOverflow => 5
  | .flushed => 6

/-- R157's codes. -/
def routeCode : Route → Nat
  | .net => 0
  | .ear => 1
  | .both => 2

/-- R157's codes. -/
def routeOfCode : Nat → Option Route
  | 0 => some .net
  | 1 => some .ear
  | 2 => some .both
  | _ => none

/-- R161's order. -/
def stopCauseCode : StopCause → Nat
  | .completed => 0
  | .cleared => 1

/-- Table 6-1's order. -/
def clipStateCode : ClipState → Nat
  | .free => 0
  | .uploading => 1
  | .ready => 2
  | .moving => 3
  | .damaged => 4

/-- R108's codes. -/
def formatCode : Format → Nat
  | .lin16 => 0
  | .pack12 => 1
  | .log8 => 2

/-- R108's codes. -/
def formatOfCode : Nat → Option Format
  | 0 => some .lin16
  | 1 => some .pack12
  | 2 => some .log8
  | _ => none

/-- Table 8-1's order of a stream's formats, LIN16 and LOG8. Log entry 16. -/
def streamFormatCode : Format → Nat
  | .lin16 => 0
  | .pack12 => 0
  | .log8 => 1

/-- R145's codes: the code 1 is no format of a stream. -/
def streamFormatOfCode : Nat → Option Format
  | 0 => some .lin16
  | 2 => some .log8
  | _ => none

/-- Table 8-1's order. -/
def streamStateCode : StreamState → Nat
  | .closed => 0
  | .opened => 1
  | .running => 2
  | .stopped => 3

/-- Table 8-1's order. -/
def halfStateCode : HalfState → Nat
  | .empty => 0
  | .filling => 1
  | .full => 2
  | .playing => 3

/-- R153's order. -/
def streamEventCode : StreamEvent → Nat
  | .halfEmpty => 0
  | .underrun => 1
  | .resumed => 2

/-- R163's codes. -/
def portCode : PortId → Nat
  | .network => 0
  | .position => 1

/-- R163's codes. -/
def portOfCode : Nat → Option PortId
  | 0 => some .network
  | 1 => some .position
  | _ => none

/-- R163's codes. -/
def roleCode : PortRole → Nat
  | .master => 0
  | .slave => 1

/-- R163's codes. -/
def roleOfCode : Nat → Option PortRole
  | 0 => some .master
  | 1 => some .slave
  | _ => none

/-- R164's order. -/
def portStateCode : PortState → Nat
  | .stopped => 0
  | .syncing => 1
  | .locked => 2

/-- R168's order. -/
def portEventCode : PortEvent → Nat
  | .locked => 0
  | .lost => 1
  | .stopped => 2
  | .started => 3
  | .slip => 4

/-- R168's order. -/
def timingSourceCode : TimingSource → Nat
  | .network => 0
  | .internal => 1

/-- R183's order. -/
def linkEventCode : LinkEvent → Nat
  | .powerOn => 0
  | .frameError => 1
  | .overrun => 2
  | .cleared => 3

/-- R125's codes. -/
def playerOfCode : Nat → Option PlayerId
  | 0 => some .net
  | 1 => some .agent
  | _ => none

/-- 0 for clear, false or absent; 1 for set, true or present (R173). -/
def flagCode (b : Bool) : Nat := if b then 1 else 0

/-! ## Message bodies -/

/-- A one-byte field. -/
def byteField (v : Nat) : Field := .num 1 v

/-- A field of `width` bytes that may be absent (R173). -/
def optionField (width : Nat) : Option Nat → List Field
  | none => [byteField 0]
  | some v => [byteField 1, .num width v]

/-- The source of an item in a report or a status. -/
def sourceFields (s : Source) : List Field := [byteField (sourceCodes s).1, byteField (sourceCodes s).2]

/-- An item's read offset: clip items only (R139, R140). -/
def clipOffset (i : Item) (v : Nat) : Option Nat :=
  match i.source with
  | .clip _ => some v
  | .stream _ => none

/-- The passes remaining shown for an item: a clip item's own, free for a stream item (R140; log entry 24). -/
def shownPasses (draw place : Nat) (i : Item) : Nat :=
  match i.source with
  | .clip _ => i.passes
  | .stream _ => (Config.streamPasses draw place).toNat

/-- The start offset shown for a queued item: a clip item's own, free for a stream item (R140; log entry 24). -/
def shownOffset (draw place : Nat) (i : Item) : Nat :=
  match i.source with
  | .clip _ => i.startOffset
  | .stream _ => (Config.streamStartOffset draw place).toNat

/-- A current or stacked item in PLAYER-STATUS (R140). -/
def heldItemFields (draw place : Nat) (i : Item) : List Field :=
  sourceFields i.source ++ optionField 3 (clipOffset i i.readOffset) ++
    [byteField (shownPasses draw place i), byteField i.level, byteField i.tag]

/-- A queued item in PLAYER-STATUS (R140). Its start offset takes the 3 bytes of Table 7-1's range, not the 4 of the body of PLAY (R125).
DEDUCED, log entry 35. -/
def queuedItemFields (draw place : Nat) (i : Item) : List Field :=
  sourceFields i.source ++ [.num 3 (shownOffset draw place i), byteField i.loops, byteField i.level, byteField i.tag]

/-- A list of items: its count, then the items (R173). -/
def itemListFields (f : Nat → Item → List Field) (l : List Item) : List Field := byteField l.length :: (l.mapIdx f).flatten

/-- One player in PLAYER-STATUS (R140): the current item is at place 0, the stack from place 1. -/
def playerFields (draw : Nat) (p : Player) : List Field :=
  [byteField (flagCode p.current.isSome)] ++
    (match p.current with
      | none => [byteField 0]
      | some i => byteField 1 :: heldItemFields draw 0 i) ++
    itemListFields (fun n => heldItemFields draw (n + 1)) p.stack ++ itemListFields (queuedItemFields draw) p.queue

/-- The search fields of Table 5-6. -/
def searchFieldsFields (f : SearchFields) : List Field :=
  [byteField (searchKindCode f.request.kind), byteField (searchOriginCode f.request.origin),
    byteField (flagCode f.request.escalate), byteField (searchOutcomeCode f.outcome), byteField f.eligible,
    .num 2 f.elapsed] ++ optionField 2 f.peakLag

/-- The space figures (R109, R113, R120). -/
def spaceFields (g : SpaceFigures) : List Field := [.num 2 g.total, .num 2 g.gap, .num 2 g.gapFirst]

/-- The four slip counters, in the order in which R166 speaks of them. DEDUCED, log entry 37. -/
def slipFields (c : Slips) : List Field := [.num 2 c.rxOver, .num 2 c.rxUnder, .num 2 c.txOver, .num 2 c.txUnder]

/-- The byte of the port a report concerns (R168). -/
def concernedCode : Concerned → Nat
  | .one p => portCode p
  | .both draw => (Config.bothPortsCode draw).toNat

/-- The body of a report, field by field, in the order of the rule that owns it. The last search of an ECHO report is one optional group
with one presence byte, its fields those of Table 5-6: DEDUCED, log entry 32. The state of a CALL report and of a STREAM report is coded
by the table that lists all the states (Tables 1-6 and 8-1): DEDUCED, log entry 16. "Each port's role and state" of a PORT report (R168) is
the Network Port's role and state, then the Position Port's: DEDUCED, log entry 37. -/
def reportFields : ReportBody → List Field
  | .call _ st mute tag => [byteField 0, byteField (callStateCode st), byteField (flagCode mute), byteField tag]
  | .echo _ ev st d erle last =>
    [byteField (echoEventCode ev), byteField (cancellerStateCode st), .num 2 d, byteField erle] ++
      (match last with
        | none => [byteField 0]
        | some f => byteField 1 :: searchFieldsFields f)
  | .player _ _ r =>
    [byteField (itemEventCode r.event), byteField (leaveReasonCode r.reason)] ++ sourceFields r.source ++ [byteField r.tag] ++
      optionField 3 r.readOffset ++ [byteField (flagCode r.playing)] ++ optionField 1 r.currentTag ++
      [byteField r.stackDepth, byteField r.queueDepth]
  | .level _ target previous boost floor =>
    [byteField 0, byteField target, byteField previous, byteField boost, byteField floor]
  | .tone _ cause route completed bursts =>
    [byteField 0, byteField (stopCauseCode cause), byteField (routeCode route), byteField completed, byteField bursts]
  | .link ev latch depth discards errors =>
    [byteField (linkEventCode ev), byteField (flagCode latch), byteField depth, .num 2 discards, .num 2 errors]
  | .port r =>
    [byteField (portEventCode r.event), byteField (concernedCode r.concerned), byteField (roleCode r.netRole),
      byteField (portStateCode r.netState), byteField (roleCode r.posRole), byteField (portStateCode r.posState),
      byteField (timingSourceCode r.source)] ++ slipFields r.slips
  | .store moved stayed skipped space => [byteField 0, byteField moved, byteField stayed, byteField skipped] ++ spaceFields space
  | .stream _ r =>
    [byteField (streamEventCode r.event), byteField r.eventHalf.val, byteField (streamStateCode r.state),
      byteField (halfStateCode r.half0.state), .num 2 r.half0.fill, byteField (halfStateCode r.half1.state), .num 2 r.half1.fill,
      byteField r.readHalf.val, .num 2 r.readOffset, byteField (flagCode r.underrun), byteField r.listeners]

/-- The KIND of a report (Table 11-3). -/
def reportKind : ReportBody → Byte
  | .call .. => 0x60
  | .echo .. => 0x61
  | .player _ .net _ => 0x62
  | .player _ .agent _ => 0x63
  | .level .. => 0x64
  | .tone .. => 0x65
  | .link .. => 0x68
  | .port .. => 0x69
  | .store .. => 0x6A
  | .stream .. => 0x6B

/-- The SRC of a report (Table 11-3). -/
def reportSource : ReportBody → Byte
  | .call p _ _ _ => BitVec.ofNat 8 p.val
  | .echo p _ _ _ _ _ => BitVec.ofNat 8 p.val
  | .player p _ _ => BitVec.ofNat 8 p.val
  | .level p _ _ _ _ => BitVec.ofNat 8 p.val
  | .tone p _ _ _ _ => BitVec.ofNat 8 p.val
  | .link .. => 0xFF
  | .port .. => 0xFF
  | .store .. => 0xFF
  | .stream i _ => BitVec.ofNat 8 i.val

/-- Whether two reports have one kind and source, so that one coalesces into the other (R179). -/
def sameReport (a b : ReportBody) : Bool := reportKind a == reportKind b && reportSource a == reportSource b

/-! ## Bytes on the link -/

/-- A number as `width` bytes, most significant first (R173). -/
def numberBytes (width value : Nat) : List Byte :=
  (List.range width).map fun i => BitVec.ofNat 8 (value / 256 ^ (width - 1 - i))

/-- The bytes of a field; a signed number is in two's complement (R173). -/
def fieldBytes : Field → List Byte
  | .num width value => numberBytes width value
  | .signed width value => numberBytes width (BitVec.ofInt (8 * width) value).toNat

/-- A whole frame, from LEN (Table 11-1). -/
def frameBytes (kind src tag : Byte) (body : List Byte) : List Byte :=
  BitVec.ofNat 8 (3 + body.length) :: kind :: src :: tag :: body

/-- A message as it is shifted out (R173, R180). -/
def messageBytes : Message → List Byte
  | .reply r => frameBytes r.kind r.src r.tag (resultCode r.result :: r.fields.flatMap fieldBytes)
  | .report b n => frameBytes (reportKind b) (reportSource b) (BitVec.ofNat 8 n) ((reportFields b).flatMap fieldBytes)

/-- The KIND of the reply to a command frame: its top bit set (R173). -/
def replyKind (kind : Byte) : Byte := kind ||| 0x80

end Sys2Proof.Machine
end

