-- ==== Sys2Proof/Machine/Defaults.lean ====
section
/-! DEFINITION. The value of each record after power-on and after the resets, from the tables of the chapters that own them. -/

namespace Sys2Proof.Machine

/-- Table 3-1, last column. -/
def suppressorAtReset : Suppressor where
  floor := trackerPreset
  vad := false
  hangover := 0
  applied := 0
  target := 0
  boost := 0
  refresh := 0

/-- A history of zeros (R54). -/
def zeroHistory : List Int := List.replicate 2112 0

/-- Coefficients of zero (R55). -/
def zeroCoeffs : List Int := List.replicate 256 0

/-- The seed position + 1 (R74). -/
def noiseSeed (p : PosIx) : BitVec 16 := BitVec.ofNat 16 (p.val + 1)

/-- Table 4-9, first column. -/
def cancellerAtReset (p : PosIx) : Canceller where
  mode := .on
  state := .standby
  history := zeroHistory
  window := 0
  coeffs := zeroCoeffs
  erle := 0
  hangover := 0
  freeze := false
  convergence := 0
  divergence := 0
  loss := 0
  research := 0
  floor := trackerPreset
  noise := noiseSeed p

/-- An IDLE player with empty lists (R123). -/
def idlePlayer : Player := ⟨none, [], []⟩

/-- The tone unit after a device reset (R156). -/
def toneAtReset : Tone where
  running := false
  route := .ear
  increment := 410
  level := 0
  period := 2
  onTime := 1
  bursts := 1
  phase := 0
  cycle := 0
  burstCount := 0

/-- A position after the device resets (R21). -/
def positionAtReset (p : PosIx) : Position where
  call := .vacant
  mute := false
  announceTag := 0
  params := defaultPosParams
  suppressor := suppressorAtReset
  canceller := cancellerAtReset p
  net := idlePlayer
  agent := idlePlayer
  tone := toneAtReset
  lastSearch := none
  sliceDue := false

/-- Every position after the device resets. -/
def positionsAtReset : Vector Position 16 := Vector.ofFn positionAtReset

/-- The engine after the device resets (R84, R99). -/
def engineAtReset : Engine := ⟨none, none, [], List.replicate 2048 0⟩

/-- A FREE clip entry (R102). -/
def freeClip : Clip where
  state := .free
  format := .lin16
  capacity := 0
  length := 0
  firstPage := 0
  pageCount := 0
  pending := none
  refCount := 0
  beforeMove := none

/-- Compaction idle (R122). -/
def compactionIdle : Compaction := ⟨false, none, none, 0, 0, 0⟩

/-- An EMPTY half (R143). -/
def emptyHalf : Half := ⟨.empty, 0, 0⟩

/-- A slice of silences (R148). -/
def silentSlice : List StreamValue := List.replicate 64 .silence

/-- Table 8-1, last column. -/
def closedStream : Stream where
  state := .closed
  format := .lin16
  halfSize := 0
  firstPage := 0
  pageCount := 0
  half0 := emptyHalf
  half1 := emptyHalf
  readHalf := 0
  readOffset := 0
  underrun := false
  listeners := 0
  slice := silentSlice
  sounding := false

/-- Every stream after the device resets (R142). -/
def streamsAtReset : Vector Stream 4 := Vector.replicate 4 closedStream

/-- Sixteen slots of silence. -/
def silentBlock : AudioBlock := Vector.replicate 16 (Vector.replicate 64 0)

/-- The identity slot map (R162). -/
def identityMap : Vector (Fin 16) 16 := Vector.ofFn id

/-- The state a port starts in: a master is LOCKED, a slave SYNCING (R164, R170, R171). -/
def startState : PortRole → PortState
  | .master => .locked
  | .slave => .syncing

/-- A port as it starts with a role, which takes effect, and a map: its good-sync count is 0 (R163, R170, R171). -/
def startPort (role : PortRole) (slotMap : Vector (Fin 16) 16) : Port := ⟨role, startState role, 0, slotMap, role⟩

/-- Slip counters of 0 (R171). -/
def zeroSlips : Slips := ⟨0, 0, 0, 0⟩

/-- The ports started with given roles and maps, buffers empty, counters 0 (Table 10-3). -/
def startedPorts (netRole posRole : PortRole) (netMap posMap : Vector (Fin 16) 16) : Ports where
  network := startPort netRole netMap
  position := startPort posRole posMap
  standby := false
  rx := []
  tx := []
  grouping := false
  slips := zeroSlips
  ndout := silentBlock
  pdout := silentBlock

/-- The ports after power-on (Table 10-3): Network SLAVE, Position MASTER, identity maps. -/
def portsAtPowerOn : Ports := startedPorts .slave .master identityMap identityMap

/-- No slice period in progress. -/
def noPeriod : Period where
  active := false
  netLocked := false
  micReceived := false
  netWords := silentBlock
  micWords := silentBlock
  earpiece := silentBlock

/-- The store after power-on (Table 6-10), with given page contents, which power-on does not clear. -/
def storeAtPowerOn (mem : List Host.Cell) : Store where
  mem := mem
  clips := Vector.replicate 64 freeClip
  expansion := defaultExpansion
  compaction := compactionIdle

/-- The link after power-on and at the release of the RESET pin (R183). -/
def linkAtPowerOn : Link where
  inbound := []
  latch := false
  discards := 0
  frameErrors := 0
  outbound := [.report (.link .powerOn false 0 0 0) 1]
  reading := none
  sdo := []

end Sys2Proof.Machine
end

