-- ==== Sys2Proof/Machine/State.lean ====
section
/-! DEFINITION. The state of the block, the ways a step can stop, and the state after power-on. -/

namespace Sys2Proof.Machine

/-- Everything the part holds, and the queue of the commands that are waiting. -/
structure State where
  /-- The commands waiting, first in first out. -/
  pending : List Instr
  link : Link
  positions : Vector Position 16
  engine : Engine
  store : Store
  streams : Vector Stream 4
  ports : Ports
  period : Period
  device : DevParams
  /-- The model's own: how many free values have been drawn. Log entry 5. -/
  draws : Nat
deriving DecidableEq, Repr

/-- The faults: none. The manual names no condition that stops the part: a command that cannot act is answered with a result
code (Table 11-4), an error on the link or a port raises a report. -/
inductive Fault where
deriving DecidableEq, Repr

/-- The refusals. -/
inductive Refusal where
  /-- Raised by `exec` alone, for a row without a meaning; no row is without one. Safe. -/
  | notModelled (mnemonic : String)
deriving DecidableEq, Repr

/-- The part after power-on, every field at the value the spec states (R21, R36, R83, R84, R102, R106, R122, R141, R142, R156,
R171, R181, R183), with given page contents, draws and waiting commands. -/
def powerOnState (pending : List Instr) (mem : List Host.Cell) (draws : Nat) : State where
  pending := pending
  link := linkAtPowerOn
  positions := positionsAtReset
  engine := engineAtReset
  store := storeAtPowerOn mem
  streams := streamsAtReset
  ports := portsAtPowerOn
  period := noPeriod
  device := defaultDevParams
  draws := draws

/-- The part right after power-on: no command waiting, no page contents listed. -/
def State.reset : State := powerOnState [] [] 0

end Sys2Proof.Machine
end

