-- ==== Sys2Proof/Machine/Ops.lean ====
section
/-! DEFINITION. The operations every unit is written over: the records of the state, the outbound queue, the free orders, the
store's bytes and its free space. -/

namespace Sys2Proof.Machine

/-! ## Records -/

/-- The record of position p. -/
def getPos (s : State) (p : PosIx) : Position := s.positions[p]

/-- The state with the record of position p replaced. -/
def putPos (s : State) (p : PosIx) (r : Position) : State := { s with positions := s.positions.set p r }

/-- The entry of clip c. -/
def getClip (s : State) (c : ClipIx) : Clip := s.store.clips[c]

/-- The state with the entry of clip c replaced. -/
def putClip (s : State) (c : ClipIx) (r : Clip) : State :=
  { s with store := { s.store with clips := s.store.clips.set c r } }

/-- The record of stream i. -/
def getStream (s : State) (i : StreamIx) : Stream := s.streams[i]

/-- The state with the record of stream i replaced. -/
def putStream (s : State) (i : StreamIx) (r : Stream) : State := { s with streams := s.streams.set i r }

/-- The state with the store's bytes replaced. -/
def putMem (s : State) (m : List Host.Cell) : State := { s with store := { s.store with mem := m } }

/-- The state with the compaction record replaced. -/
def putCompaction (s : State) (c : Compaction) : State := { s with store := { s.store with compaction := c } }

/-- The state with the engine replaced. -/
def putEngine (s : State) (e : Engine) : State := { s with engine := e }

/-- The state with the link replaced. -/
def putLink (s : State) (l : Link) : State := { s with link := l }

/-- The state with the ports replaced. -/
def putPorts (s : State) (r : Ports) : State := { s with ports := r }

/-- The state with the slice period replaced. -/
def putPeriod (s : State) (r : Period) : State := { s with period := r }

/-- One of the two players of a position's record. -/
def playerOf (r : Position) : PlayerId → Player
  | .net => r.net
  | .agent => r.agent

/-- A position's record with one of its players replaced. -/
def withPlayer (r : Position) (w : PlayerId) (pl : Player) : Position :=
  match w with
  | .net => { r with net := pl }
  | .agent => { r with agent := pl }

/-- A player of a position. -/
def getPlayer (s : State) (p : PosIx) (w : PlayerId) : Player := playerOf (getPos s p) w

/-- The state with a player of a position replaced. -/
def putPlayer (s : State) (p : PosIx) (w : PlayerId) (pl : Player) : State := putPos s p (withPlayer (getPos s p) w pl)

/-- The state with the canceller of a position replaced. -/
def putCanceller (s : State) (p : PosIx) (c : Canceller) : State := putPos s p { getPos s p with canceller := c }

/-- "A call is present" (chapter 1, section 1.2). -/
def callPresent : CallState → Bool
  | .vacant => false
  | .ready => false
  | .announce => true
  | .connected => true
  | .held => true

/-- A canceller state in which searches and window moves are taken (R70, R85). -/
def cancelling : CancellerState → Bool
  | .training => true
  | .tracking => true
  | .off => false
  | .bypass => false
  | .standby => false

/-- A position processes slices (R15). -/
def processes (s : State) (p : PosIx) : Bool := !s.ports.standby && decide ((getPos s p).call ≠ .vacant)

/-! ## The outbound queue (R178, R179) -/

/-- The replies waiting (R177). -/
def repliesWaiting : List Message → Nat
  | [] => 0
  | .reply _ :: rest => repliesWaiting rest + 1
  | .report _ _ :: rest => repliesWaiting rest

/-- The outbound queue with a report coalesced into the pending one of its kind and source; none where none is pending. -/
def coalesce (b : ReportBody) : List Message → Option (List Message)
  | [] => none
  | .reply r :: rest => (coalesce b rest).map (Message.reply r :: ·)
  | .report c n :: rest =>
    if sameReport b c then some (.report b (min (n + 1) 255) :: rest)
    else (coalesce b rest).map (Message.report c n :: ·)

/-- Whether the head entry is a report of this kind and source. -/
def headTakes (b : ReportBody) : List Message → Bool
  | .report c _ :: _ => sameReport b c
  | _ => false

/-- A read transaction in progress sees a report coalesced into the head entry (R180). -/
def noteCoalesced (b : ReportBody) (out : List Message) (r : Reading) : Reading :=
  if r.present && !r.emptied && headTakes b out then { r with coalesced := r.coalesced + 1 } else r

/-- A report is raised: coalesced into the pending one, or placed at the tail with repeat count 1 (R178, R179). -/
def raise (b : ReportBody) (s : State) : State :=
  match coalesce b s.link.outbound with
  | some out =>
    putLink s { s.link with outbound := out, reading := s.link.reading.map (noteCoalesced b s.link.outbound) }
  | none => putLink s { s.link with outbound := s.link.outbound ++ [.report b 1] }

/-- Reports raised in order. -/
def raiseAll (bs : List ReportBody) (s : State) : State := bs.foldl (fun t b => raise b t) s

/-- A reply joins the tail (R178). -/
def sendReply (r : Reply) (s : State) : State := putLink s { s.link with outbound := s.link.outbound ++ [.reply r] }

/-! ## Free orders (log entry 5) -/

/-- One more free value drawn. -/
def spendDraw (s : State) : State := { s with draws := s.draws + 1 }

/-- A list with x put in at place i. -/
def putIn {α : Type} (i : Nat) (x : α) (l : List α) : List α := l.take i ++ x :: l.drop i

/-- The things of a list in an order the manual does not fix: every order is possible. -/
def freeOrder {α : Type} (draw : Nat) : List α → List α
  | [] => []
  | x :: rest =>
    match freeOrder draw rest with
    | [] => [x]
    | y :: ys => putIn (Config.orderChoice draw ys.length % (ys.length + 2)) x (y :: ys)

/-- What different units do at one moment, in an order the manual does not fix. -/
def inFreeOrder (acts : List (State → State)) (s : State) : State :=
  spendDraw ((freeOrder s.draws acts).foldl (fun t act => act t) s)

/-! ## The store's bytes (R100, R104; log entry 9) -/

/-- The bytes of the store: 2048 pages of 256 (R100). -/
def storeBytes : Nat := 524288

/-- The byte at an address: an unlisted address reads 0. -/
def readByte : List Host.Cell → Nat → Byte
  | [], _ => 0
  | (b, v) :: rest, a => if b = a then v else readByte rest a

/-- A byte put into a list of cells in its place; 0 removes the entry. -/
def insertByte : List Host.Cell → Nat → Byte → List Host.Cell
  | [], a, v => if v = 0 then [] else [(a, v)]
  | (b, w) :: rest, a, v =>
    if a < b then (if v = 0 then (b, w) :: rest else (a, v) :: (b, w) :: rest)
    else if a = b then (if v = 0 then rest else (a, v) :: rest)
    else (b, w) :: insertByte rest a v

/-- A byte written: there is no byte outside the store. -/
def writeByte (m : List Host.Cell) (a : Nat) (v : Byte) : List Host.Cell :=
  if a < storeBytes then insertByte m a v else m

/-- The canonical form of the store's bytes: addresses strictly rising and inside the store, no byte 0. -/
abbrev Memory.wf (m : List Host.Cell) : Prop :=
  m.Pairwise (fun x y => x.1 < y.1) ∧ ∀ c ∈ m, c.1 < storeBytes ∧ c.2 ≠ 0

/-- Bytes written at consecutive addresses. -/
def writeBytes (m : List Host.Cell) (a : Nat) : List Byte → List Host.Cell
  | [] => m
  | v :: rest => writeBytes (writeByte m a v) (a + 1) rest

/-- n bytes copied from src to dst, the lowest first (R118). -/
def copyBytes : Nat → Nat → Nat → List Host.Cell → List Host.Cell
  | 0, _, _, m => m
  | n + 1, src, dst, m => copyBytes n (src + 1) (dst + 1) (writeByte m dst (readByte m src))

/-- The two-byte sample at an address (R104). -/
def readSample16 (m : List Host.Cell) (a : Nat) : Int :=
  sampleOfWord ((readByte m a).toNat * 256 + (readByte m (a + 1)).toNat)

/-- The bytes of a two-byte sample. -/
def sample16Bytes (v : Int) : List Byte := bytes16 (BitVec.ofInt 16 v)

/-- The 12-bit value of PACK12 (R105). -/
def pack12 (v : Int) : Int := clampInt ((v + 8) / 16) (-2048) 2047

/-- The three bytes of a PACK12 pair (R105). -/
def pairBytes (a b : Int) : List Byte := numberBytes 3 ((BitVec.ofInt 12 a).toNat * 4096 + (BitVec.ofInt 12 b).toNat)

/-- The 12-bit value of the sample at offset i of a PACK12 clip (R105). -/
def readPack12 (m : List Host.Cell) (base i : Nat) : Int :=
  let a := base + 3 * (i / 2)
  let t := (readByte m a).toNat * 65536 + (readByte m (a + 1)).toNat * 256 + (readByte m (a + 2)).toNat
  (BitVec.ofNat 12 (if i % 2 = 0 then t / 4096 else t)).toInt

/-- The decoded sample at offset i of a run that begins at an address (R104, R105, R131). -/
def readSample (st : Store) (f : Format) (base i : Nat) : Int :=
  match f with
  | .lin16 => readSample16 st.mem (base + 2 * i)
  | .pack12 => readPack12 st.mem base i * 16
  | .log8 => st.expansion.getD (readByte st.mem (base + i)).toNat 0

/-! ## The store's space (R100, R101) -/

/-- The regions one clip holds: none when FREE (R100). -/
def clipRegion (c : Clip) : List (Nat × Nat) := if c.state = .free then [] else [(c.firstPage, c.pageCount)]

/-- The region one stream's ring holds: none when CLOSED (R100). -/
def streamRegion (r : Stream) : List (Nat × Nat) := if r.state = .closed then [] else [(r.firstPage, r.pageCount)]

/-- The new region of the clip being moved (R100, R118). -/
def moveRegion (c : Compaction) : List (Nat × Nat) :=
  match c.move with
  | none => []
  | some m => [(m.dest, m.pages)]

/-- Every allocated region: first page and page count (R100). -/
def regions (s : State) : List (Nat × Nat) :=
  s.store.clips.toList.flatMap clipRegion ++ moveRegion s.store.compaction ++ s.streams.toList.flatMap streamRegion

/-- A run of n pages at p meets no region of a list. -/
def runFree (rs : List (Nat × Nat)) (p n : Nat) : Bool :=
  rs.all fun r => decide (p + n ≤ r.1) || decide (r.1 + r.2 ≤ p)

/-- First-fit: the lowest place for n pages (R101). -/
def firstFit (rs : List (Nat × Nat)) (n : Nat) : Option Nat :=
  (List.range (2049 - n)).find? fun p => runFree rs p n

/-- The length of the run of free pages at p, at most `fuel`. -/
def freeRun (rs : List (Nat × Nat)) : Nat → Nat → Nat
  | 0, _ => 0
  | fuel + 1, p => if runFree rs p 1 then freeRun rs fuel (p + 1) + 1 else 0

/-- The gaps, in ascending order: first page and length (R100). -/
def gaps (rs : List (Nat × Nat)) : List (Nat × Nat) :=
  ((List.range 2048).filter fun p => runFree rs p 1 && (p == 0 || !runFree rs (p - 1) 1)).map
    fun p => (p, freeRun rs (2048 - p) p)

/-- The figures of a list of gaps; among several of the largest length any may be reported (R100; log entry 7). -/
def figuresOf (draw : Nat) (gs : List (Nat × Nat)) : SpaceFigures :=
  let total := (gs.map (·.2)).sum
  let largest := (gs.map (·.2)).foldl max 0
  match gs.filter fun g => g.2 == largest with
  | [] => ⟨total, 0, 0⟩
  | [g] => ⟨total, g.2, g.1⟩
  | g :: rest => ⟨total, largest, ((g :: rest).getD (Config.gapChoice draw % (rest.length + 1)) g).1⟩

/-- The store's space figures (R100). -/
def spaceFigures (s : State) : SpaceFigures := figuresOf s.draws (gaps (regions s))

/-- The pages a number of bytes needs (R104, R142). -/
def pagesFor (bytes : Nat) : Nat := (bytes + 255) / 256

/-! ## Answers to a command -/

/-- What a command leaves: the state, and the reply's result and fields. -/
abbrev Answer := State × Result × List Field

/-- A refusal: nothing changes (R3, R76, R108, R144). -/
def refuse (s : State) (r : Result) : Answer := (s, r, [])

/-- A command taken with OK and no reply fields. -/
def taken (s : State) : Answer := (s, .ok, [])

/-- OK or CLAMPED. -/
def okOrClamped (clamped : Bool) : Result := if clamped then .clamped else .ok

/-- The checks of SRC and of standby shared by the position, canceller, search, player and tone commands (R3, R76, R87, R125,
R136, R140, R157, R161): SRC first. -/
def onPosition (s : State) (src : Nat) (act : PosIx → Answer) : Answer :=
  if h : src < 16 then (if s.ports.standby then refuse s .asleep else act ⟨src, h⟩) else refuse s .badSource

/-- The check of SRC shared by the device commands (R108, R144, R163, R168 to R170). -/
def onDevice (s : State) (src : Nat) (act : Answer) : Answer := if src = 255 then act else refuse s .badSource

end Sys2Proof.Machine
end

