-- ==== Sys2Proof/Machine/Canceller.lean ====
section
/-! DEFINITION. The Echo Canceller's own work (chapter 4): its state changes and its part of a slice. -/

namespace Sys2Proof.Machine

/-! ## State changes (R63, R64, R70) -/

/-- All four counters set to 0 (R63). -/
def zeroCounters (c : Canceller) : Canceller := { c with convergence := 0, divergence := 0, loss := 0, research := 0 }

/-- "Zeroed" in Table 4-2: the coefficients, ERLE_s, the double-talk hangover and the four counters. -/
def zeroedCanceller (c : Canceller) : Canceller := { zeroCounters c with coeffs := zeroCoeffs, erle := 0, hangover := 0 }

/-- The end of a call in mode ON: STANDBY, zeroed; another mode keeps everything (R10, R64). -/
def endCallCanceller (c : Canceller) : Canceller :=
  if c.mode = .on then { zeroedCanceller c with state := .standby } else c

/-- A window move (R70): taken only in TRAINING and TRACKING, and nothing changes where D is already there. -/
def moveWindow (d : Nat) (c : Canceller) : Canceller :=
  if cancelling c.state = true ∧ d ≠ c.window then { zeroedCanceller c with window := d, state := .training } else c

/-- The canceller prepared for a call (R6). -/
def prepareCanceller (hint : Option Nat) (c : Canceller) : Canceller :=
  let cleared := { c with history := zeroHistory, freeze := false }
  if c.mode = .on then
    { zeroedCanceller cleared with
      state := .training, floor := trackerPreset, window := windowStart (hint.getD 0) }
  else cleared

/-! ## The comfort-noise generator (R74, R75) -/

/-- One step of the register (R74). -/
def noiseStep (r : BitVec 16) : BitVec 16 := if r.getLsbD 0 then (r >>> 1) ^^^ 0xB400#16 else r >>> 1

/-- The outputs of n steps and the register after them (R74). -/
def noiseRun : Nat → BitVec 16 → List Int × BitVec 16
  | 0, r => ([], r)
  | n + 1, r =>
    let r' := noiseStep r
    let more := noiseRun n r'
    (r'.toInt :: more.1, more.2)

/-- A comfort-noise sample from a generator output at caller-path floor F (R75). -/
def comfortSample (f : Nat) (r : Int) : Int := (r * noiseAmplitude f + 16384) / 32768

/-! ## Estimate and update (R57, R58) -/

/-- The history after stage 3 of a slice: its 64 transmit samples appended, the oldest 64 gone (R54). -/
def appendHistory (h n : List Int) : List Int := (h ++ n).drop n.length

/-- The reference samples under taps 0 to 255 at sample j of the slice: x(n0 + j − D − k), k from 0 (R55, R57). -/
def tapsAt (history : List Int) (d j : Nat) : List Int := ((history.drop (1793 + j - d)).take 256).reverse

/-- The 319 reference samples that enter a tap during the slice (R60). -/
def tapSpan (history : List Int) (d : Nat) : List Int := (history.drop (1793 - d)).take 319

/-- The sum of products of two lists. -/
def dot (a b : List Int) : Int := (List.zipWith (· * ·) a b).sum

/-- The echo estimate of one sample (R57). -/
def estimate (coeffs taps : List Int) : Int := saturate ((dot coeffs taps + 536870912) / 1073741824)

/-- The update of one coefficient (R58). -/
def updateCoeff (mu e power h x : Int) : Int :=
  clampInt (h + (mu * e * x * 4194304).tdiv (power + 1048576)) (-2147483648) 2147483647

/-- The update of every coefficient after one sample (R58). -/
def updateCoeffs (mu e : Int) (coeffs taps : List Int) : List Int :=
  List.zipWith (updateCoeff mu e (dot taps taps)) coeffs taps

/-- The estimates, the errors and the coefficients left by the samples of a slice from sample j on (R56 part 2). -/
def cancelSamples (mu : Int) (adapting : Bool) (history : List Int) (d : Nat) :
    Nat → List Int → List Int → List Int × List Int × List Int
  | _, [], coeffs => ([], [], coeffs)
  | j, y :: ys, coeffs =>
    let taps := tapsAt history d j
    let est := estimate coeffs taps
    let e := saturate (y - est)
    let more := cancelSamples mu adapting history d (j + 1) ys (if adapting then updateCoeffs mu e coeffs taps else coeffs)
    (est :: more.1, e :: more.2.1, more.2.2)

/-! ## Slice conditions (R60, R61, R72) -/

/-- Double-talk is detected (R60). -/
def doubleTalk (ymax xmax : Nat) : Bool := decide (0 < xmax) && decide (xmax ≤ 2 * ymax)

/-- The double-talk hangover after a slice's evaluation (R60). -/
def doubleTalkHangover (hang : Nat) (detected : Bool) (h : Nat) : Nat := if detected then hang else h - 1

/-- The condition on double-talk and the reference that adapting and the NLP share (R61, R72). -/
def quietReference (refActive detected : Bool) (hangover : Nat) : Bool := refActive && !detected && hangover == 0

/-! ## The counters (R62, R65 to R68) -/

/-- ERLE_s after an adapting slice with levels LY and LE (R62): the difference of naturals is already at least 0. -/
def erleStep (ly le erle : Nat) : Nat := stepTowards erle (min (ly - le) 60)

/-- What the divergence test of an adapting slice leaves, and whether the canceller diverged (R66). -/
def divergenceStep (lest ly : Nat) (c : Canceller) : Canceller × Bool :=
  if ly + 8 ≤ lest then
    (if 8 ≤ c.divergence + 1 then ({ zeroedCanceller c with state := .training }, true)
     else ({ c with divergence := c.divergence + 1 }, false))
  else ({ c with divergence := 0 }, false)

/-- What the convergence test of an adapting slice in TRAINING leaves, and whether the canceller converged (R65). -/
def convergenceStep (conv : Nat) (c : Canceller) : Canceller × Bool :=
  if conv ≤ c.erle then
    (if 25 ≤ c.convergence + 1 then ({ zeroCounters c with state := .tracking }, true)
     else ({ c with convergence := c.convergence + 1 }, false))
  else ({ c with convergence := 0 }, false)

/-- What the loss test of an adapting slice in TRACKING leaves, and whether the count was reached (R67). -/
def lossStep (lossLevel : Nat) (c : Canceller) : Canceller × Bool :=
  if c.erle < lossLevel then
    (if 250 ≤ c.loss + 1 then ({ c with loss := 0 }, true) else ({ c with loss := c.loss + 1 }, false))
  else ({ c with loss := 0 }, false)

/-- What a slice in TRACKING leaves of the research counter, and whether the period was reached (R68). -/
def researchStep (seconds : Nat) (c : Canceller) : Canceller × Bool :=
  if seconds = 0 then ({ c with research := 0 }, false)
  else if seconds * 250 ≤ c.research + 1 then ({ c with research := 0 }, true)
  else ({ c with research := c.research + 1 }, false)

/-! ## Stage 4 of a slice (R56, R71) -/

/-- What stage 4 leaves. -/
structure CancellerSlice where
  canceller : Canceller
  /-- The caller slice c. -/
  caller : List Int
  event : Option EchoEvent
  lossRequest : Bool
  researchRequest : Bool
deriving DecidableEq, Repr

/-- The research counter at the end of a slice that began in TRACKING and did not diverge (R56, R68). -/
def finishResearch (t : PosParams) (wasTracking : Bool) (r : CancellerSlice) : CancellerSlice :=
  if wasTracking && decide (r.canceller.state = .tracking) then
    let x := researchStep t.ecResearch r.canceller
    { r with canceller := x.1, researchRequest := x.2 }
  else r

/-- The counters of an adapting slice: ERLE_s, then the divergence test, then the convergence or the loss test (R56, R66). -/
def adaptingCounters (t : PosParams) (ly le lest : Nat) (caller : List Int) (c : Canceller) : CancellerSlice :=
  let moved := { c with erle := erleStep ly le c.erle }
  let d := divergenceStep lest ly moved
  if d.2 then ⟨d.1, caller, some .diverged, false, false⟩
  else if d.1.state = .training then
    let x := convergenceStep t.ecConv d.1
    ⟨x.1, caller, if x.2 then some .converged else none, false, false⟩
  else
    let x := lossStep t.ecLoss d.1
    ⟨x.1, caller, none, x.2 && t.ecAutoSearch == 1, false⟩

/-- Stage 4 in TRAINING or TRACKING with the Network Port locked (R56). -/
def cancelSlice (t : PosParams) (refActive : Bool) (ys : List Int) (c : Canceller) : CancellerSlice :=
  let detected := doubleTalk (peakMagnitude ys) (peakMagnitude (tapSpan c.history c.window))
  let hang := doubleTalkHangover t.ecDtHang detected c.hangover
  let quiet := quietReference refActive detected hang
  let adapting := quiet && !c.freeze
  let nlp := quiet && decide (t.ecNlpOn ≤ c.erle)
  let mu : Int := (if c.state = .training then t.ecMuTrain else t.ecMuTrack : Nat)
  let run := cancelSamples mu adapting c.history c.window 0 ys c.coeffs
  let le := levelIndex run.2.1
  let fc := trackerStep t.floorRise le c.floor
  let noise := noiseRun 64 c.noise
  let caller := if nlp then noise.1.map (comfortSample fc.level) else run.2.1
  let after := { c with hangover := hang, coeffs := run.2.2, floor := fc, noise := noise.2 }
  finishResearch t (decide (c.state = .tracking))
    (if adapting then adaptingCounters t (levelIndex ys) le (levelIndex run.1) caller after
     else ⟨after, caller, none, false, false⟩)

/-- Stage 4 in TRAINING or TRACKING with the Network Port not locked (R56, last paragraph). -/
def unlockedSlice (t : PosParams) (c : Canceller) : CancellerSlice :=
  let after := { c with hangover := doubleTalkHangover t.ecDtHang false c.hangover, noise := (noiseRun 64 c.noise).2 }
  finishResearch t (decide (c.state = .tracking)) ⟨after, List.replicate 64 0, none, false, false⟩

/-- Stage 4 of a slice (R56, R71): the return samples read 0 while the Network Port is not locked. -/
def cancellerStage (t : PosParams) (netLocked refActive : Bool) (ys : List Int) (c : Canceller) : CancellerSlice :=
  if cancelling c.state then
    (if netLocked then cancelSlice t refActive ys c else unlockedSlice t c)
  else ⟨c, ys, none, false, false⟩

end Sys2Proof.Machine
end

