-- ==== Sys2Proof/Machine/Search.lean ====
section
/-! DEFINITION. The Delay Search Engine (chapter 5). -/

namespace Sys2Proof.Machine

/-! ## Reports -/

/-- The ECHO report of a position as the canceller and the last search outcome stand (R81, R97). -/
def echoReport (p : PosIx) (ev : EchoEvent) (s : State) : ReportBody :=
  .echo p ev (getPos s p).canceller.state (getPos s p).canceller.window (getPos s p).canceller.erle (getPos s p).lastSearch

/-- A search outcome kept as the position's last (R97). -/
def keepOutcome (p : PosIx) (f : SearchFields) (s : State) : State := putPos s p { getPos s p with lastSearch := some f }

/-! ## Requests (R86, R88) -/

/-- The merge of two requests (R88). -/
def mergeRequests (a b : SearchRequest) : SearchRequest where
  kind := if a.kind = .long ∨ b.kind = .long then .long else .short
  origin := if a.origin = .host ∨ b.origin = .host then .host else .auto
  escalate := a.escalate || b.escalate

/-- The span of a search with the window start at its start (Table 5-1). -/
def searchSpan (k : SearchKind) (d : Nat) : Nat × Nat :=
  match k with
  | .long => (0, 2047)
  | .short => (d - 64, min 2047 (d + 319))

/-- The eligible slices a kind needs (Table 5-1). -/
def slicesNeeded : SearchKind → Nat
  | .long => 200
  | .short => 50

/-- The accumulators with those of a span set to 0 (R89). -/
def clearSpan (first last : Nat) (acc : List Int) : List Int :=
  acc.mapIdx fun l v => if first ≤ l ∧ l ≤ last then 0 else v

/-- An entry starts (R89). -/
def startEntry (e : SearchEntry) (s : State) : State :=
  let span := searchSpan e.request.kind (getPos s e.position).canceller.window
  putEngine s { s.engine with
    inFlight := some ⟨e, span.1, span.2, 0, 0⟩
    followUp := none
    accumulators := clearSpan span.1 span.2 s.engine.accumulators }

/-- On an IDLE engine the head entry, if any, leaves the queue and starts (R89). -/
def startHead (s : State) : State :=
  match s.engine.inFlight, s.engine.queue with
  | none, e :: rest => startEntry e (putEngine s { s.engine with queue := rest })
  | _, _ => s

/-- How a request was placed (R87, R88). -/
inductive Disposition where
  | started
  | queued
  | merged
  | followUp
deriving DecidableEq, Repr

/-- R87's order. -/
def dispositionCode : Disposition → Nat
  | .started => 0
  | .queued => 1
  | .merged => 2
  | .followUp => 3

/-- A position's search in flight. -/
def inFlightFor (s : State) (p : PosIx) : Option InFlight := s.engine.inFlight.filter fun f => f.entry.position == p

/-- A position's entry in the queue. -/
def queuedFor (s : State) (p : PosIx) : Option SearchEntry := s.engine.queue.find? fun e => e.position == p

/-- The queue with a request merged into a position's entry, which keeps its place (R88). -/
def mergeQueued (p : PosIx) (r : SearchRequest) (q : List SearchEntry) : List SearchEntry :=
  q.map fun e => if e.position = p then { e with request := mergeRequests e.request r } else e

/-- A request placed by the first case that applies (R88). -/
def placeRequest (p : PosIx) (r : SearchRequest) (s : State) : State × Disposition :=
  if (inFlightFor s p).isSome then
    (putEngine s { s.engine with
      followUp := some (match s.engine.followUp with | none => r | some f => mergeRequests f r) }, .followUp)
  else if (queuedFor s p).isSome then
    (putEngine s { s.engine with queue := mergeQueued p r s.engine.queue }, .merged)
  else if s.engine.inFlight.isNone then (startEntry ⟨p, r⟩ s, .started)
  else (putEngine s { s.engine with queue := s.engine.queue ++ [⟨p, r⟩] }, .queued)

/-- An automatic SHORT request (R67, R68, R86). -/
def autoShort : SearchRequest := ⟨.short, .auto, false⟩

/-! ## Accumulating (R90, R91) -/

/-- Saturation to 48 bits (R91). -/
def saturate48 (v : Int) : Int := clampInt v (-140737488355328) 140737488355327

/-- The slice sum of one lag: x(n − ℓ) × y(n) over the slice (R90). -/
def sliceSum (history ys : List Int) (lag : Nat) : Int := dot (history.drop (2048 - lag)) ys

/-- The accumulators after an eligible slice (R90, R91). -/
def accumulateSpan (history ys : List Int) (first last : Nat) (acc : List Int) : List Int :=
  acc.mapIdx fun l v => if first ≤ l ∧ l ≤ last then saturate48 (v + sliceSum history ys l) else v

/-- The engine's work on one slice of the in-flight position (R90). -/
def accumulate (refActive : Bool) (history ys : List Int) (f : InFlight) (e : Engine) : Engine :=
  if refActive then
    { e with
      inFlight := some { f with elapsed := f.elapsed + 1, eligible := f.eligible + 1 }
      accumulators := accumulateSpan history ys f.first f.last e.accumulators }
  else { e with inFlight := some { f with elapsed := f.elapsed + 1 } }

/-! ## Ending a search (R92 to R95) -/

/-- The magnitudes of the accumulators of a span. -/
def spanMagnitudes (first last : Nat) (acc : List Int) : List Nat :=
  ((acc.drop first).take (last + 1 - first)).map Int.natAbs

/-- The largest of a list of magnitudes. -/
def largest (l : List Nat) : Nat := l.foldl max 0

/-- The peak lag: the smallest of the span with the largest magnitude (R93). -/
def peakLag (first last : Nat) (acc : List Int) : Nat :=
  first + (spanMagnitudes first last acc).findIdx fun m => m == largest (spanMagnitudes first last acc)

/-- The ratio test (R93). -/
def peakFound (ratio first last : Nat) (acc : List Int) : Bool :=
  let m := spanMagnitudes first last acc
  decide (0 < largest m) && decide (ratio * (m.sum / m.length) ≤ largest m)

/-- The new window start for a peak lag (R94). -/
def windowForPeak (lag : Nat) : Nat := windowStart (lag - 32)

/-- The outcome of a search that completes (R93, R94). -/
def completionOutcome (ratio d : Nat) (f : InFlight) (acc : List Int) : SearchOutcome :=
  if peakFound ratio f.first f.last acc then
    (if windowForPeak (peakLag f.first f.last acc) = d then .foundSame else .foundMoved)
  else .noPeak

/-- Whether a search's end makes an escalation request (R95). -/
def escalates (o : SearchOutcome) (r : SearchRequest) (auto : Nat) : Bool :=
  decide (o = .noPeak) && decide (r.kind = .short) && decide (r.origin = .auto) && auto == 1

/-- The search leaves the engine, its follow-up joins the tail, and the head starts (R95 steps 4 to 6). -/
def releaseEngine (p : PosIx) (s : State) : State :=
  startHead (putEngine s { s.engine with
    inFlight := none
    followUp := none
    queue := s.engine.queue ++ (match s.engine.followUp with | none => [] | some r => [⟨p, r⟩]) })

/-- The end of a search with an outcome (R95), and the ECHO report it hands over. -/
def endSearch (o : SearchOutcome) (lag : Option Nat) (f : InFlight) (s : State) : State × ReportBody :=
  let p := f.entry.position
  let moved :=
    if o = .foundMoved then putCanceller s p (moveWindow (windowForPeak (lag.getD 0)) (getPos s p).canceller) else s
  let kept := keepOutcome p ⟨f.entry.request, o, f.eligible, f.elapsed, lag⟩ moved
  let asked :=
    if escalates o f.entry.request (getPos kept p).params.ecAutoSearch then (placeRequest p ⟨.long, .auto, true⟩ kept).1
    else kept
  (releaseEngine p asked, echoReport p (.outcome o) kept)

/-- The eligible count has reached what the kind needs (R92). -/
def searchComplete (f : InFlight) : Bool := decide (slicesNeeded f.entry.request.kind ≤ f.eligible)

/-- The search times out: not complete, and the elapsed count is at SEARCH_TIMEOUT (R92). -/
def searchTimedOut (timeout : Nat) (f : InFlight) : Bool := !searchComplete f && decide (timeout ≤ f.elapsed)

/-- A search completes: the peak is judged and the outcome applied (R93 to R95). -/
def completeSearch (f : InFlight) (s : State) : State × ReportBody :=
  endSearch
    (completionOutcome s.device.peakRatio (getPos s f.entry.position).canceller.window f s.engine.accumulators)
    (some (peakLag f.first f.last s.engine.accumulators)) f s

/-- The judgement at the end of a slice of the in-flight position (R92), and the report of a search that ended. -/
def judgeSearch (f : InFlight) (s : State) : State × List ReportBody :=
  if searchComplete f then
    let x := completeSearch f s
    (x.1, [x.2])
  else if searchTimedOut s.device.searchTimeout f then
    let x := endSearch .timedOut none f s
    (x.1, [x.2])
  else (s, [])

/-! ## Cancellation (R96) -/

/-- The search fields of a cancelled search or entry (R96, Table 5-6). -/
def cancelledFields (r : SearchRequest) (eligible elapsed : Nat) : SearchFields := ⟨r, .cancelled, eligible, elapsed, none⟩

/-- What the engine holds for a position, as the search fields of its cancellation; none where it holds nothing (R96). -/
def heldFields (s : State) (p : PosIx) : Option SearchFields :=
  match inFlightFor s p with
  | some f => some (cancelledFields f.entry.request f.eligible f.elapsed)
  | none => (queuedFor s p).map fun e => cancelledFields e.request 0 0

/-- The engine without anything of a position (R96 steps 1 and 2). -/
def dropSearches (p : PosIx) (s : State) : State :=
  let queue := s.engine.queue.filter fun e => e.position != p
  if (inFlightFor s p).isSome then putEngine s { s.engine with inFlight := none, followUp := none, queue := queue }
  else putEngine s { s.engine with queue := queue }

/-- The searches of a position are cancelled (R96). -/
def cancelSearches (p : PosIx) (s : State) : State :=
  match heldFields s p with
  | none => s
  | some f =>
    let kept := keepOutcome p f (dropSearches p s)
    startHead (raise (echoReport p (.outcome .cancelled) kept) kept)

/-- What the engine holds for a position, as EC-STATUS codes it (R80, R85). -/
def searchCondition (s : State) (p : PosIx) : Nat :=
  if (inFlightFor s p).isSome then (if s.engine.followUp.isSome then 3 else 2)
  else if (queuedFor s p).isSome then 1 else 0

end Sys2Proof.Machine
end

