-- ==== Sys2Proof/Machine/EchoCommands.lean ====
section
/-! DEFINITION. The commands of the Echo Canceller (R76 to R80) and of the Delay Search Engine (R87). -/

namespace Sys2Proof.Machine

/-- EC-MODE's effect on the canceller (R77). -/
def enterMode (m : CancellerMode) (call : CallState) (c : Canceller) : Canceller :=
  match m with
  | .off => { zeroedCanceller c with mode := .off, state := .off }
  | .bypass => { c with mode := .bypass, state := .bypass }
  | .on =>
    if callPresent call then { zeroedCanceller c with mode := .on, state := .training, coeffs := c.coeffs }
    else { zeroedCanceller c with mode := .on, state := .standby }

/-- EC-MODE's effect (R77): a mode equal to the present one changes nothing; leaving TRAINING or TRACKING cancels the searches. -/
def changeMode (m : CancellerMode) (p : PosIx) (s : State) : State :=
  let c := (getPos s p).canceller
  if c.mode = m then s
  else
    let t := putCanceller s p (enterMode m (getPos s p).call c)
    if cancelling c.state then cancelSearches p t else t

/-- EC-MODE (R77). -/
def ecModeCommand (src : Nat) (b : List Byte) (s : State) : Answer :=
  onPosition s src fun p =>
    match cancellerModeOfCode (byteAt b 0) with
    | none => refuse s .badValue
    | some m => taken (changeMode m p s)

/-- EC-FREEZE (R78). -/
def ecFreezeCommand (src : Nat) (b : List Byte) (s : State) : Answer :=
  onPosition s src fun p =>
    if 1 < byteAt b 0 then refuse s .badValue
    else taken (putCanceller s p { (getPos s p).canceller with freeze := byteAt b 0 == 1 })

/-- WINDOW-SET (R79). -/
def windowSetCommand (src : Nat) (b : List Byte) (s : State) : Answer :=
  onPosition s src fun p =>
    if cancelling (getPos s p).canceller.state = false then refuse s .badState
    else
      let d := windowStart (u16At b 0)
      (putCanceller s p (moveWindow d (getPos s p).canceller), okOrClamped (decide (d ≠ u16At b 0)), [.num 2 d])

/-- The peak tap: the lowest tap with the largest magnitude (R80). -/
def peakTap (coeffs : List Int) : Nat := (coeffs.map Int.natAbs).findIdx fun m => m == largest (coeffs.map Int.natAbs)

/-- The fields of EC-STATUS (Table 4-7). -/
def ecStatusFields (c : Canceller) (search : Nat) : List Field :=
  [byteField (cancellerModeCode c.mode), byteField (cancellerStateCode c.state), byteField (flagCode c.freeze),
    .num 2 c.window, byteField c.erle, byteField c.hangover, byteField c.floor.level, byteField (peakTap c.coeffs),
    .signed 4 (c.coeffs.getD (peakTap c.coeffs) 0), byteField search]

/-- EC-STATUS (R80). -/
def ecStatusCommand (src : Nat) (s : State) : Answer :=
  onPosition s src fun p => (s, .ok, ecStatusFields (getPos s p).canceller (searchCondition s p))

/-- SEARCH (R87). -/
def searchCommand (src : Nat) (b : List Byte) (s : State) : Answer :=
  onPosition s src fun p =>
    match searchKindOfCode (byteAt b 0) with
    | none => refuse s .badValue
    | some k =>
      if callPresent (getPos s p).call = true ∧ cancelling (getPos s p).canceller.state = true then
        let x := placeRequest p ⟨k, .host, false⟩ s
        (x.1, .ok, [byteField (dispositionCode x.2), byteField x.1.engine.queue.length])
      else refuse s .badState

end Sys2Proof.Machine
end

