-- ==== Sys2Proof/Machine/Params.lean ====
section
/-! DEFINITION. The parameter table's commands (R181) and the order of the knees (R34). -/

namespace Sys2Proof.Machine

/-- A value clamped to a parameter's range (R181). -/
def inRange (r : ParamRange) (v : Nat) : Nat := clampNat v r.min r.max

/-- The value stored for a per-position parameter: clamped to its range, and a knee to its neighbours as they stand (R34,
R181). -/
def storedValueOf (t : PosParams) (q : PosParam) (v : Nat) : Nat :=
  match q with
  | .nsK1 => min (inRange (posParamRange .nsK1) v) t.nsK2
  | .nsK2 => clampNat (inRange (posParamRange .nsK2) v) t.nsK1 t.nsK3
  | .nsK3 => max (inRange (posParamRange .nsK3) v) t.nsK2
  | .boostK1 => min (inRange (posParamRange .boostK1) v) t.boostK2
  | .boostK2 => clampNat (inRange (posParamRange .boostK2) v) t.boostK1 t.boostK3
  | .boostK3 => max (inRange (posParamRange .boostK3) v) t.boostK2
  | q => inRange (posParamRange q) v

/-- The reply fields of SET-PARAM and GET-PARAM: the id and the stored value (R181). -/
def paramFields (id v : Nat) : List Field := [byteField id, .num 2 v]

/-- A position's parameter stored. -/
def putParam (p : PosIx) (q : PosParam) (v : Nat) (s : State) : State :=
  putPos s p { getPos s p with params := putPosParam (getPos s p).params v q }

/-- SET-PARAM (R181). -/
def setParamCommand (src : Nat) (b : List Byte) (s : State) : Answer :=
  let id := byteAt b 0
  let v := u16At b 1
  match paramOfId id with
  | none => refuse s .badParam
  | some (.position q) =>
    if h : src < 16 then
      let stored := storedValueOf (getPos s ⟨src, h⟩).params q v
      (putParam ⟨src, h⟩ q stored s, okOrClamped (decide (stored ≠ v)), paramFields id stored)
    else refuse s .badSource
  | some (.device q) =>
    if src = 255 then
      let stored := inRange (devParamRange q) v
      ({ s with device := putDevParam s.device stored q }, okOrClamped (decide (stored ≠ v)), paramFields id stored)
    else refuse s .badSource

/-- GET-PARAM (R181). -/
def getParamCommand (src : Nat) (b : List Byte) (s : State) : Answer :=
  let id := byteAt b 0
  match paramOfId id with
  | none => refuse s .badParam
  | some (.position q) =>
    if h : src < 16 then (s, .ok, paramFields id (getPosParam (getPos s ⟨src, h⟩).params q)) else refuse s .badSource
  | some (.device q) => if src = 255 then (s, .ok, paramFields id (getDevParam s.device q)) else refuse s .badSource

end Sys2Proof.Machine
end

