-- ==== Sys2Proof/Machine/Ports.lean ====
section
/-! DEFINITION. The audio ports and standby (chapter 10). -/

namespace Sys2Proof.Machine

/-! ## Ports -/

/-- One of the two ports. -/
def portOf (r : Ports) : PortId → Port
  | .network => r.network
  | .position => r.position

/-- The ports with one of them replaced. -/
def withPort (r : Ports) (id : PortId) (x : Port) : Ports :=
  match id with
  | .network => { r with network := x }
  | .position => { r with position := x }

/-- The timing source (R165). -/
def timingSource (r : Ports) : TimingSource :=
  if r.network.role = .slave ∧ r.network.state = .locked then .network else .internal

/-- The elastic buffers act: the Position Port is a LOCKED slave (R166). -/
def buffering (r : Ports) : Bool := decide (r.position.role = .slave) && decide (r.position.state = .locked)

/-- The port sends silence (R164). -/
def silencePort (id : PortId) (r : Ports) : Ports :=
  match id with
  | .network => { r with ndout := silentBlock }
  | .position => { r with pdout := silentBlock }

/-- The elastic buffers emptied (R167); no group of the port is under way. -/
def emptyBuffers (r : Ports) : Ports := { r with rx := [], tx := [], grouping := false }

/-- The elastic buffers as they are given at the lock of a slave Position Port (R167); its first group begins with the next frame
(R166). -/
def centredBuffers (r : Ports) : Ports := { r with rx := [⟨false, silentBlock⟩], tx := [silentBlock], grouping := false }

/-- The buffers belong to the Position Port alone. -/
def onBuffers (id : PortId) (act : Ports → Ports) (r : Ports) : Ports :=
  match id with
  | .network => r
  | .position => act r

/-! ## PORT reports (R168) -/

/-- The snapshot of a PORT report (R168). -/
def portReport (ev : PortEvent) (c : Concerned) (r : Ports) : ReportBody :=
  .port
    { event := ev, concerned := c, netRole := r.network.role, netState := r.network.state, posRole := r.position.role
      posState := r.position.state, source := timingSource r, slips := r.slips }

/-- The report of a slip (R166, R168). -/
def slipReport (r : Ports) : ReportBody := portReport .slip (.one .position) r

/-- The ports changed and an event of one port reported (R168). -/
def portEvent (ev : PortEvent) (id : PortId) (r : Ports) (s : State) : State :=
  raise (portReport ev (.one id) r) (putPorts s r)

/-- The ports changed and an event of both reported (R168; log entry 6). -/
def portsEvent (ev : PortEvent) (r : Ports) (s : State) : State :=
  spendDraw (raise (portReport ev (.both s.draws) r) (putPorts s r))

/-! ## PORT-SET and PORT-STATUS (R163, R168) -/

/-- The slots a PORT-SET body names, one for each position (R163). -/
def namedSlots (slots : List Byte) : List Nat := (List.range 16).map (byteAt slots)

/-- A map from slots in range (R163). -/
def mapOfSlots (slots : List Byte) : Vector (Fin 16) 16 := Vector.ofFn fun p => Fin.ofNat 16 (byteAt slots p.val)

/-- Every slot is in range, and none appears twice (R163 checks 2 and 3). -/
def slotsValid (slots : List Byte) : Bool := (namedSlots slots).all (· < 16) && decide (namedSlots slots).Nodup

/-- Every position is VACANT (R163, R169). -/
def allVacant (s : State) : Bool := s.positions.all fun r => decide (r.call = .vacant)

/-- A PORT-SET of the Position Port sets the slip counters to 0 (R163). -/
def clearedSlips (id : PortId) (c : Slips) : Slips :=
  match id with
  | .network => c
  | .position => zeroSlips

/-- The ports after a PORT-SET that keeps the role, or is taken in standby, where no state changes and the role takes effect at WAKE
(R163; log entry 38). -/
def storedPort (id : PortId) (role : PortRole) (slotMap : Vector (Fin 16) 16) (r : Ports) : Ports :=
  { withPort r id { portOf r id with role := role, slotMap := slotMap } with slips := clearedSlips id r.slips }

/-- The ports after a PORT-SET outside standby that changes the role (R163, R167). -/
def restartedPort (id : PortId) (role : PortRole) (slotMap : Vector (Fin 16) 16) (r : Ports) : Ports :=
  silencePort id (onBuffers id emptyBuffers { withPort r id (startPort role slotMap) with slips := clearedSlips id r.slips })

/-- A taken PORT-SET (R163). -/
def setPort (id : PortId) (role : PortRole) (slotMap : Vector (Fin 16) 16) (s : State) : State :=
  if (portOf s.ports id).role = role then putPorts s (storedPort id role slotMap s.ports)
  else if s.ports.standby then putPorts s (onBuffers id emptyBuffers (storedPort id role slotMap s.ports))
  else portEvent .started id (restartedPort id role slotMap s.ports) s

/-- The slots of a map, as fields. -/
def mapFields (m : Vector (Fin 16) 16) : List Field := m.toList.map fun x => byteField x.val

/-- PORT-SET (R163): the reply carries the stored values, the role and the map. -/
def portSetCommand (src : Nat) (b : List Byte) (s : State) : Answer :=
  onDevice s src
    (match portOfCode (byteAt b 0), roleOfCode (byteAt b 1) with
      | some id, some role =>
        if slotsValid (b.drop 2) = false then refuse s .badValue
        else if allVacant s = false then refuse s .badState
        else
          (setPort id role (mapOfSlots (b.drop 2)) s, .ok, byteField (roleCode role) :: mapFields (mapOfSlots (b.drop 2)))
      | _, _ => refuse s .badValue)

/-- The fields of PORT-STATUS (R168): those of the report, whose event and port are free values in a reply, and the further ones.
Log entry 26. R168 does not say which port or which buffer comes first, nor how roles and states interleave: Network before Position, a
port's role before its state, receive before transmit. DEDUCED, log entry 37. -/
def portStatusFields (draw : Nat) (r : Ports) : List Field :=
  [byteField (Config.portStatusEvent draw).val, byteField (Config.portStatusPort draw).toNat,
    byteField (roleCode r.network.role), byteField (portStateCode r.network.state), byteField (roleCode r.position.role),
    byteField (portStateCode r.position.state), byteField (timingSourceCode (timingSource r))] ++
    slipFields r.slips ++ mapFields r.network.slotMap ++ mapFields r.position.slotMap ++
    [byteField r.network.goodSync, byteField r.position.goodSync, byteField r.rx.length, byteField r.tx.length]

/-- PORT-STATUS (R168, R170). -/
def portStatusCommand (src : Nat) (s : State) : Answer :=
  onDevice s src (if s.ports.standby then refuse s .asleep else (spendDraw s, .ok, portStatusFields s.draws s.ports))

/-! ## The elastic buffers (R166) -/

/-- The earpiece slice of a period that ends joins the transmit buffer, and the report of a slip (R166). -/
def joinTx (x : AudioBlock) (s : State) : State × List ReportBody :=
  if buffering s.ports = false then (s, [])
  else if 3 ≤ s.ports.tx.length then
    let r := { s.ports with
      tx := s.ports.tx.drop 1 ++ [x], slips := { s.ports.slips with txOver := bump16 s.ports.slips.txOver } }
    (putPorts s r, [slipReport r])
  else (putPorts s { s.ports with tx := s.ports.tx ++ [x] }, [])

/-- A received slice joins the receive buffer, and the report of a slip (R166). -/
def joinRx (x : AudioBlock) (s : State) : State × List ReportBody :=
  if 3 ≤ s.ports.rx.length then
    let r := { s.ports with
      rx := s.ports.rx.drop 1 ++ [⟨true, x⟩], slips := { s.ports.slips with rxOver := bump16 s.ports.slips.rxOver } }
    (putPorts s r, [slipReport r])
  else (putPorts s { s.ports with rx := s.ports.rx ++ [⟨true, x⟩] }, [])

/-- The microphone slice of a period of a LOCKED slave leaves the receive buffer; an inserted silent slice where there is none
(R166). -/
def takeRx (s : State) : RxSlice × State × List ReportBody :=
  match s.ports.rx with
  | x :: rest => (x, putPorts s { s.ports with rx := rest }, [])
  | [] =>
    let r := { s.ports with slips := { s.ports.slips with rxUnder := bump16 s.ports.slips.rxUnder } }
    (⟨false, silentBlock⟩, putPorts s r, [slipReport r])

/-- The port begins a group of its own: the head slice is sent, silence where there is none (R166). -/
def takeTx (s : State) : State × List ReportBody :=
  match s.ports.tx with
  | x :: rest => (putPorts s { s.ports with tx := rest, pdout := x }, [])
  | [] =>
    let r := { s.ports with
      pdout := silentBlock, slips := { s.ports.slips with txUnder := bump16 s.ports.slips.txUnder } }
    (putPorts s r, [slipReport r])

/-- A LOCKED slave Position Port whose first group has not begun (R166). -/
def groupsToBegin (r : Ports) : Bool := buffering r && !r.grouping

/-- The first group since the lock begins, and takes its slice (R166; log entry 10). -/
def beginGroups (s : State) : State :=
  if groupsToBegin s.ports then
    let x := takeTx (putPorts s { s.ports with grouping := true })
    raiseAll x.2 x.1
  else s

/-- A group of the Position Port completes and the next begins (R166): a first group that completes has begun before. -/
def completeGroup (received : AudioBlock) (s : State) : State :=
  if buffering s.ports then
    let a := joinRx received (beginGroups s)
    let b := takeTx (raiseAll a.2 a.1)
    raiseAll b.2 b.1
  else s

/-! ## Frame syncs (R164) -/

/-- A port that is a slave outside standby judges its syncs (R164). -/
def judgesSyncs (s : State) (id : PortId) : Bool := !s.ports.standby && decide ((portOf s.ports id).role = .slave)

/-- The ports with the state and the good-sync count of one replaced. -/
def setSync (id : PortId) (st : PortState) (count : Nat) (r : Ports) : Ports :=
  withPort r id { portOf r id with state := st, goodSync := count }

/-- A slave enters LOCKED (R164, R167). -/
def lockPort (id : PortId) (s : State) : State :=
  portEvent .locked id (onBuffers id centredBuffers (setSync id .locked 3 s.ports)) s

/-- A slave leaves LOCKED with a good-sync count (R164, R167). -/
def losePort (id : PortId) (count : Nat) (s : State) : State :=
  portEvent .lost id (silencePort id (onBuffers id emptyBuffers (setSync id .syncing count s.ports))) s

/-- A frame of a LOCKED port begins: the one after the sync that completed the lock begins the first group (R166). -/
def frameBegins (id : PortId) (s : State) : State :=
  match id with
  | .network => s
  | .position => beginGroups s

/-- A frame sync at a distance from the previous one (R164). -/
def takeSync (id : PortId) (distance : Nat) (s : State) : State :=
  let x := portOf s.ports id
  match x.state with
  | .stopped => s
  | .syncing =>
    if x.goodSync = 0 ∨ distance ≠ 256 then putPorts s (setSync id .syncing 1 s.ports)
    else if x.goodSync = 3 then lockPort id s
    else putPorts s (setSync id .syncing (x.goodSync + 1) s.ports)
  | .locked => if distance = 256 then frameBegins id s else losePort id 1 s

/-- A missing sync (R164; log entry 12). -/
def missSync (id : PortId) (s : State) : State :=
  if (portOf s.ports id).state = .locked then losePort id 0 s else s

/-! ## SLEEP and WAKE (R169, R170) -/

/-- A port stopped (R164, R169). -/
def stoppedPort (x : Port) : Port := { x with state := .stopped }

/-- The ports in standby (R169). -/
def sleepingPorts (r : Ports) : Ports :=
  silencePort .network (silencePort .position
    (emptyBuffers { r with network := stoppedPort r.network, position := stoppedPort r.position, standby := true }))

/-- No stream is RUNNING (R169). -/
def noStreamRunning (s : State) : Bool := s.streams.all fun r => decide (r.state ≠ .running)

/-- A taken SLEEP (R169). -/
def goToSleep (s : State) : State :=
  let ended := joinTx s.period.earpiece s
  let closed := putPeriod (raiseAll (if s.period.active then ended.2 else []) (if s.period.active then ended.1 else s)) noPeriod
  portsEvent .stopped (sleepingPorts closed.ports) closed

/-- SLEEP (R169). -/
def sleepCommand (src : Nat) (s : State) : Answer :=
  onDevice s src
    (if s.ports.standby then refuse s .asleep
     else if allVacant s = false ∨ s.store.compaction.running = true ∨ noStreamRunning s = false then refuse s .busy
     else taken (goToSleep s))

/-- The ports started with their stored roles (R170). -/
def wokenPorts (r : Ports) : Ports :=
  { r with
    network := startPort r.network.role r.network.slotMap
    position := startPort r.position.role r.position.slotMap
    standby := false }

/-- WAKE (R170). -/
def wakeCommand (src : Nat) (s : State) : Answer :=
  onDevice s src (if s.ports.standby then taken (portsEvent .started (wokenPorts s.ports) s) else taken s)

end Sys2Proof.Machine
end

