-- ==== Sys2Proof/Machine/Players.lean ====
section
/-! DEFINITION. The Players (chapter 7) and the whisper done that an AGENT player causes (R7). -/

namespace Sys2Proof.Machine

/-! ## Reference and listener counts (R114, R135) -/

/-- An item naming a source enters a player (R114). -/
def clipEnters (src : Source) (s : State) : State :=
  match src with
  | .clip c => putClip s c { getClip s c with refCount := (getClip s c).refCount + 1 }
  | .stream _ => s

/-- An item naming a source leaves a player (R114). -/
def clipLeaves (src : Source) (s : State) : State :=
  match src with
  | .clip c => putClip s c { getClip s c with refCount := (getClip s c).refCount - 1 }
  | .stream _ => s

/-- An item naming a source becomes current (R135). -/
def listens (src : Source) (s : State) : State :=
  match src with
  | .clip _ => s
  | .stream i => putStream s i { getStream s i with listeners := (getStream s i).listeners + 1 }

/-- An item naming a source stops being current (R135). -/
def unlistens (src : Source) (s : State) : State :=
  match src with
  | .clip _ => s
  | .stream i => putStream s i { getStream s i with listeners := (getStream s i).listeners - 1 }

/-! ## Items leaving (R133, R136 to R139) -/

/-- The snapshot of an item's leaving, with the player as it stands after the event (R139). -/
def itemReport (ev : ItemEvent) (reason : LeaveReason) (it : Item) (offset : Nat) (pl : Player) : ItemReport where
  event := ev
  reason := reason
  source := it.source
  tag := it.tag
  readOffset := clipOffset it offset
  playing := pl.current.isSome
  currentTag := pl.current.map Item.tag
  stackDepth := pl.stack.length
  queueDepth := pl.queue.length

/-- The report of an item's leaving is raised (R139). -/
def reportItem (p : PosIx) (w : PlayerId) (ev : ItemEvent) (reason : LeaveReason) (it : Item) (offset : Nat) (s : State) : State :=
  raise (.player p w (itemReport ev reason it offset (getPlayer s p w))) s

/-- The queued items that `sel` selects are dropped, head first; `kept` are those already passed over (R130, R136 to R138). -/
def dropQueued (p : PosIx) (w : PlayerId) (reason : LeaveReason) (sel : Item → Bool) : List Item → List Item → State → State
  | _, [], s => s
  | kept, it :: rest, s =>
    if sel it then
      dropQueued p w reason sel kept rest
        (reportItem p w .itemDropped reason it 0
          (clipLeaves it.source (putPlayer s p w { getPlayer s p w with queue := kept ++ rest })))
    else dropQueued p w reason sel (kept ++ [it]) rest s

/-- The stacked items that `sel` selects are dropped, top first (R130, R136 to R138). -/
def dropStacked (p : PosIx) (w : PlayerId) (reason : LeaveReason) (sel : Item → Bool) : List Item → List Item → State → State
  | _, [], s => s
  | kept, it :: rest, s =>
    if sel it then
      dropStacked p w reason sel kept rest
        (reportItem p w .itemDropped reason it it.readOffset
          (clipLeaves it.source (putPlayer s p w { getPlayer s p w with stack := kept ++ rest })))
    else dropStacked p w reason sel (kept ++ [it]) rest s

/-- Both lists of a player lose the items that `sel` selects, the queue first. -/
def dropLists (p : PosIx) (w : PlayerId) (reason : LeaveReason) (sel : Item → Bool) (s : State) : State :=
  let q := dropQueued p w reason sel [] (getPlayer s p w).queue s
  dropStacked p w reason sel [] (getPlayer q p w).stack q

/-- The player with its current item gone and the successor taken: the queue head, else the stack top, else none (R133). -/
def succession (pl : Player) : Player :=
  match pl.queue, pl.stack with
  | it :: rest, _ => { pl with current := some it, queue := rest }
  | [], it :: rest => { pl with current := some it, stack := rest }
  | [], [] => { pl with current := none }

/-- The current item of a player, if any, becomes a listener where it names a stream. -/
def listensCurrent (pl : Player) (s : State) : State :=
  match pl.current with
  | none => s
  | some it => listens it.source s

/-- The current item leaves by a command and its successor is taken (R133, R136 to R138). -/
def endCurrent (p : PosIx) (w : PlayerId) (reason : LeaveReason) (s : State) : State :=
  match (getPlayer s p w).current with
  | none => s
  | some it =>
    let next := succession (getPlayer s p w)
    reportItem p w .itemEnd reason it it.readOffset
      (listensCurrent next (putPlayer (clipLeaves it.source (unlistens it.source s)) p w next))

/-- STOP ALL with a reason; a clear with reason CLEARED (R136, R137). -/
def clearPlayer (p : PosIx) (w : PlayerId) (reason : LeaveReason) (s : State) : State :=
  endCurrent p w reason (dropLists p w reason (fun _ => true) s)

/-! ## The four modes (R127 to R130) -/

/-- The modes of PLAY (R125). -/
inductive PlayMode where
  | now
  | interrupt
  | next
  | only
deriving DecidableEq, Repr

/-- R125's codes. -/
def modeOfCode : Nat → Option PlayMode
  | 0 => some .now
  | 1 => some .interrupt
  | 2 => some .next
  | 3 => some .only
  | _ => none

/-- An item enters the current place of a player: its counts rise (R135). -/
def becomeCurrent (p : PosIx) (w : PlayerId) (it : Item) (s : State) : State :=
  listens it.source (clipEnters it.source (putPlayer s p w { getPlayer s p w with current := some it }))

/-- Mode NOW (R127). The REPLACED report shows the player with the new item current: R139 shows a player after the succession, and R130
ends the old item before the new one, which is no successor, becomes current. DEDUCED, log entry 36. -/
def playNowItem (p : PosIx) (w : PlayerId) (it : Item) (s : State) : State :=
  match (getPlayer s p w).current with
  | none => becomeCurrent p w it s
  | some old =>
    reportItem p w .itemEnd .replaced old old.readOffset
      (becomeCurrent p w it (clipLeaves old.source (unlistens old.source s)))

/-- The bottom item of a full stack is dropped (R128). -/
def dropBottom (p : PosIx) (w : PlayerId) (s : State) : State :=
  match (getPlayer s p w).stack.getLast? with
  | none => s
  | some it =>
    reportItem p w .itemDropped .stackOverflow it it.readOffset
      (clipLeaves it.source (putPlayer s p w { getPlayer s p w with stack := (getPlayer s p w).stack.dropLast }))

/-- Mode INTERRUPT (R128). -/
def playInterruptItem (p : PosIx) (w : PlayerId) (it : Item) (s : State) : State :=
  match (getPlayer s p w).current with
  | none => becomeCurrent p w it s
  | some old =>
    let roomy := if 2 ≤ (getPlayer s p w).stack.length then dropBottom p w s else s
    let pushed := putPlayer roomy p w { getPlayer roomy p w with stack := old :: (getPlayer roomy p w).stack }
    becomeCurrent p w it (unlistens old.source pushed)

/-- Mode NEXT on a queue with room (R129). -/
def playNextItem (p : PosIx) (w : PlayerId) (it : Item) (s : State) : State :=
  match (getPlayer s p w).current with
  | none => becomeCurrent p w it s
  | some _ => clipEnters it.source (putPlayer s p w { getPlayer s p w with queue := (getPlayer s p w).queue ++ [it] })

/-- Mode ONLY (R130). -/
def playOnlyItem (p : PosIx) (w : PlayerId) (it : Item) (s : State) : State :=
  playNowItem p w it (dropLists p w .flushed (fun _ => true) s)

/-- A taken PLAY by its mode. -/
def playItem (p : PosIx) (w : PlayerId) (m : PlayMode) (it : Item) (s : State) : State :=
  match m with
  | .now => playNowItem p w it s
  | .interrupt => playInterruptItem p w it s
  | .next => playNextItem p w it s
  | .only => playOnlyItem p w it s

/-! ## The checks of an item (R115, R125) -/

/-- The source an item names, where its source kind, id and level are in range (check 3 of R125). -/
def itemSource (f : ItemFields) : Option Source :=
  if 63 < f.level then none
  else if f.sourceKind = 0 then (if h : f.sourceId < 64 then some (.clip ⟨f.sourceId, h⟩) else none)
  else if f.sourceKind = 1 then (if h : f.sourceId < 4 then some (.stream ⟨f.sourceId, h⟩) else none)
  else none

/-- The code a source that is not playable refuses with (checks 5 and 6 of R125, R115); none where it passes. -/
def sourceRefusal (s : State) (offset : Nat) : Source → Option Result
  | .clip c =>
    match (getClip s c).state with
    | .free => some .notReady
    | .uploading => some .notReady
    | .moving => some .storeBusy
    | .damaged => some .damaged
    | .ready =>
      if (getClip s c).length = 0 then some .empty
      else if (getClip s c).length ≤ offset then some .badValue
      else none
  | .stream i => if (getStream s i).state = .closed then some .notReady else none

/-- The item a player holds for the fields of a body (R124); the start offset of a stream item is ignored. -/
def itemOf (f : ItemFields) (src : Source) : Item where
  source := src
  startOffset := match src with | .clip _ => f.startOffset | .stream _ => 0
  loops := f.loops
  level := f.level
  tag := f.tag
  readOffset := match src with | .clip _ => f.startOffset | .stream _ => 0
  passes := f.loops

/-- Checks 3, 5 and 6 of R125, as CALL-OFFER and CALL-HOLD make them on an item (R3, R5, R9). -/
def checkItem (s : State) (f : ItemFields) : Except Result Item :=
  match itemSource f with
  | none => .error .badValue
  | some src =>
    match sourceRefusal s f.startOffset src with
    | some r => .error r
    | none => .ok (itemOf f src)

/-- The call states in which a player may play (check 4 of R125). -/
def mayPlay (c : CallState) : PlayerId → Bool
  | .net => callPresent c
  | .agent => decide (c ≠ .vacant)

/-! ## Commands (R125, R126, R136, R140) -/

/-- The fields of a player after a STOP (R136). The current tag has a presence byte, since the player may be left IDLE, where the tag is
absent as R139 has it; R136 does not say so. DEDUCED, log entry 31. -/
def stopFields (pl : Player) : List Field :=
  byteField (flagCode pl.current.isSome) :: optionField 1 (pl.current.map Item.tag) ++
    [byteField pl.stack.length, byteField pl.queue.length]

/-- The fields of a PLAY reply (R126): CURRENT is 0, QUEUED is 1. The current tag has no presence byte, since a player with a taken item is
never IDLE. DEDUCED, log entry 31. -/
def playFields (queued : Bool) (pl : Player) : List Field :=
  [byteField (flagCode queued), byteField (flagCode pl.current.isSome), byteField ((pl.current.map Item.tag).getD 0),
    byteField pl.stack.length, byteField pl.queue.length]

/-- PLAY (R125, R126). -/
def playCommand (src : Nat) (b : List Byte) (s : State) : Answer :=
  onPosition s src fun p =>
    match playerOfCode (byteAt b 0), modeOfCode (byteAt b 1), itemSource (itemAt b 2) with
    | some w, some m, some source =>
      if mayPlay (getPos s p).call w = false then refuse s .badState
      else
        match sourceRefusal s (itemAt b 2).startOffset source with
        | some r => refuse s r
        | none =>
          let pl := getPlayer s p w
          let queued := decide (m = .next) && pl.current.isSome
          if queued = true ∧ 4 ≤ pl.queue.length then refuse s .full
          else
            let t := playItem p w m (itemOf (itemAt b 2) source) s
            (t, .ok, playFields queued (getPlayer t p w))
    | _, _, _ => refuse s .badValue

/-- The CALL report of a whisper done (R14). -/
def callReport (p : PosIx) (s : State) : ReportBody :=
  .call p (getPos s p).call (getPos s p).mute (getPos s p).announceTag

/-- Whisper done (R7). -/
def whisperDone (p : PosIx) (s : State) : State :=
  let t := clearPlayer p .net .cleared (putPos s p { getPos s p with call := .connected })
  raise (callReport p t) t

/-- Whisper done is taken where the AGENT player of a position in ANNOUNCE has become IDLE (R7). -/
def whisperCheck (p : PosIx) (wasPlaying : Bool) (s : State) : State :=
  if wasPlaying = true ∧ (getPos s p).call = .announce ∧ (getPos s p).agent.current = none then whisperDone p s else s

/-- A change of a player by a command, and the whisper done it may cause (R7). -/
def withWhisper (p : PosIx) (act : State → State) (s : State) : State :=
  whisperCheck p (getPos s p).agent.current.isSome (act s)

/-- STOP (R136): scope 0 is CURRENT, scope 1 is ALL. -/
def stopCommand (src : Nat) (b : List Byte) (s : State) : Answer :=
  onPosition s src fun p =>
    match playerOfCode (byteAt b 0), byteAt b 1 with
    | some w, 0 =>
      let t := withWhisper p (endCurrent p w .stopped) s
      (t, .ok, stopFields (getPlayer t p w))
    | some w, 1 =>
      let t := withWhisper p (clearPlayer p w .stopped) s
      (t, .ok, stopFields (getPlayer t p w))
    | _, _ => refuse s .badValue

/-- PLAYER-STATUS (R140). -/
def playerStatusCommand (src : Nat) (s : State) : Answer :=
  onPosition s src fun p =>
    (spendDraw (spendDraw s), .ok,
      playerFields s.draws (getPos s p).net ++ playerFields (s.draws + 1) (getPos s p).agent)

/-! ## Playing a slice (R131 to R134) -/

/-- A player in the course of a slice: the items that completed with their snapshots, and the streams that became current. -/
structure PlayRun where
  player : Player
  completed : List (Source × ItemReport)
  started : List Source
deriving DecidableEq, Repr

/-- A player as a slice begins. -/
def beginRun (pl : Player) : PlayRun := ⟨pl, [], []⟩

/-- The pass of the current clip item has ended (R133). -/
def passEnds (it : Item) (r : PlayRun) : PlayRun :=
  if it.passes = 0 then { r with player := { r.player with current := some { it with readOffset := 0 } } }
  else if 1 < it.passes then
    { r with player := { r.player with current := some { it with readOffset := 0, passes := it.passes - 1 } } }
  else
    let next := succession r.player
    { player := next
      completed := r.completed ++ [(it.source, itemReport .itemEnd .completed it 0 next)]
      started := r.started ++ (match next.current with | none => [] | some n => [n.source]) }

/-- The read offset of the current clip item advances by one sample (R131). -/
def advanceClip (length : Nat) (it : Item) (r : PlayRun) : PlayRun :=
  if it.readOffset + 1 < length then
    { r with player := { r.player with current := some { it with readOffset := it.readOffset + 1 } } }
  else passEnds it r

/-- Sample k of a stream's fixed slice as a player reads it (R148). -/
def streamSample (s : State) (i : StreamIx) (k : Nat) : Int :=
  match (getStream s i).slice.getD k .silence with
  | .silence => 0
  | .sample v => v
  | .code b => s.store.expansion.getD b 0

/-- The decoded sample of a clip at an offset (R131). -/
def clipSample (s : State) (c : ClipIx) (offset : Nat) : Int :=
  readSample s.store (getClip s c).format ((getClip s c).firstPage * 256) offset

/-- Sample k of a player's slice (R131): the output and the player after it. -/
def playSample (s : State) (gain : Item → Int) (k : Nat) (r : PlayRun) : Int × PlayRun :=
  match r.player.current with
  | none => (0, r)
  | some it =>
    match it.source with
    | .clip c => (scale (clipSample s c it.readOffset) (gain it), advanceClip (getClip s c).length it r)
    | .stream i => (scale (streamSample s i k) (gain it), r)

/-- n samples of a player from sample k on (R131). -/
def playSamples (s : State) (gain : Item → Int) : Nat → Nat → PlayRun → List Int × PlayRun
  | 0, _, r => ([], r)
  | n + 1, k, r =>
    let x := playSample s gain k r
    let more := playSamples s gain n (k + 1) x.2
    (x.1 :: more.1, more.2)

/-- The gain index of an item on the NET player, or on the AGENT player while the VAD is clear (R132). -/
def plainGain (it : Item) : Int := -(it.level : Int)

/-- The gain index of an item on the AGENT player (R132). -/
def agentGain (vad : Bool) (duck : Nat) (it : Item) : Int :=
  if vad then -((min 63 (it.level + duck) : Nat) : Int) else plainGain it

/-- The player and the counts as a slice leaves them (R134). -/
def settleRun (p : PosIx) (w : PlayerId) (r : PlayRun) (s : State) : State :=
  r.started.foldl (fun t src => listens src t)
    (r.completed.foldl (fun t c => clipLeaves c.1 t) (putPlayer s p w r.player))

/-- The reports of the items that completed in a slice (R134, R139). -/
def runReports (p : PosIx) (w : PlayerId) (r : PlayRun) : List ReportBody := r.completed.map fun c => .player p w c.2

end Sys2Proof.Machine
end

