-- ==== Sys2Proof/Machine/Tone.lean ====
section
/-! DEFINITION. The Tone Units (chapter 9). -/

namespace Sys2Proof.Machine

/-- A tone unit stopped: the other fields are kept (R156). -/
def stoppedTone (t : Tone) : Tone := { t with running := false }

/-- The TONE report of a stop (R161). -/
def toneReport (p : PosIx) (cause : StopCause) (t : Tone) : ReportBody := .tone p cause t.route t.burstCount t.bursts

/-- A running tone unit is stopped by a teardown, with its report; a stopped one is left (R10, R11, R160). -/
def clearTone (p : PosIx) (s : State) : State :=
  let t := (getPos s p).tone
  if t.running then raise (toneReport p .cleared t) (putPos s p { getPos s p with tone := stoppedTone t }) else s

/-- A route that reaches the network (R17, R59). -/
def routeHasNet : Route → Bool
  | .net => true
  | .both => true
  | .ear => false

/-- A route that reaches the earpiece (R18). -/
def routeHasEar : Route → Bool
  | .ear => true
  | .both => true
  | .net => false

/-- The phase increment of a frequency: round(f × 65,536 / 16,000) (R157). -/
def phaseIncrement (f : Nat) : Nat := (f * 131072 + 16000) / 32000

/-- The call states in which a route is allowed (R157). -/
def routeAllowed (c : CallState) (r : Route) : Bool := if routeHasNet r then callPresent c else decide (c ≠ .vacant)

/-- "The bursts that tone had completed": a free value where no tone was running (R157, R161; log entry 29). -/
def burstsShown (draw : Nat) (t : Tone) : Nat := if t.running then t.burstCount else (Config.idleBursts draw).toNat

/-- A tone as TONE-START stores it (R157). -/
def startedTone (frequency level period onTime bursts : Nat) (route : Route) : Tone where
  running := true
  route := route
  increment := phaseIncrement (clampNat frequency 100 7900)
  level := level
  period := clampNat period 2 2500
  onTime := clampNat onTime 1 (clampNat period 2 2500 - 1)
  bursts := bursts
  phase := 0
  cycle := 0
  burstCount := 0

/-- TONE-START (R157). -/
def toneStartCommand (src : Nat) (b : List Byte) (s : State) : Answer :=
  onPosition s src fun p =>
    match routeOfCode (byteAt b 8) with
    | none => refuse s .badValue
    | some route =>
      if 63 < byteAt b 2 then refuse s .badValue
      else if routeAllowed (getPos s p).call route = false then refuse s .badState
      else
        let old := (getPos s p).tone
        let f := clampNat (u16At b 0) 100 7900
        let t := startedTone (u16At b 0) (byteAt b 2) (u16At b 3) (u16At b 5) (byteAt b 7) route
        (spendDraw (putPos s p { getPos s p with tone := t }),
          okOrClamped (decide (f ≠ u16At b 0 ∨ t.period ≠ u16At b 3 ∨ t.onTime ≠ u16At b 5)),
          [.num 2 f, .num 2 t.increment, .num 2 t.period, .num 2 t.onTime, byteField (flagCode old.running),
            byteField (burstsShown s.draws old)])

/-- TONE-STOP (R161). -/
def toneStopCommand (src : Nat) (s : State) : Answer :=
  onPosition s src fun p =>
    let old := (getPos s p).tone
    (spendDraw (putPos s p { getPos s p with tone := stoppedTone old }), .ok,
      [byteField (flagCode old.running), byteField (burstsShown s.draws old)])

/-! ## A slice (R158, R159) -/

/-- An on-time slice (R159). -/
def onTimeSlice (t : Tone) : Bool := t.running && decide (t.cycle < t.onTime)

/-- n samples of a tone and the phase after them (R158). -/
def toneSamples (increment level : Nat) : Nat → Nat → List Int × Nat
  | 0, phase => ([], phase)
  | n + 1, phase =>
    let more := toneSamples increment level n ((phase + increment) % 65536)
    (scale (sineEntry (phase / 256)) (-(level : Int)) :: more.1, more.2)

/-- The 64 samples of a unit in a slice, and the unit after them (R158). -/
def toneSlice (t : Tone) : List Int × Tone :=
  if onTimeSlice t then
    let r := toneSamples t.increment t.level 64 t.phase
    (r.1, { t with phase := r.2 })
  else (List.replicate 64 0, t)

/-- The burst completes: the cycle counter reaches O (R159 step 2). The flag says that the unit stopped. -/
def burstCompletes (t : Tone) : Tone × Bool :=
  let n := min (t.burstCount + 1) 255
  let u := { t with cycle := t.cycle + 1, burstCount := n }
  if 0 < t.bursts ∧ n = t.bursts then (stoppedTone u, true) else (u, false)

/-- A new cycle begins: the cycle counter reaches P (R159 step 3). -/
def newCycle (t : Tone) : Tone := { t with cycle := 0, phase := 0 }

/-- The cadence of a running unit after its samples (R159). -/
def cadenceStep (t : Tone) : Tone × Bool :=
  if t.running then
    (if t.cycle + 1 = t.onTime then burstCompletes t
     else if t.cycle + 1 = t.period then (newCycle t, false)
     else ({ t with cycle := t.cycle + 1 }, false))
  else (t, false)

end Sys2Proof.Machine
end

