-- ==== Sys2Proof/Machine/Positions.lean ====
section
/-! DEFINITION. The Position Controller's commands and the teardowns of a position (chapter 1, sections 1.3 to 1.8 and 1.12). -/

namespace Sys2Proof.Machine

/-- The call state of a position set. -/
def setCall (p : PosIx) (c : CallState) (s : State) : State := putPos s p { getPos s p with call := c }

/-- POS-OPEN's effect: the slices begin with the next slice period (R4). -/
def openPosition (p : PosIx) (s : State) : State := putPos s p { getPos s p with call := .ready, sliceDue := false }

/-- POS-OPEN (R4). -/
def posOpenCommand (src : Nat) (s : State) : Answer :=
  onPosition s src fun p => if (getPos s p).call = .vacant then taken (openPosition p s) else refuse s .badState

/-! ## Teardowns (R10, R11, R20) -/

/-- A running tone that needs a call stops with the call (R10 step 3). -/
def clearCallTone (p : PosIx) (s : State) : State :=
  if routeHasNet (getPos s p).tone.route then clearTone p s else s

/-- CALL-CLEAR's effect, step by step (R10). -/
def clearCall (p : PosIx) (s : State) : State :=
  let cleared := clearPlayer p .net .cleared (clearPlayer p .agent .cleared (setCall p .ready s))
  let quiet := clearCallTone p cleared
  cancelSearches p (putCanceller quiet p (endCallCanceller (getPos quiet p).canceller))

/-- What POS-CLOSE resets last (R11 steps 5 to 7). -/
def closedRecord (r : Position) : Position :=
  { r with suppressor := suppressorAtReset, mute := false, canceller := { r.canceller with history := zeroHistory } }

/-- POS-CLOSE's effect on a position that is not VACANT (R11). -/
def closePosition (p : PosIx) (s : State) : State :=
  let ended := if callPresent (getPos s p).call then clearCall p s else s
  let quiet := clearTone p (clearPlayer p .agent .cleared (setCall p .vacant ended))
  putPos quiet p (closedRecord (getPos quiet p))

/-- POS-CLOSE where it is VACANT too, where nothing changes (R11). -/
def closeIfOpen (p : PosIx) (s : State) : State := if (getPos s p).call = .vacant then s else closePosition p s

/-- The record of a position after the reset that follows its close (R20 steps 2 to 4, R36, R83, R97). -/
def resetRecord (p : PosIx) (r : Position) : Position :=
  { r with
    mute := false
    announceTag := 0
    params := defaultPosParams
    suppressor := suppressorAtReset
    canceller := cancellerAtReset p
    lastSearch := none }

/-- A RESET of scope POSITION (R20). The event leaves D at 0 (step 4), and the CANCELLED report of step 1 shows the window that the
cancelling event left (R97): D is 0 from the beginning, since nothing else of step 1 reads it. -/
def resetPosition (p : PosIx) (s : State) : State :=
  let closed := closeIfOpen p (putCanceller s p { (getPos s p).canceller with window := 0 })
  putPos closed p (resetRecord p (getPos closed p))

/-- CALL-CLEAR (R10). -/
def callClearCommand (src : Nat) (s : State) : Answer :=
  onPosition s src fun p => if callPresent (getPos s p).call then taken (clearCall p s) else refuse s .badState

/-- POS-CLOSE (R11). -/
def posCloseCommand (src : Nat) (s : State) : Answer := onPosition s src fun p => taken (closeIfOpen p s)

/-! ## Calls (R5 to R9) -/

/-- The items of an offer, checked in order (R3, R5; log entry 27). -/
def checkOptional (s : State) : Option ItemFields → Except Result (Option Item)
  | none => .ok none
  | some f =>
    match checkItem s f with
    | .error r => .error r
    | .ok it => .ok (some it)

/-- An offer's whisper item is played (R5 step 2). -/
def startWhisper (p : PosIx) (w : Option Item) (s : State) : State :=
  match w with
  | none => s
  | some it => playOnlyItem p .agent it (putPos s p { getPos s p with announceTag := it.tag })

/-- An offer's NET item is played (R5 step 3). -/
def startNetItem (p : PosIx) (n : Option Item) (s : State) : State :=
  match n with
  | none => s
  | some it => playOnlyItem p .net it s

/-- The automatic request of an offer: SHORT with a hint, LONG without (R6). -/
def offerRequest (hint : Option Nat) : SearchRequest := ⟨if hint.isSome then .short else .long, .auto, false⟩

/-- The canceller and the engine are prepared for a call (R6). -/
def prepareCall (p : PosIx) (hint : Option Nat) (s : State) : State :=
  let prepared := putCanceller s p (prepareCanceller hint (getPos s p).canceller)
  if (getPos s p).canceller.mode = .on ∧ (getPos s p).params.ecAutoSearch = 1 then
    (placeRequest p (offerRequest hint) prepared).1
  else prepared

/-- A taken offer (R5 steps 1 to 4). -/
def takeOffer (p : PosIx) (w n : Option Item) (hint : Option Nat) (s : State) : State :=
  prepareCall p hint (startNetItem p n (startWhisper p w (setCall p (if w.isSome then .announce else .connected) s)))

/-- Whether an offer's hint was not stored as given (R5). -/
def hintClamped (hint : Option Nat) (mode : CancellerMode) (window : Nat) : Bool :=
  decide (mode = .on) && hint.any fun h => h != window

/-- CALL-OFFER (R5). -/
def callOfferCommand (src : Nat) (b : List Byte) (s : State) : Answer :=
  onPosition s src fun p =>
    if (getPos s p).call ≠ .ready then refuse s .badState
    else
      match offerAt b with
      | none => refuse s .badLength
      | some o =>
        match checkOptional s o.whisper with
        | .error r => refuse s r
        | .ok w =>
          match checkOptional s o.net with
          | .error r => refuse s r
          | .ok n =>
            let t := takeOffer p w n o.hint s
            (t, okOrClamped (hintClamped o.hint (getPos s p).canceller.mode (getPos t p).canceller.window),
              [.num 2 (getPos t p).canceller.window])

/-- CALL-CONNECT (R8). -/
def callConnectCommand (src : Nat) (s : State) : Answer :=
  onPosition s src fun p =>
    match (getPos s p).call with
    | .announce => taken (clearPlayer p .net .cleared (clearPlayer p .agent .cleared (setCall p .connected s)))
    | .held => taken (clearPlayer p .net .cleared (setCall p .connected s))
    | .vacant => refuse s .badState
    | .ready => refuse s .badState
    | .connected => refuse s .badState

/-- The call states in which CALL-HOLD is taken (R9). -/
def mayHold : CallState → Bool
  | .connected => true
  | .held => true
  | .vacant => false
  | .ready => false
  | .announce => false

/-- CALL-HOLD (R9). -/
def callHoldCommand (src : Nat) (b : List Byte) (s : State) : Answer :=
  onPosition s src fun p =>
    if mayHold (getPos s p).call = false then refuse s .badState
    else
      match checkItem s (itemAt b 0) with
      | .error r => refuse s r
      | .ok it => taken (playOnlyItem p .net it (setCall p .held s))

/-- MUTE (R12). -/
def muteCommand (src : Nat) (b : List Byte) (s : State) : Answer :=
  onPosition s src fun p =>
    if (getPos s p).call = .vacant then refuse s .badState
    else if 1 < byteAt b 0 then refuse s .badValue
    else taken (putPos s p { getPos s p with mute := byteAt b 0 == 1 })

/-! ## POS-STATUS (R13) -/

/-- The tone field of POS-STATUS: stopped, or running with route NET, EAR or BOTH (Table 1-6). -/
def toneStatusCode (t : Tone) : Nat := if t.running then 1 + routeCode t.route else 0

/-- The fields of POS-STATUS (Table 1-6). -/
def posStatusFields (r : Position) : List Field :=
  [byteField (callStateCode r.call), byteField (flagCode r.mute), byteField (flagCode r.suppressor.vad),
    byteField r.suppressor.floor.level, byteField r.suppressor.applied, byteField r.suppressor.boost,
    byteField (cancellerStateCode r.canceller.state), byteField (flagCode r.net.current.isSome),
    byteField (flagCode r.agent.current.isSome), byteField (toneStatusCode r.tone)]

/-- POS-STATUS (R13). -/
def posStatusCommand (src : Nat) (s : State) : Answer := onPosition s src fun p => (s, .ok, posStatusFields (getPos s p))

end Sys2Proof.Machine
end

