-- ==== Sys2Proof/Machine/Streams.lean ====
section
/-! DEFINITION. The Hold Streams (chapter 8). -/

namespace Sys2Proof.Machine

/-! ## Halves and the ring (R142, R143) -/

/-- One half of a stream. -/
def halfOf (r : Stream) (h : Fin 2) : Half := if h = 0 then r.half0 else r.half1

/-- A stream with one half replaced. -/
def withHalf (r : Stream) (h : Fin 2) (x : Half) : Stream := if h = 0 then { r with half0 := x } else { r with half1 := x }

/-- The other half. -/
def otherHalf (h : Fin 2) : Fin 2 := if h = 0 then 1 else 0

/-- The bytes the host sends for one sample, which are also the bytes a stream stores for it (R110, R142, R146). -/
def sampleSize : Format → Nat
  | .lin16 => 2
  | .pack12 => 2
  | .log8 => 1

/-- The pages of one half (R142). -/
def halfPages (f : Format) (halfSize : Nat) : Nat := pagesFor (sampleSize f * halfSize)

/-- The address of a half's first byte: half 0 lies in the lower pages (R142). -/
def halfBase (r : Stream) (h : Fin 2) : Nat := (r.firstPage + h.val * halfPages r.format r.halfSize) * 256

/-- The stored value at the read position (R148). -/
def storedValue (m : List Host.Cell) (r : Stream) : StreamValue :=
  match r.format with
  | .log8 => .code (readByte m (halfBase r r.readHalf + r.readOffset)).toNat
  | _ => .sample (readSample16 m (halfBase r r.readHalf + 2 * r.readOffset))

/-! ## Fixing (R148 to R151) -/

/-- A stream in the course of a fixing, and the events recorded so far. -/
structure FixRun where
  stream : Stream
  events : List (StreamEvent × Fin 2)
deriving DecidableEq, Repr

/-- The half of the read position becomes EMPTY, and the read position moves to the other half at offset 0 (R149, R150). -/
def leaveHalf (r : FixRun) : FixRun where
  stream := { withHalf r.stream r.stream.readHalf emptyHalf with readHalf := otherHalf r.stream.readHalf, readOffset := 0 }
  events := r.events ++ [(.halfEmpty, r.stream.readHalf)]

/-- An entry attempt (R149); an attempt passes through at most two halves. -/
def enterHalf : Nat → FixRun → FixRun
  | 0, r => r
  | fuel + 1, r =>
    let h := r.stream.readHalf
    let x := halfOf r.stream h
    match x.state with
    | .full =>
      if 0 < x.valid then
        { stream := { withHalf r.stream h { x with state := .playing } with readOffset := 0, underrun := false }
          events := if r.stream.underrun then r.events ++ [(.resumed, h)] else r.events }
      else enterHalf fuel (leaveHalf r)
    | .playing => r
    | _ =>
      { stream := { r.stream with readOffset := 0, underrun := true }
        events := if r.stream.underrun then r.events else r.events ++ [(.underrun, h)] }

/-- One sample of a fixing (R149, R150). -/
def fixSample (m : List Host.Cell) (r : FixRun) : StreamValue × FixRun :=
  let x := halfOf r.stream r.stream.readHalf
  if x.state = .playing then
    let moved := { r with stream := { r.stream with readOffset := r.stream.readOffset + 1 } }
    (storedValue m r.stream, if x.valid ≤ r.stream.readOffset + 1 then enterHalf 3 (leaveHalf moved) else moved)
  else (.silence, r)

/-- n samples of a fixing. -/
def fixSamples (m : List Host.Cell) : Nat → FixRun → List StreamValue × FixRun
  | 0, r => ([], r)
  | n + 1, r =>
    let x := fixSample m r
    let more := fixSamples m n x.2
    (x.1 :: more.1, more.2)

/-- The entry attempt at the beginning of a fixing, where the half is not PLAYING (R149). -/
def beginFixing (r : Stream) : FixRun :=
  if (halfOf r r.readHalf).state = .playing then ⟨r, []⟩ else enterHalf 3 ⟨r, []⟩

/-- The stream after its fixing for a slice period, and the events recorded (R148). -/
def fixStream (m : List Host.Cell) (r : Stream) : FixRun :=
  if r.state = .running then
    let x := fixSamples m 64 (beginFixing r)
    { stream := { x.2.stream with slice := x.1, sounding := !x.2.stream.underrun }, events := x.2.events }
  else { stream := { r with slice := silentSlice, sounding := false }, events := [] }

/-- The STREAM report of an event, with the snapshot the fixing left (R153). -/
def streamReport (i : StreamIx) (r : Stream) (ev : StreamEvent × Fin 2) : ReportBody :=
  .stream i
    { event := ev.1, eventHalf := ev.2, state := r.state, half0 := r.half0, half1 := r.half1, readHalf := r.readHalf
      readOffset := r.readOffset, underrun := r.underrun, listeners := r.listeners }

/-- The reports of a fixing (R153). -/
def fixReports (i : StreamIx) (x : FixRun) : List ReportBody := x.events.map (streamReport i x.stream)

/-! ## Commands (R144 to R147, R152, R154) -/

/-- The check of a stream id (R144). -/
def onStream (s : State) (id : Nat) (act : StreamIx → Answer) : Answer :=
  if h : id < 4 then act ⟨id, h⟩ else refuse s .badValue

/-- The pages of a ring (R142). -/
def ringPages (f : Format) (halfSize : Nat) : Nat := 2 * halfPages f halfSize

/-- A stream as STREAM-OPEN leaves it (R145). -/
def openedStream (f : Format) (halfSize firstPage : Nat) : Stream :=
  { closedStream with
    state := .opened, format := f, halfSize := halfSize, firstPage := firstPage, pageCount := ringPages f halfSize }

/-- A new record of a stream in the middle of a slice period: the slice already fixed stands for the whole period (R148), and so
does the judgement made after its fixing (R151; log entry 13). -/
def keepSlice (old new : Stream) : Stream := { new with slice := old.slice, sounding := old.sounding }

/-- STREAM-OPEN (R145). -/
def streamOpenCommand (src : Nat) (b : List Byte) (s : State) : Answer :=
  onDevice s src (onStream s (byteAt b 0) fun i =>
    match streamFormatOfCode (byteAt b 1) with
    | none => refuse s .badValue
    | some f =>
      if s.store.compaction.running then refuse s .storeBusy
      else if (getStream s i).state ≠ .closed then refuse s .inUse
      else
        let size := clampNat (u16At b 2) 256 16384
        match firstFit (regions s) (ringPages f size) with
        | none => (spendDraw s, .noSpace, spaceFields (spaceFigures s))
        | some page =>
          (putStream s i (keepSlice (getStream s i) (openedStream f size page)), okOrClamped (decide (size ≠ u16At b 2)),
            [.num 2 size, .num 2 page, .num 2 (ringPages f size)]))

/-- STREAM-FILL on an EMPTY or FILLING half (R146). -/
def fillHalf (i : StreamIx) (h : Fin 2) (last : Bool) (data : List Byte) (s : State) : Answer :=
  let r := getStream s i
  let x := halfOf r h
  let given := data.length / sampleSize r.format
  let accepted := min given (r.halfSize - x.fill)
  let fill := x.fill + accepted
  let y : Half := { state := if last then .full else .filling, fill := fill, valid := if last then fill else x.valid }
  let m := writeBytes s.store.mem (halfBase r h + sampleSize r.format * x.fill) (data.take (sampleSize r.format * accepted))
  (putMem (putStream s i (withHalf r h y)) m, okOrClamped (decide (accepted < given)),
    [byteField accepted, .num 2 fill, byteField (halfStateCode y.state)])

/-- STREAM-FILL (R146). -/
def streamFillCommand (src : Nat) (b : List Byte) (s : State) : Answer :=
  onDevice s src (onStream s (byteAt b 0) fun i =>
    if 1 < byteAt b 1 ∨ 1 < byteAt b 2 then refuse s .badValue
    else
      let h : Fin 2 := if byteAt b 1 = 0 then 0 else 1
      let r := getStream s i
      if r.state = .closed then refuse s .badState
      else if (b.length - 3) % sampleSize r.format ≠ 0 then refuse s .badLength
      else
        match (halfOf r h).state with
        | .full => refuse s .busy
        | .playing => refuse s .busy
        | _ => fillHalf i h (byteAt b 2 == 1) (b.drop 3) s)

/-- STREAM-START on a stream that is not CLOSED (R147). -/
def startedStream (r : Stream) : Stream := { r with state := .running }

/-- STREAM-STOP on a stream that is not CLOSED (R147). -/
def haltedStream (r : Stream) : Stream := if r.state = .running then { r with state := .stopped } else r

/-- The shape STREAM-START and STREAM-STOP share (R144, R147). -/
def streamRunCommand (act : Stream → Stream) (src : Nat) (b : List Byte) (s : State) : Answer :=
  onDevice s src
    (if s.ports.standby then refuse s .asleep
     else onStream s (byteAt b 0) fun i =>
      if (getStream s i).state = .closed then refuse s .badState
      else (putStream s i (act (getStream s i)), .ok, [byteField (streamStateCode (act (getStream s i)).state)]))

/-- An item names a stream. -/
def namesStream (i : StreamIx) (it : Item) : Bool := it.source == .stream i

/-- A player holds an item naming a stream (R138). -/
def holdsStream (i : StreamIx) (pl : Player) : Bool :=
  pl.current.any (namesStream i) || pl.stack.any (namesStream i) || pl.queue.any (namesStream i)

/-- A player gives up its items naming a stream (R138). -/
def giveUpStream (i : StreamIx) (p : PosIx) (w : PlayerId) (s : State) : State :=
  let t := dropLists p w .sourceClosed (namesStream i) s
  if (getPlayer t p w).current.any (namesStream i) then endCurrent p w .sourceClosed t else t

/-- The sixteen positions, in order. -/
def allPositions : List PosIx := List.finRange 16

/-- Every player of every position. -/
def allPlayers : List (PosIx × PlayerId) := allPositions.flatMap fun p => [(p, .net), (p, .agent)]

/-- The players that hold a stream, in the free order in which they give it up (R138; log entry 8). -/
def streamHolders (i : StreamIx) (s : State) : List (PosIx × PlayerId) :=
  freeOrder s.draws (allPlayers.filter fun x => holdsStream i (getPlayer s x.1 x.2))

/-- Whisper done after the give-ups, where it was an AGENT player that the close left IDLE (R138, R152; log entry 8). -/
def closeWhispers (holders : List (PosIx × PlayerId)) (s0 s : State) : State :=
  holders.foldl
    (fun t x => if x.2 = .agent then whisperCheck x.1 (getPlayer s0 x.1 .agent).current.isSome t else t) s

/-- STREAM-CLOSE on a stream that is not CLOSED (R152); the fixed slice stands until the next period's fixing (R148). -/
def closeStream (i : StreamIx) (s : State) : State :=
  let holders := streamHolders i s
  let given := holders.foldl (fun t x => giveUpStream i x.1 x.2 t) s
  putStream (spendDraw (closeWhispers holders s given)) i (keepSlice (getStream s i) closedStream)

/-- STREAM-CLOSE (R152). -/
def streamCloseCommand (src : Nat) (b : List Byte) (s : State) : Answer :=
  onDevice s src (onStream s (byteAt b 0) fun i =>
    if (getStream s i).state = .closed then taken s else taken (closeStream i s))

/-- The fields of STREAM-STATUS (R154). -/
def streamFields (r : Stream) : List Field :=
  [byteField (streamStateCode r.state), byteField (streamFormatCode r.format), .num 2 r.halfSize, .num 2 r.firstPage,
    .num 2 r.pageCount, byteField (halfStateCode r.half0.state), byteField (halfStateCode r.half1.state),
    .num 2 r.half0.fill, .num 2 r.half1.fill, .num 2 r.half0.valid, .num 2 r.half1.valid, byteField r.readHalf.val,
    .num 2 r.readOffset, byteField (flagCode r.underrun), byteField r.listeners]

/-- STREAM-STATUS (R154). -/
def streamStatusCommand (src : Nat) (b : List Byte) (s : State) : Answer :=
  onDevice s src (onStream s (byteAt b 0) fun i => (s, .ok, streamFields (getStream s i)))

end Sys2Proof.Machine
end

