-- ==== Sys2Proof/Machine/Store.lean ====
section
/-! DEFINITION. The Prompt Store's commands, compaction and resets (chapter 6). -/

namespace Sys2Proof.Machine

/-! ## Clip commands (R108 to R113) -/

/-- The check of a clip id (R108 check 3). -/
def onClip (s : State) (id : Nat) (act : ClipIx → Answer) : Answer :=
  if h : id < 64 then act ⟨id, h⟩ else refuse s .badValue

/-- The bytes a capacity needs (R104). -/
def clipBytes (f : Format) (capacity : Nat) : Nat :=
  match f with
  | .lin16 => 2 * capacity
  | .pack12 => (3 * capacity + 1) / 2
  | .log8 => capacity

/-- The pages a clip needs (R104). -/
def clipPages (f : Format) (capacity : Nat) : Nat := pagesFor (clipBytes f capacity)

/-- A clip entry as CLIP-ALLOC leaves it (R109). -/
def allocatedClip (f : Format) (capacity page : Nat) : Clip :=
  { freeClip with
    state := .uploading, format := f, capacity := capacity, firstPage := page, pageCount := clipPages f capacity }

/-- CLIP-ALLOC (R109). -/
def clipAllocCommand (src : Nat) (b : List Byte) (s : State) : Answer :=
  onDevice s src (onClip s (byteAt b 0) fun c =>
    match formatOfCode (byteAt b 1) with
    | none => refuse s .badValue
    | some f =>
      if s.store.compaction.running then refuse s .storeBusy
      else if (getClip s c).state ≠ .free then refuse s .inUse
      else
        let capacity := clampNat (u32At b 2) 1 262144
        match firstFit (regions s) (clipPages f capacity) with
        | none => (spendDraw s, .noSpace, spaceFields (spaceFigures s))
        | some page =>
          (putClip s c (allocatedClip f capacity page), okOrClamped (decide (capacity ≠ u32At b 2)),
            [.num 3 capacity, .num 2 page, .num 2 (clipPages f capacity)]))

/-- The occupied count (R110). -/
def occupied (c : Clip) : Nat := c.length + (if c.pending.isSome then 1 else 0)

/-- One converted sample taken into a PACK12 clip (R105). -/
def packSample (x : Clip × List Host.Cell) (v : Int) : Clip × List Host.Cell :=
  match x.1.pending with
  | none => ({ x.1 with pending := some (pack12 v) }, x.2)
  | some a =>
    ({ x.1 with pending := none, length := x.1.length + 2 },
      writeBytes x.2 (x.1.firstPage * 256 + 3 * (x.1.length / 2)) (pairBytes a (pack12 v)))

/-- The samples of a CLIP-WRITE body (R110). -/
def givenSamples (f : Format) (data : List Byte) : Nat := data.length / sampleSize f

/-- The clip and the store's bytes after `n` accepted samples (R104, R105, R110). -/
def writeSamples (n : Nat) (data : List Byte) (c : Clip) (m : List Host.Cell) : Clip × List Host.Cell :=
  match c.format with
  | .lin16 => ({ c with length := c.length + n }, writeBytes m (c.firstPage * 256 + 2 * c.length) (data.take (2 * n)))
  | .log8 => ({ c with length := c.length + n }, writeBytes m (c.firstPage * 256 + c.length) (data.take n))
  | .pack12 => ((samplesOfBytes data).take n).foldl packSample (c, m)

/-- CLIP-WRITE (R110). -/
def clipWriteCommand (src : Nat) (b : List Byte) (s : State) : Answer :=
  onDevice s src (onClip s (byteAt b 0) fun i =>
    let c := getClip s i
    let data := b.drop 1
    if c.state ≠ .uploading then refuse s .badState
    else if data.length % sampleSize c.format ≠ 0 then refuse s .badLength
    else
      let given := givenSamples c.format data
      let accepted := min given (c.capacity - occupied c)
      let x := writeSamples accepted data c s.store.mem
      (putMem (putClip s i x.1) x.2, okOrClamped (decide (accepted < given)),
        [byteField accepted, .num 3 x.1.length, byteField (flagCode x.1.pending.isSome)]))

/-- CLIP-END (R111). -/
def clipEndCommand (src : Nat) (b : List Byte) (s : State) : Answer :=
  onDevice s src (onClip s (byteAt b 0) fun i =>
    let c := getClip s i
    if c.state ≠ .uploading then refuse s .badState
    else
      (putClip s i { c with state := .ready, pending := none }, .ok,
        [.num 3 c.length, byteField (flagCode c.pending.isSome)]))

/-- CLIP-FREE (R112). -/
def clipFreeCommand (src : Nat) (b : List Byte) (s : State) : Answer :=
  onDevice s src (onClip s (byteAt b 0) fun i =>
    match (getClip s i).state with
    | .free => taken s
    | .moving => refuse s .busy
    | .ready => if 0 < (getClip s i).refCount then refuse s .inUse else taken (putClip s i freeClip)
    | .uploading => taken (putClip s i freeClip)
    | .damaged => taken (putClip s i freeClip))

/-- The fields of CLIP-INFO (R113). -/
def clipInfoFields (c : Clip) (g : SpaceFigures) (running : Bool) : List Field :=
  [byteField (clipStateCode c.state), byteField (formatCode c.format), .num 3 c.capacity, .num 3 c.length,
    .num 2 c.firstPage, .num 2 c.pageCount, byteField (flagCode c.pending.isSome), byteField c.refCount] ++
    spaceFields g ++ [byteField (flagCode running)]

/-- CLIP-INFO (R113). -/
def clipInfoCommand (src : Nat) (b : List Byte) (s : State) : Answer :=
  onDevice s src (onClip s (byteAt b 0) fun i =>
    (spendDraw s, .ok, clipInfoFields (getClip s i) (spaceFigures s) s.store.compaction.running))

/-- STORE-COMPACT (R116). -/
def storeCompactCommand (src : Nat) (s : State) : Answer :=
  onDevice s src
    (if s.ports.standby then refuse s .asleep
     else if s.store.compaction.running then refuse s .busy
     else (putCompaction s { compactionIdle with running := true }, .started, []))

/-- The expansion table with entries written at consecutive indices (R107). -/
def loadExpansion (start : Nat) (entries table : List Int) : List Int :=
  table.mapIdx fun i v => if start ≤ i then entries.getD (i - start) v else v

/-- EXPAND-LOAD (R107). -/
def expandLoadCommand (src : Nat) (b : List Byte) (s : State) : Answer :=
  onDevice s src
    (let entries := samplesOfBytes (b.drop 1)
     let written := min entries.length (256 - byteAt b 0)
     ({ s with store := { s.store with expansion := loadExpansion (byteAt b 0) entries s.store.expansion } },
       okOrClamped (decide (written < entries.length)), [byteField written]))

/-! ## Compaction (R117, R118, R120) -/

/-- What holds an allocation (R100). -/
inductive Holder where
  | clip (c : ClipIx)
  | ring (i : StreamIx)
deriving DecidableEq, Repr

/-- The allocations of the clips, with their first pages. -/
def clipHolders (s : State) : List (Nat × Holder) :=
  (List.finRange 64).flatMap fun c => if (getClip s c).state = .free then [] else [((getClip s c).firstPage, .clip c)]

/-- The allocations of the streams, with their first pages. -/
def ringHolders (s : State) : List (Nat × Holder) :=
  (List.finRange 4).flatMap fun i => if (getStream s i).state = .closed then [] else [((getStream s i).firstPage, .ring i)]

/-- Above the scan point; every page is before the first turn (R117). -/
def aboveScan (scan : Option Nat) (page : Nat) : Bool :=
  match scan with
  | none => true
  | some q => decide (q < page)

/-- The entry with the lowest first page. -/
def lowest : List (Nat × Holder) → Option (Nat × Holder)
  | [] => none
  | x :: rest =>
    match lowest rest with
    | none => some x
    | some y => if y.1 < x.1 then some y else some x

/-- The allocation whose turn is next (R117). -/
def nextHolder (s : State) : Option (Nat × Holder) :=
  lowest ((clipHolders s ++ ringHolders s).filter fun x => aboveScan s.store.compaction.scan x.1)

/-- Pinned at its turn (R117). -/
def pinned (s : State) : Holder → Bool
  | .ring _ => true
  | .clip c => decide ((getClip s c).state = .uploading) ||
      (decide ((getClip s c).state = .ready) && decide (0 < (getClip s c).refCount))

/-- Every region but those of one clip. -/
def otherRegions (s : State) (c : ClipIx) : List (Nat × Nat) :=
  ((List.finRange 64).filter fun x => x != c).flatMap (fun x => clipRegion (getClip s x)) ++
    s.streams.toList.flatMap streamRegion

/-- The lowest page below the clip at which it fits into free pages and its own (R117). The search is R117's to the letter: the place may
lie below another allocation, a pinned one included, though R117 also says that a move never goes past another allocation. DEDUCED, log
entry 33. -/
def placeBelow (s : State) (c : ClipIx) : Option Nat :=
  (List.range (getClip s c).firstPage).find? fun p => runFree (otherRegions s c) p (getClip s c).pageCount

/-- A clip's move to a page begins (R118). -/
def beginMove (c : ClipIx) (dest : Nat) (s : State) : State :=
  let e := getClip s c
  let k := s.store.compaction
  putCompaction (putClip s c { e with state := .moving, beforeMove := some e.state })
    { k with moved := k.moved + 1, move := some ⟨c, e.firstPage, dest, e.pageCount, 0⟩ }

/-- The STORE report at the end of a compaction (R120). -/
def storeReport (s : State) : ReportBody :=
  .store s.store.compaction.moved s.store.compaction.stayed s.store.compaction.skipped (spaceFigures s)

/-- The end of compaction (R120). -/
def endCompaction (s : State) : State := spendDraw (raise (storeReport s) (putCompaction s compactionIdle))

/-- The turn of one allocation (R117). -/
def turnOf (page : Nat) (h : Holder) (s : State) : State :=
  let k := { s.store.compaction with scan := some page }
  match h with
  | .ring _ => putCompaction s { k with skipped := k.skipped + 1 }
  | .clip c =>
    if pinned s h then putCompaction s { k with skipped := k.skipped + 1 }
    else
      match placeBelow s c with
      | none => putCompaction s { k with stayed := k.stayed + 1 }
      | some p => beginMove c p (putCompaction s k)

/-- One turn (R117), or the end where no allocation is left (R120). -/
def takeTurn (s : State) : State :=
  match nextHolder s with
  | none => endCompaction s
  | some x => turnOf x.1 x.2 s

/-- A turn is due: compaction is running and no move is in progress (R117). -/
def turnDue (s : State) : Bool := s.store.compaction.running && s.store.compaction.move.isNone

/-- Turns are taken until a move begins or compaction ends: at most 68 allocations have one, and then the end (R117, R120). -/
def turns : Nat → State → State
  | 0, s => s
  | n + 1, s => if turnDue s then turns n (takeTurn s) else s

/-- The turns of one moment. -/
def allTurns (s : State) : State := turns 69 s

/-- The copying of one slice period: 8 pages, or those that remain (R118). -/
def copyPages (s : State) : State :=
  match s.store.compaction.move with
  | none => s
  | some m =>
    let n := min 8 (m.pages - m.copied)
    putCompaction
      (putMem s (copyBytes (256 * n) ((m.source + m.copied) * 256) ((m.dest + m.copied) * 256) s.store.mem))
      { s.store.compaction with move := some { m with copied := m.copied + n } }

/-- A move whose last page is copied. -/
def moveDone (s : State) : Bool :=
  match s.store.compaction.move with
  | none => false
  | some m => decide (m.pages ≤ m.copied)

/-- The clip of a move at its new place, in its state before the move (R118, the three steps). -/
def settledClip (m : Move) (c : Clip) : Clip :=
  { c with firstPage := m.dest, state := c.beforeMove.getD .ready, beforeMove := none }

/-- A move completes, and compaction takes its next turn at the same instant (R118). -/
def completeMove (s : State) : State :=
  match s.store.compaction.move with
  | none => s
  | some m =>
    allTurns (putCompaction (putClip s m.clip (settledClip m (getClip s m.clip))) { s.store.compaction with move := none })

/-! ## The store's resets (R121, R122) -/

/-- The clip of an abandoned move (R121). -/
def abandonedClip (m : Move) (c : Clip) : Clip :=
  if m.source < m.dest + m.pages then { c with firstPage := m.dest, state := .damaged, beforeMove := none }
  else { c with state := c.beforeMove.getD .ready, beforeMove := none }

/-- The clip table after a move in progress is abandoned (R121). -/
def abandonMove (st : Store) : Vector Clip 64 :=
  match st.compaction.move with
  | none => st.clips
  | some m => st.clips.set m.clip (abandonedClip m st.clips[m.clip])

/-- The store after a RESET of scope DEVICE (R121, R122). -/
def storeAfterReset (erase : Bool) (st : Store) : Store where
  mem := st.mem
  clips := if erase then Vector.replicate 64 freeClip else (abandonMove st).map fun c => { c with refCount := 0 }
  expansion := if erase then defaultExpansion else st.expansion
  compaction := compactionIdle

end Sys2Proof.Machine
end

