-- ==== Sys2Proof/Machine/Suppressor.lean ====
section
/-! DEFINITION. The Floor Suppressor's work in a slice (chapter 3): stage 1 of the slice of a position. -/

namespace Sys2Proof.Machine

/-- The VAD and its hangover after a slice with signal-to-floor ratio S (R39). -/
def vadStep (t : PosParams) (ratio : Nat) (x : Suppressor) : Suppressor :=
  if t.vadT ≤ ratio then { x with vad := true, hangover := t.vadHang }
  else { x with vad := decide (1 < x.hangover), hangover := x.hangover - 1 }

/-- The applied suppression after one move towards the target (R42), with NS_ENABLE at 1. -/
def suppressionMove (target applied : Nat) : Nat :=
  if target < applied then max target (applied - 4)
  else if applied < target then min target (applied + 1)
  else applied

/-- The applied suppression of a received slice (R41 to R43). -/
def suppressionStep (t : PosParams) (ratio applied : Nat) : Nat :=
  if t.nsEnable = 0 then 0 else suppressionMove (curveFalling (suppressionCurve t) t.nsAmax ratio 0) applied

/-- The boost target a refresh evaluates from the floor (R47 step 1). -/
def boostTarget (t : PosParams) (floor : Nat) : Nat := curveRising (boostCurve t) t.boostMax floor t.boostStart

/-- A boost refresh (R47 steps 1 to 3). -/
def refreshBoost (t : PosParams) (x : Suppressor) : Suppressor :=
  { x with target := boostTarget t x.floor.level, refresh := 0 }

/-- Whether the refresh counter reaches BOOST_REFRESH in a received slice (R47). -/
def boostRefreshDue (t : PosParams) (x : Suppressor) : Bool := decide (t.boostRefresh ≤ x.refresh + 1)

/-- The refresh counter of a received slice, and the refresh where it is due (R47). -/
def countRefresh (t : PosParams) (x : Suppressor) : Suppressor :=
  if boostRefreshDue t x then refreshBoost t x else { x with refresh := x.refresh + 1 }

/-- The applied boost moved one step towards its target (R48). -/
def slewBoost (x : Suppressor) : Suppressor := { x with boost := stepTowards x.boost x.target }

/-- The boost of a received slice (R47, R48). -/
def boostStep (t : PosParams) (x : Suppressor) : Suppressor := slewBoost (countRefresh t x)

/-- The LEVEL report of a slice that changed the boost target (R49). -/
def levelReports (p : PosIx) (before after : Suppressor) : List ReportBody :=
  if after.target = before.target then [] else [.level p after.target before.target after.boost after.floor.level]

/-- The suppressor after a received slice of level L (R37, R38). -/
def receivedSlice (t : PosParams) (l : Nat) (x : Suppressor) : Suppressor :=
  let floored := { x with floor := trackerStep t.floorRise l x.floor }
  let ratio := l - floored.floor.level
  let judged := vadStep t ratio floored
  boostStep t { judged with applied := suppressionStep t ratio judged.applied }

/-- The suppressor after a slice that was not received (R45, R46). -/
def missedSlice (t : PosParams) (x : Suppressor) : Suppressor :=
  { x with vad := false, hangover := 0, applied := if t.nsEnable = 0 then 0 else x.applied }

/-- The suppressor after stage 1 (R37). -/
def suppressorStage (t : PosParams) (received : Bool) (v : List Int) (x : Suppressor) : Suppressor :=
  if received then receivedSlice t (levelIndex v) x else missedSlice t x

/-- The suppressed slice v_ns (R44). -/
def suppressedSlice (applied : Nat) (v : List Int) : List Int := v.map fun a => scale a (-(applied : Int))

end Sys2Proof.Machine
end

