-- ==== Sys2Proof/Machine/Slice.lean ====
section
/-! DEFINITION. The slice of one position (R15 to R19) and the slice period (R24, R148, R165, R166). -/

namespace Sys2Proof.Machine

/-! ## Samples and slots (R162) -/

/-- The samples a block carries for a position. -/
def slotSamples (m : Vector (Fin 16) 16) (b : AudioBlock) (p : PosIx) : List Int := b[m[p]].toList.map BitVec.toInt

/-- 64 samples as the words of a slot. -/
def slotWords (xs : List Int) : SlotSlice := Vector.ofFn fun i : Fin 64 => BitVec.ofInt 16 (xs.getD i.val 0)

/-- A block with the slot of a position replaced. -/
def putSlot (m : Vector (Fin 16) 16) (p : PosIx) (xs : List Int) (b : AudioBlock) : AudioBlock := b.set m[p] (slotWords xs)

/-- 64 samples of silence. -/
def silence : List Int := List.replicate 64 0

/-- The microphone slice v of a position. -/
def micSlice (s : State) (p : PosIx) : List Int := slotSamples s.ports.position.slotMap s.period.micWords p

/-- The return slice y of a position. -/
def returnSlice (s : State) (p : PosIx) : List Int := slotSamples s.ports.network.slotMap s.period.netWords p

/-! ## Mixing (R17 to R19) -/

/-- The microphone term is included in network transmit (R17). -/
def micIncluded (r : Position) : Bool := decide (r.call = .connected) && !r.mute

/-- The microphone term m (R17). -/
def micTerm (r : Position) (vns : List Int) : List Int :=
  if micIncluded r then vns.map fun v => scale v (-(r.params.txAtt : Int)) else silence

/-- The samples where a condition holds, silence otherwise. -/
def gated (b : Bool) (xs : List Int) : List Int := if b then xs else silence

/-- The sums of three slices, sample by sample. -/
def sum3 (a b c : List Int) : List Int := List.zipWith (· + ·) (List.zipWith (· + ·) a b) c

/-- The network-transmit slice (R17). -/
def networkTransmit (mic net tone : List Int) : List Int := (sum3 mic net tone).map saturate

/-- The side-tone (R19). -/
def sideTone (sidetone : Nat) (vns : List Int) : List Int :=
  if sidetone = 64 then silence else vns.map fun v => scale v (-(sidetone : Int))

/-- The earpiece slice (R18). -/
def earpieceSlice (boost volume : Nat) (inner side : List Int) : List Int :=
  List.zipWith (fun a b => saturate (scale a ((boost : Int) - volume) + b)) inner side

/-! ## Reference activity (R59) -/

/-- The NET player makes a slice reference-active (R59). -/
def playerActive (s : State) (pl : Player) : Bool :=
  match pl.current with
  | none => false
  | some it =>
    match it.source with
    | .clip _ => true
    | .stream i => (getStream s i).sounding

/-- A slice is reference-active (R59), with the VAD of its stage 1. -/
def referenceActive (s : State) (r : Position) (vad : Bool) : Bool :=
  s.period.netLocked &&
    ((micIncluded r && vad) || playerActive s r.net || (onTimeSlice r.tone && routeHasNet r.tone.route))

/-! ## The six stages (R15) -/

/-- What the stages of a slice compute. -/
structure SliceWork where
  suppressor : Suppressor
  net : PlayRun
  agent : PlayRun
  tone : Tone
  toneEnded : Bool
  canceller : CancellerSlice
  active : Bool
  returned : List Int
  transmit : List Int
  earpiece : List Int
deriving DecidableEq, Repr

/-- The six stages of the slice of a position, against its state as the slice begins (R15, R16). -/
def stages (p : PosIx) (s : State) : SliceWork :=
  let r := getPos s p
  let t := r.params
  let x := suppressorStage t s.period.micReceived (micSlice s p) r.suppressor
  let vns := suppressedSlice x.applied (micSlice s p)
  let net := playSamples s plainGain 64 0 (beginRun r.net)
  let agent := playSamples s (agentGain x.vad t.duck) 64 0 (beginRun r.agent)
  let tone := toneSlice r.tone
  let cadence := cadenceStep tone.2
  let n := networkTransmit (micTerm r vns) net.1 (gated (routeHasNet r.tone.route) tone.1)
  let y := returnSlice s p
  let active := referenceActive s r x.vad
  let c := cancellerStage t s.period.netLocked active y { r.canceller with history := appendHistory r.canceller.history n }
  let inner := sum3 (gated (decide (r.call = .connected)) c.caller) agent.1 (gated (routeHasEar r.tone.route) tone.1)
  { suppressor := x
    net := net.2
    agent := agent.2
    tone := cadence.1
    toneEnded := cadence.2
    canceller := c
    active := active
    returned := y
    transmit := n
    earpiece := earpieceSlice x.boost t.volume inner (sideTone t.sidetone vns) }

/-- The record of a position as its slice leaves it, but for the players. -/
def workedRecord (w : SliceWork) (r : Position) : Position :=
  { r with suppressor := w.suppressor, canceller := w.canceller.canceller, tone := w.tone, sliceDue := false }

/-- The outputs of a slice: the transmit slot, and the earpiece slot, which a master Position Port sends at once (R15 stages 3
and 6, R164, R167). -/
def sendSlice (p : PosIx) (n out : List Int) (s : State) : State :=
  let r := s.ports
  let sent := if r.network.state = .locked then putSlot r.network.slotMap p n r.ndout else r.ndout
  let heard :=
    if r.position.state = .locked ∧ r.position.role = .master then putSlot r.position.slotMap p out r.pdout else r.pdout
  putPeriod (putPorts s { r with ndout := sent, pdout := heard })
    { s.period with earpiece := putSlot r.position.slotMap p out s.period.earpiece }

/-- The engine's accumulation for the slice of the in-flight position (R90). -/
def searchSlice (p : PosIx) (w : SliceWork) (s : State) : State :=
  match inFlightFor s p with
  | none => s
  | some f => putEngine s (accumulate w.active w.canceller.canceller.history w.returned f s.engine)

/-- The automatic request a slice makes (R67, R68): a loss and a research request of one slice are one entry (R68), the merge of
two automatic SHORT requests, which is an automatic SHORT request (R88). -/
def sliceRequests (p : PosIx) (w : SliceWork) (s : State) : State :=
  if w.canceller.lossRequest || w.canceller.researchRequest then (placeRequest p autoShort s).1 else s

/-- The end of the in-flight position's search, judged at the slice's end (R92); `searched` says that the position was in flight
as its slice began. -/
def sliceJudgement (p : PosIx) (searched : Bool) (s : State) : State × List ReportBody :=
  match inFlightFor s p with
  | none => (s, [])
  | some f => if searched then judgeSearch f s else (s, [])

/-- The ECHO report of a canceller event (R65, R66). -/
def cancellerReports (p : PosIx) (w : SliceWork) (s : State) : List ReportBody :=
  match w.canceller.event with
  | none => []
  | some ev => [echoReport p ev s]

/-- The TONE report of a cadence that ended (R159, R161). -/
def toneReports (p : PosIx) (w : SliceWork) : List ReportBody :=
  if w.toneEnded then [toneReport p .completed w.tone] else []

/-- The state a slice leaves before its reports: the record, the players, the outputs and the engine's accumulators. -/
def settleSlice (p : PosIx) (w : SliceWork) (s : State) : State :=
  let worked := putPos s p (workedRecord w (getPos s p))
  let played := settleRun p .agent w.agent (settleRun p .net w.net worked)
  searchSlice p w (sendSlice p w.transmit w.earpiece played)

/-- A position processes its slice (R15, R16, R134): what each unit hands over at the completion, in a free order, with the
whisper done after the players' reports (R7). -/
def processSlice (p : PosIx) (s : State) : State :=
  let before := getPos s p
  let w := stages p s
  let settled := settleSlice p w s
  let judged := sliceJudgement p (inFlightFor s p).isSome (sliceRequests p w settled)
  inFreeOrder
    [raiseAll (levelReports p before.suppressor w.suppressor),
      fun t => whisperCheck p before.agent.current.isSome (raiseAll (runReports p .net w.net ++ runReports p .agent w.agent) t),
      raiseAll (toneReports p w),
      raiseAll (cancellerReports p w settled ++ judged.2)]
    judged.1

/-- A position has its slice of the present period to process (R15). -/
def sliceReady (s : State) (p : PosIx) : Bool := processes s p && s.period.active && (getPos s p).sliceDue

/-- POSITION_SLICE (R15). -/
def positionSlice (p : PosIx) (s : State) : State := if sliceReady s p then processSlice p s else s

/-! ## The slice period (R24, R148, R165, R166) -/

/-- The slices of the period that are still to process, in a free order (R15; log entries 4 and 5). -/
def finishSlices (s : State) : State :=
  spendDraw ((freeOrder s.draws (allPositions.filter (sliceReady s))).foldl (fun t p => positionSlice p t) s)

/-- The earpiece slice of the period joins the transmit buffer of a LOCKED slave (R166). -/
def handEarpiece (s : State) : State :=
  let x := joinTx s.period.earpiece s
  raiseAll x.2 x.1

/-- A move completes at the end of the period in which its last page is copied (R118). -/
def finishMove (s : State) : State := if moveDone s then completeMove s else s

/-- The end of the slice period in progress. -/
def endPeriod (s : State) : State := if s.period.active then inFreeOrder [handEarpiece, finishMove] (finishSlices s) else s

/-- A group that completes as the period begins joins the receive buffer first (R166). -/
def groupFirst (group : Option AudioBlock) (s : State) : State :=
  match group with
  | none => s
  | some g => raiseAll (joinRx g s).2 (joinRx g s).1

/-- The group that begins as the period begins takes its slice last (R166). -/
def groupLast (group : Option AudioBlock) (s : State) : State :=
  match group with
  | none => s
  | some _ => raiseAll (takeTx s).2 (takeTx s).1

/-- The microphone slice of the period leaves the receive buffer (R166). -/
def takeMic (s : State) : State :=
  let x := takeRx s
  raiseAll x.2.2 (putPeriod x.2.1 { s.period with micReceived := x.1.received, micWords := x.1.words })

/-- The microphone samples of a period: from the receive buffer of a LOCKED slave, directly from a master; each buffer is first
added to and then taken from (R166, R167). -/
def receiveMic (posIn : AudioBlock) (group : Option AudioBlock) (s : State) : State :=
  if buffering s.ports then groupLast group (takeMic (groupFirst group s))
  else if s.ports.position.state = .locked then putPeriod s { s.period with micReceived := true, micWords := posIn }
  else putPeriod s { s.period with micReceived := false, micWords := silentBlock }

/-- A stream fixes its slice for the period, and hands over the events (R148, R153). -/
def fixOne (i : StreamIx) (s : State) : State :=
  let x := fixStream s.store.mem (getStream s i)
  raiseAll (fixReports i x) (putStream s i x.stream)

/-- Compaction at the start of a period: the turns that are due, and the period's copying (R116 to R118). -/
def compactPeriod (s : State) : State := copyPages (allTurns s)

/-- The outputs as a period begins: silence until the slices are formed; a slave Position Port sends its own groups (R15, R164,
R166). -/
def clearedOutputs (r : Ports) : Ports :=
  { r with ndout := silentBlock, pdout := if r.position.role = .master then silentBlock else r.pdout }

/-- The period as it begins, before the microphones (R164, R165). The units' lock and the received words are those of the period's
begin for the whole period, though a port locks or loses its lock within it: R164 has the units read the state then, and says no
more of the samples of such a period. DEDUCED, log entry 34. -/
def startedPeriod (netIn : AudioBlock) (r : Ports) : Period where
  active := true
  netLocked := decide (r.network.state = .locked)
  micReceived := false
  netWords := if r.network.state = .locked then netIn else silentBlock
  micWords := silentBlock
  earpiece := silentBlock

/-- Every position that is not VACANT has a slice to process (R15). -/
def dueSlices (s : State) : State :=
  { s with positions := s.positions.map fun r => { r with sliceDue := decide (r.call ≠ .vacant) } }

/-- A slice period begins (R148, R165, R166). -/
def beginPeriod (netIn posIn : AudioBlock) (group : Option AudioBlock) (s : State) : State :=
  inFreeOrder
    [receiveMic posIn group, fixOne 0, fixOne 1, fixOne 2, fixOne 3, compactPeriod]
    (dueSlices (putPeriod (putPorts s (clearedOutputs s.ports)) (startedPeriod netIn s.ports)))

/-- A group that completes as the period begins has begun before it, though it is the first (R166). -/
def groupBefore (group : Option AudioBlock) (s : State) : State :=
  match group with
  | none => s
  | some _ => beginGroups s

/-- SLICE_PERIOD (R165): the period in progress ends and the next begins; in standby none does (R169). -/
def slicePeriod (netIn posIn : AudioBlock) (group : Option AudioBlock) (s : State) : State :=
  if s.ports.standby then s else beginPeriod netIn posIn group (endPeriod (groupBefore group s))

end Sys2Proof.Machine
end

