-- ==== Sys2Proof/Machine/Link.lean ====
section
/-! DEFINITION. The Control Link (chapter 11): the hand-over of a command to its unit, the queues, reads and resets. -/

namespace Sys2Proof.Machine

/-! ## RESET (R182) -/

/-- The slice period after a RESET of scope DEVICE: the frame count runs on, no position has a slice in it. Log entry 23. -/
def resetPeriod (r : Period) : Period := { noPeriod with active := r.active }

/-- The link after a RESET of scope DEVICE, before its reply (R182 steps 1, 2 and 5, R180). -/
def resetLink (l : Link) : Link where
  inbound := []
  latch := false
  discards := 0
  frameErrors := 0
  outbound := []
  reading := l.reading.map fun r => { r with emptied := true }
  sdo := l.sdo

/-- A RESET of scope DEVICE, before its reply (R182, R21, R36, R83, R99, R121, R122, R142, R156, R171, R181). -/
def resetDevice (erase : Bool) (s : State) : State where
  pending := s.pending
  link := resetLink s.link
  positions := positionsAtReset
  engine := engineAtReset
  store := storeAfterReset erase s.store
  streams := streamsAtReset
  ports := startedPorts s.ports.network.role s.ports.position.role s.ports.network.slotMap s.ports.position.slotMap
  period := resetPeriod s.period
  device := defaultDevParams
  draws := s.draws

/-- RESET of scope DEVICE after the check of its values (R182). -/
def resetDeviceCommand (src : Nat) (erase : Bool) (s : State) : Answer :=
  onDevice s src (if s.ports.standby then refuse s .asleep else taken (resetDevice erase s))

/-- RESET of scope POSITION after the check of its values (R182, R20). -/
def resetPositionCommand (src : Nat) (s : State) : Answer := onPosition s src fun p => taken (resetPosition p s)

/-- RESET (R182). -/
def resetCommand (src : Nat) (b : List Byte) (s : State) : Answer :=
  if 1 < byteAt b 0 ∨ 1 < byteAt b 1 then refuse s .badValue
  else if byteAt b 0 = 0 then resetDeviceCommand src (byteAt b 1 == 1) s
  else resetPositionCommand src s

/-! ## Taking a command (R177) -/

/-- The unit that owns a kind acts on the command (R177). -/
def perform (c : Command) (src : Nat) (b : List Byte) (s : State) : Answer :=
  match c with
  | .reset => resetCommand src b s
  | .sleep => sleepCommand src s
  | .wake => wakeCommand src s
  | .portSet => portSetCommand src b s
  | .portStatus => portStatusCommand src s
  | .setParam => setParamCommand src b s
  | .getParam => getParamCommand src b s
  | .posOpen => posOpenCommand src s
  | .posClose => posCloseCommand src s
  | .callOffer => callOfferCommand src b s
  | .callConnect => callConnectCommand src s
  | .callHold => callHoldCommand src b s
  | .callClear => callClearCommand src s
  | .mute => muteCommand src b s
  | .posStatus => posStatusCommand src s
  | .ecMode => ecModeCommand src b s
  | .ecFreeze => ecFreezeCommand src b s
  | .search => searchCommand src b s
  | .windowSet => windowSetCommand src b s
  | .ecStatus => ecStatusCommand src s
  | .play => playCommand src b s
  | .stop => stopCommand src b s
  | .playerStatus => playerStatusCommand src s
  | .toneStart => toneStartCommand src b s
  | .toneStop => toneStopCommand src s
  | .clipAlloc => clipAllocCommand src b s
  | .clipWrite => clipWriteCommand src b s
  | .clipEnd => clipEndCommand src b s
  | .clipFree => clipFreeCommand src b s
  | .clipInfo => clipInfoCommand src b s
  | .storeCompact => storeCompactCommand src s
  | .expandLoad => expandLoadCommand src b s
  | .streamOpen => streamOpenCommand src b s
  | .streamFill => streamFillCommand src b s
  | .streamStart => streamRunCommand startedStream src b s
  | .streamStop => streamRunCommand haltedStream src b s
  | .streamClose => streamCloseCommand src b s
  | .streamStatus => streamStatusCommand src b s

/-- The link's two checks, and then the unit's answer (R177). -/
def respond (f : Frame) (s : State) : Answer :=
  match commandOfKind f.kind.toNat with
  | none => refuse s .badKind
  | some c => if bodyFits c f.body then perform c f.src.toNat f.body s else refuse s .badLength

/-- The reply to a frame (R173, R177). -/
def replyTo (f : Frame) (r : Result) (fields : List Field) : Reply := ⟨replyKind f.kind, f.src, f.tag, r, fields⟩

/-- A command taken from the inbound queue: it acts or is refused, and its reply is handed over (R177). -/
def takeCommand (f : Frame) (s : State) : State :=
  let a := respond f s
  sendReply (replyTo f a.2.1 a.2.2) a.1

/-- Commands are taken from the head while there is reply space, at most `fuel` of them (R177). -/
def drain : Nat → State → State
  | 0, s => s
  | fuel + 1, s =>
    match s.link.inbound with
    | [] => s
    | f :: rest =>
      if repliesWaiting s.link.outbound < 8 then drain fuel (takeCommand f (putLink s { s.link with inbound := rest }))
      else s

/-- Every command that R177 lets be taken now. -/
def drainAll (s : State) : State := drain s.link.inbound.length s

/-! ## The LINK report (R183) -/

/-- The snapshot of a LINK report (R183). -/
def linkReport (ev : LinkEvent) (l : Link) : ReportBody := .link ev l.latch l.inbound.length l.discards l.frameErrors

/-- The link changed and an event of it reported. -/
def linkEvent (ev : LinkEvent) (l : Link) (s : State) : State := raise (linkReport ev l) (putLink s l)

/-! ## Writes (R174 to R176) -/

/-- A frame error (R174). -/
def frameFault (s : State) : State :=
  linkEvent .frameError { s.link with frameErrors := bump16 s.link.frameErrors } s

/-- Whether a LEN byte and the bytes that followed it are a frame error (R174). -/
def badFrame (len followed : Nat) : Bool := decide (len < 3) || decide (251 < len) || decide (followed < len)

/-- A frame discarded as an overrun (R175). -/
def overrun (s : State) : State :=
  linkEvent .overrun { s.link with latch := true, discards := if s.link.latch then bump16 s.link.discards else 1 } s

/-- The arrival of a frame that is not LINK-CLEAR (R175). -/
def arrive (f : Frame) (s : State) : State :=
  if s.link.latch = true ∨ 8 ≤ s.link.inbound.length then overrun s
  else putLink s { s.link with inbound := s.link.inbound ++ [f] }

/-- LINK-CLEAR at its arrival (R176). -/
def clearLatch (s : State) : State := linkEvent .cleared { s.link with latch := false } s

/-- A frame written by the host, and the commands that can be taken then (R174 to R177; log entries 1 and 22). -/
def writeFrame (f : Frame) (s : State) : State :=
  if 248 < f.body.length then frameFault s
  else if f.kind = 0x04 then clearLatch s
  else drainAll (arrive f s)

/-! ## Transactions (R172) -/

/-- What the first byte of a transaction makes it (R172). -/
inductive TransactionType where
  | write
  | read
  | ignored
deriving DecidableEq, Repr

/-- 0x5A is a write, 0xC3 a read, and the rest of any other transaction is ignored (R172). -/
def transactionType (first : Byte) : TransactionType :=
  if first = 0x5A then .write else if first = 0xC3 then .read else .ignored

/-- The row of a complete frame: LINK-CLEAR at its arrival, or a frame for the inbound queue (R175, R176). -/
def rowOfFrame (f : Frame) : Instr := if f.kind = 0x04 then .linkClear f.src f.tag f.body else .frameArrival f

/-- The frame of the bytes that follow its LEN byte (Table 11-1). -/
def frameOfBytes (b : List Byte) : Frame := ⟨b.getD 0 0, b.getD 1 0, b.getD 2 0, b.drop 3⟩

/-- The rows of a write transaction, from the bytes after its type byte to SEL high: none without a LEN byte, a frame error, or the
frame, the bytes after it ignored (R174). -/
def rowsOfWrite : List Byte → List Instr
  | [] => []
  | len :: rest =>
    if badFrame len.toNat rest.length then [.frameError len rest.length]
    else [rowOfFrame (frameOfBytes (rest.take len.toNat))]

/-- The rows of a transaction, from the whole bytes that the host shifts in on SDI while SEL is low (R172; log entry 17). -/
def rowsOfTransaction : List Byte → List Instr
  | [] => []
  | first :: rest =>
    match transactionType first with
    | .write => rowsOfWrite rest
    | .read => [.read .start, .read (.selHigh rest.length)]
    | .ignored => []

/-! ## Reads (R180) -/

/-- What a read transaction shifts out: the head message, or a LEN of 0 where none waits (R180). -/
def headBytes (s : State) : List Byte :=
  match s.link.outbound with
  | [] => [0]
  | m :: _ => messageBytes m

/-- The bytes on SDO while the host shifts in the bytes of a transaction that begins in a state: 0x00 in the type byte and throughout a
write; the head message and zeros after it in a read (R172, R180). Of an ignored transaction only the type byte is stated. -/
def sdoBytes (s : State) : List Byte → List Byte
  | [] => []
  | first :: rest =>
    0 :: match transactionType first with
      | .write => List.replicate rest.length 0
      | .read => (headBytes s ++ List.replicate rest.length 0).take rest.length
      | .ignored => (List.range rest.length).map (Config.sdoIgnored s.draws)

/-- The head message as a read transaction takes it when its type byte is complete (R180). -/
def beginRead (s : State) : State :=
  putLink s { s.link with
    reading := some ⟨headBytes s, !s.link.outbound.isEmpty, 0, false⟩ }

/-- The outbound queue after a complete read whose head entry was coalesced into n times since its start (R180). -/
def readOut (n : Nat) : List Message → List Message
  | [] => []
  | .reply r :: rest => if n = 0 then rest else .reply r :: rest
  | .report b _ :: rest => if n = 0 then rest else .report b (min n 255) :: rest

/-- SEL goes high after `clocked` bytes of a read transaction (R180). -/
def endRead (clocked : Nat) (r : Reading) (s : State) : State :=
  let l := { s.link with reading := none, sdo := (r.bytes ++ List.replicate clocked 0).take clocked }
  if r.present = true ∧ r.emptied = false ∧ r.bytes.length ≤ clocked then
    drainAll (putLink s { l with outbound := readOut r.coalesced l.outbound })
  else putLink s l

/-- The two moments of a read transaction (R180; log entry 17). -/
def readTransaction (e : ReadEvent) (s : State) : State :=
  match e with
  | .start => beginRead s
  | .selHigh clocked =>
    match s.link.reading with
    | none => s
    | some r => endRead clocked r s

end Sys2Proof.Machine
end

