-- ==== Sys2Proof/Machine/Commands.lean ====
section
/-! DEFINITION. The meanings of the rows that come over the Control Link or through a pin: each command row is the arrival of
its frame (R173, R175), and the taking of every command that R177 then lets be taken. Log entry 1. -/

namespace Sys2Proof.Machine

/-- What a step answers. -/
abbrev Answered := Host.Outcome State Fault Refusal

/-- POWER_ON (R183): the waiting commands, the page contents and the count of free values are no register of the part. -/
def execPowerOn (s : State) : Answered := .next (powerOnState s.pending s.store.mem s.draws)

/-- RESET_PIN (R172, R183): its release acts as power-on. -/
def execResetPin (s : State) : Answered := .next (powerOnState s.pending s.store.mem s.draws)

/-- FRAME_ARRIVAL (R175). -/
def execFrameArrival (f : Frame) (s : State) : Answered := .next (writeFrame f s)

/-- FRAME_ERROR (R174). -/
def execFrameError (len : Byte) (followed : Nat) (s : State) : Answered :=
  .next (if badFrame len.toNat followed then frameFault s else s)

/-- READ (R180). -/
def execRead (e : ReadEvent) (s : State) : Answered := .next (readTransaction e s)

/-- LINK_CLEAR (R176). -/
def execLinkClear (src tag : Byte) (body : List Byte) (s : State) : Answered := .next (writeFrame ⟨0x04, src, tag, body⟩ s)

/-- BAD_KIND (R177). -/
def execBadKind (f : Frame) (s : State) : Answered := .next (writeFrame f s)

/-- RESET_DEVICE (R182). -/
def execResetDevice (src tag erase : Byte) (s : State) : Answered := .next (writeFrame ⟨0x01, src, tag, [0, erase]⟩ s)

/-- RESET_POSITION (R182, R20). -/
def execResetPosition (src tag erase : Byte) (s : State) : Answered := .next (writeFrame ⟨0x01, src, tag, [1, erase]⟩ s)

/-- SLEEP (R169). -/
def execSleep (src tag : Byte) (s : State) : Answered := .next (writeFrame ⟨0x02, src, tag, []⟩ s)

/-- WAKE (R170). -/
def execWake (src tag : Byte) (s : State) : Answered := .next (writeFrame ⟨0x03, src, tag, []⟩ s)

/-- PORT_SET (R163). -/
def execPortSet (src tag port role : Byte) (slots : List Byte) (s : State) : Answered :=
  .next (writeFrame ⟨0x05, src, tag, port :: role :: slots⟩ s)

/-- PORT_STATUS (R168). -/
def execPortStatus (src tag : Byte) (s : State) : Answered := .next (writeFrame ⟨0x06, src, tag, []⟩ s)

/-- SET_PARAM (R181). -/
def execSetParam (src tag id : Byte) (value : BitVec 16) (s : State) : Answered :=
  .next (writeFrame ⟨0x08, src, tag, id :: bytes16 value⟩ s)

/-- GET_PARAM (R181). -/
def execGetParam (src tag id : Byte) (s : State) : Answered := .next (writeFrame ⟨0x09, src, tag, [id]⟩ s)

/-- POS_OPEN (R4). -/
def execPosOpen (src tag : Byte) (s : State) : Answered := .next (writeFrame ⟨0x10, src, tag, []⟩ s)

/-- POS_CLOSE (R11). -/
def execPosClose (src tag : Byte) (s : State) : Answered := .next (writeFrame ⟨0x11, src, tag, []⟩ s)

/-- CALL_OFFER (R5). -/
def execCallOffer (src tag : Byte) (whisper net : Option ItemSpec) (hint : Option (BitVec 16)) (s : State) : Answered :=
  .next (writeFrame ⟨0x12, src, tag, offerBytes whisper net hint⟩ s)

/-- CALL_CONNECT (R8). -/
def execCallConnect (src tag : Byte) (s : State) : Answered := .next (writeFrame ⟨0x13, src, tag, []⟩ s)

/-- CALL_HOLD (R9). -/
def execCallHold (src tag : Byte) (item : ItemSpec) (s : State) : Answered :=
  .next (writeFrame ⟨0x14, src, tag, itemBytes item⟩ s)

/-- CALL_CLEAR (R10). -/
def execCallClear (src tag : Byte) (s : State) : Answered := .next (writeFrame ⟨0x15, src, tag, []⟩ s)

/-- MUTE (R12). -/
def execMute (src tag value : Byte) (s : State) : Answered := .next (writeFrame ⟨0x16, src, tag, [value]⟩ s)

/-- POS_STATUS (R13). -/
def execPosStatus (src tag : Byte) (s : State) : Answered := .next (writeFrame ⟨0x17, src, tag, []⟩ s)

/-- EC_MODE (R77). -/
def execEcMode (src tag value : Byte) (s : State) : Answered := .next (writeFrame ⟨0x18, src, tag, [value]⟩ s)

/-- EC_FREEZE (R78). -/
def execEcFreeze (src tag value : Byte) (s : State) : Answered := .next (writeFrame ⟨0x19, src, tag, [value]⟩ s)

/-- SEARCH (R87). -/
def execSearch (src tag value : Byte) (s : State) : Answered := .next (writeFrame ⟨0x1A, src, tag, [value]⟩ s)

/-- WINDOW_SET (R79). -/
def execWindowSet (src tag : Byte) (lag : BitVec 16) (s : State) : Answered :=
  .next (writeFrame ⟨0x1B, src, tag, bytes16 lag⟩ s)

/-- EC_STATUS (R80). -/
def execEcStatus (src tag : Byte) (s : State) : Answered := .next (writeFrame ⟨0x1C, src, tag, []⟩ s)

/-- PLAY_NOW (R125, R127): PLAY with mode code 0. -/
def execPlayNow (src tag player : Byte) (item : ItemSpec) (s : State) : Answered :=
  .next (writeFrame ⟨0x20, src, tag, player :: 0 :: itemBytes item⟩ s)

/-- PLAY_INTERRUPT (R125, R128): PLAY with mode code 1. -/
def execPlayInterrupt (src tag player : Byte) (item : ItemSpec) (s : State) : Answered :=
  .next (writeFrame ⟨0x20, src, tag, player :: 1 :: itemBytes item⟩ s)

/-- PLAY_NEXT (R125, R129): PLAY with mode code 2. -/
def execPlayNext (src tag player : Byte) (item : ItemSpec) (s : State) : Answered :=
  .next (writeFrame ⟨0x20, src, tag, player :: 2 :: itemBytes item⟩ s)

/-- PLAY_ONLY (R125, R130): PLAY with mode code 3. -/
def execPlayOnly (src tag player : Byte) (item : ItemSpec) (s : State) : Answered :=
  .next (writeFrame ⟨0x20, src, tag, player :: 3 :: itemBytes item⟩ s)

/-- STOP_CURRENT (R136): STOP with scope 0. -/
def execStopCurrent (src tag player : Byte) (s : State) : Answered := .next (writeFrame ⟨0x21, src, tag, [player, 0]⟩ s)

/-- STOP_ALL (R136): STOP with scope 1. -/
def execStopAll (src tag player : Byte) (s : State) : Answered := .next (writeFrame ⟨0x21, src, tag, [player, 1]⟩ s)

/-- PLAYER_STATUS (R140). -/
def execPlayerStatus (src tag : Byte) (s : State) : Answered := .next (writeFrame ⟨0x22, src, tag, []⟩ s)

/-- TONE_START (R157). -/
def execToneStart (src tag : Byte) (frequency : BitVec 16) (level : Byte) (period onTime : BitVec 16) (bursts route : Byte)
    (s : State) : Answered :=
  .next (writeFrame
    ⟨0x24, src, tag, bytes16 frequency ++ [level] ++ bytes16 period ++ bytes16 onTime ++ [bursts, route]⟩ s)

/-- TONE_STOP (R161). -/
def execToneStop (src tag : Byte) (s : State) : Answered := .next (writeFrame ⟨0x25, src, tag, []⟩ s)

/-- CLIP_ALLOC (R109). -/
def execClipAlloc (src tag clip format : Byte) (capacity : BitVec 32) (s : State) : Answered :=
  .next (writeFrame ⟨0x28, src, tag, clip :: format :: bytes32 capacity⟩ s)

/-- CLIP_WRITE (R110). -/
def execClipWrite (src tag clip : Byte) (data : List Byte) (s : State) : Answered :=
  .next (writeFrame ⟨0x29, src, tag, clip :: data⟩ s)

/-- CLIP_END (R111). -/
def execClipEnd (src tag clip : Byte) (s : State) : Answered := .next (writeFrame ⟨0x2A, src, tag, [clip]⟩ s)

/-- CLIP_FREE (R112). -/
def execClipFree (src tag clip : Byte) (s : State) : Answered := .next (writeFrame ⟨0x2B, src, tag, [clip]⟩ s)

/-- CLIP_INFO (R113). -/
def execClipInfo (src tag clip : Byte) (s : State) : Answered := .next (writeFrame ⟨0x2C, src, tag, [clip]⟩ s)

/-- STORE_COMPACT (R116). -/
def execStoreCompact (src tag : Byte) (s : State) : Answered := .next (writeFrame ⟨0x2D, src, tag, []⟩ s)

/-- EXPAND_LOAD (R107). -/
def execExpandLoad (src tag start : Byte) (entries : List (BitVec 16)) (s : State) : Answered :=
  .next (writeFrame ⟨0x2E, src, tag, start :: entries.flatMap bytes16⟩ s)

/-- STREAM_OPEN (R145). -/
def execStreamOpen (src tag stream format : Byte) (halfSize : BitVec 16) (s : State) : Answered :=
  .next (writeFrame ⟨0x30, src, tag, stream :: format :: bytes16 halfSize⟩ s)

/-- STREAM_FILL (R146). -/
def execStreamFill (src tag stream half last : Byte) (data : List Byte) (s : State) : Answered :=
  .next (writeFrame ⟨0x31, src, tag, stream :: half :: last :: data⟩ s)

/-- STREAM_START (R147). -/
def execStreamStart (src tag stream : Byte) (s : State) : Answered := .next (writeFrame ⟨0x32, src, tag, [stream]⟩ s)

/-- STREAM_STOP (R147). -/
def execStreamStop (src tag stream : Byte) (s : State) : Answered := .next (writeFrame ⟨0x33, src, tag, [stream]⟩ s)

/-- STREAM_CLOSE (R152). -/
def execStreamClose (src tag stream : Byte) (s : State) : Answered := .next (writeFrame ⟨0x34, src, tag, [stream]⟩ s)

/-- STREAM_STATUS (R154). -/
def execStreamStatus (src tag stream : Byte) (s : State) : Answered := .next (writeFrame ⟨0x35, src, tag, [stream]⟩ s)

end Sys2Proof.Machine
end

