-- ==== Sys2Proof/Machine/Events.lean ====
section
/-! DEFINITION. The meanings of the rows that are events of the part itself or of its ports: an event acts where it is due in the
state, and leaves the state as it is where it is not. Log entry 3. -/

namespace Sys2Proof.Machine

/-- SLICE_PERIOD (R165). -/
def execSlicePeriod (netIn posIn : AudioBlock) (group : Option AudioBlock) (s : State) : Answered :=
  .next (slicePeriod netIn posIn group s)

/-- POSITION_SLICE (R15). -/
def execPositionSlice (p : PosIx) (s : State) : Answered := .next (positionSlice p s)

/-! ## The Floor Suppressor -/

/-- The suppressor of a position measures: it processes slices, and the period delivers a received slice (R37). -/
def measuring (s : State) (p : PosIx) : Bool := processes s p && s.period.micReceived

/-- The suppressor of a position replaced. -/
def putSuppressor (s : State) (p : PosIx) (x : Suppressor) : State := putPos s p { getPos s p with suppressor := x }

/-- A rise of the microphone floor (R30, R38). -/
def raiseMicFloor (p : PosIx) (level : Nat) (s : State) : State :=
  let r := getPos s p
  if measuring s p = true ∧ level ≤ 120 ∧ trackerRiseDue r.params.floorRise level r.suppressor.floor = true then
    putSuppressor s p { r.suppressor with floor := trackerStep r.params.floorRise level r.suppressor.floor }
  else s

/-- A rise of the caller-path floor (R30, R73). -/
def raiseCallerFloor (p : PosIx) (level : Nat) (s : State) : State :=
  let r := getPos s p
  if processes s p = true ∧ cancelling r.canceller.state = true ∧ s.period.netLocked = true ∧ level ≤ 120 ∧
      trackerRiseDue r.params.floorRise level r.canceller.floor = true then
    putCanceller s p { r.canceller with floor := trackerStep r.params.floorRise level r.canceller.floor }
  else s

/-- FLOOR_TRACKER_RISE (R30). -/
def execFloorTrackerRise (p : PosIx) (which : TrackerId) (level : Nat) (s : State) : Answered :=
  .next (match which with
    | .microphone => raiseMicFloor p level s
    | .callerPath => raiseCallerFloor p level s)

/-- The VAD's hangover runs out in a slice of a given ratio (R39). -/
def expireVad (p : PosIx) (ratio : Nat) (s : State) : State :=
  let r := getPos s p
  if measuring s p = true ∧ ratio < r.params.vadT ∧ r.suppressor.hangover = 1 then
    putSuppressor s p (vadStep r.params ratio r.suppressor)
  else s

/-- VAD_HANGOVER_EXPIRY (R39). -/
def execVadHangoverExpiry (p : PosIx) (ratio : Nat) (s : State) : Answered := .next (expireVad p ratio s)

/-- A boost refresh that is due, with the step of the applied boost and the LEVEL report (R47 to R49). -/
def refreshDue (p : PosIx) (s : State) : State :=
  let r := getPos s p
  if measuring s p = true ∧ boostRefreshDue r.params r.suppressor = true then
    let x := boostStep r.params r.suppressor
    raiseAll (levelReports p r.suppressor x) (putSuppressor s p x)
  else s

/-- BOOST_REFRESH (R47). -/
def execBoostRefresh (p : PosIx) (s : State) : Answered := .next (refreshDue p s)

/-! ## The Echo Canceller -/

/-- The double-talk hangover runs out in a slice (R60): Ymax is 0 while the Network Port is not locked. -/
def expireDoubleTalk (p : PosIx) (ymax xmax : Nat) (s : State) : State :=
  let c := (getPos s p).canceller
  let detected := doubleTalk (if s.period.netLocked then ymax else 0) xmax
  if processes s p = true ∧ cancelling c.state = true ∧ detected = false ∧ c.hangover = 1 then
    putCanceller s p { c with hangover := doubleTalkHangover (getPos s p).params.ecDtHang detected c.hangover }
  else s

/-- DOUBLE_TALK_HANGOVER_EXPIRY (R60). -/
def execDoubleTalkHangoverExpiry (p : PosIx) (ymax xmax : Nat) (s : State) : Answered :=
  .next (expireDoubleTalk p ymax xmax s)

/-- What the state shows of the adapting condition (R61): the event itself says that the slice is reference-active and without
double-talk. -/
def mayAdapt (s : State) (p : PosIx) : Bool :=
  let c := (getPos s p).canceller
  processes s p && cancelling c.state && s.period.netLocked && !c.freeze && c.hangover == 0

/-- A canceller event with its ECHO report (R65, R66, R81). -/
def cancellerEvent (p : PosIx) (ev : EchoEvent) (c : Canceller) (s : State) : State :=
  let t := putCanceller s p c
  raise (echoReport p ev t) t

/-- The convergence counter reaches 25 (R65). -/
def converge (p : PosIx) (s : State) : State :=
  let r := getPos s p
  let x := convergenceStep r.params.ecConv r.canceller
  if mayAdapt s p = true ∧ r.canceller.state = .training ∧ x.2 = true then cancellerEvent p .converged x.1 s else s

/-- CONVERGED (R65). -/
def execConverged (p : PosIx) (s : State) : Answered := .next (converge p s)

/-- The divergence counter reaches 8 (R66). -/
def diverge (p : PosIx) (estimateLevel returnLevel : Nat) (s : State) : State :=
  let x := divergenceStep estimateLevel returnLevel (getPos s p).canceller
  if mayAdapt s p = true ∧ x.2 = true then cancellerEvent p .diverged x.1 s else s

/-- DIVERGED (R66). -/
def execDiverged (p : PosIx) (estimateLevel returnLevel : Nat) (s : State) : Answered :=
  .next (diverge p estimateLevel returnLevel s)

/-- The loss counter reaches 250 (R67). -/
def loseErle (p : PosIx) (s : State) : State :=
  let r := getPos s p
  let x := lossStep r.params.ecLoss r.canceller
  if mayAdapt s p = true ∧ r.canceller.state = .tracking ∧ x.2 = true then
    let t := putCanceller s p x.1
    if r.params.ecAutoSearch = 1 then (placeRequest p autoShort t).1 else t
  else s

/-- LOSS_OF_ERLE (R67). -/
def execLossOfErle (p : PosIx) (s : State) : Answered := .next (loseErle p s)

/-- The research counter reaches its period (R68). -/
def expireResearch (p : PosIx) (s : State) : State :=
  let r := getPos s p
  let x := researchStep r.params.ecResearch r.canceller
  if processes s p = true ∧ r.canceller.state = .tracking ∧ x.2 = true then (placeRequest p autoShort (putCanceller s p x.1)).1
  else s

/-- RESEARCH_PERIOD_EXPIRY (R68). -/
def execResearchPeriodExpiry (p : PosIx) (s : State) : Answered := .next (expireResearch p s)

/-! ## The Delay Search Engine -/

/-- SEARCH_START (R89). -/
def execSearchStart (s : State) : Answered := .next (startHead s)

/-- The in-flight search ends where a judgement says so, with its report (R92, R95). -/
def endInFlight (due : InFlight → Bool) (finish : InFlight → State → State × ReportBody) (s : State) : State :=
  match s.engine.inFlight with
  | none => s
  | some f =>
    if processes s f.entry.position && due f then
      let x := finish f s
      raise x.2 x.1
    else s

/-- SEARCH_COMPLETES (R95). -/
def execSearchCompletes (s : State) : Answered := .next (endInFlight searchComplete completeSearch s)

/-- TIMED_OUT (R92). -/
def execTimedOut (s : State) : Answered :=
  .next (endInFlight (searchTimedOut s.device.searchTimeout) (endSearch .timedOut none) s)

/-! ## Players and tones -/

/-- The clip item a player plays is at its last sample (R133). -/
def atLastSample (s : State) (it : Item) : Bool :=
  match it.source with
  | .clip c => decide ((getClip s c).length ≤ it.readOffset + 1)
  | .stream _ => false

/-- The pass of a player's current clip item ends, with what follows at the slice's completion (R133, R134, R7). -/
def endPass (p : PosIx) (w : PlayerId) (s : State) : State :=
  match (getPlayer s p w).current with
  | none => s
  | some it =>
    if processes s p && atLastSample s it then
      let r := passEnds it (beginRun (getPlayer s p w))
      whisperCheck p (getPos s p).agent.current.isSome (raiseAll (runReports p w r) (settleRun p w r s))
    else s

/-- PASS_END (R133). -/
def execPassEnd (p : PosIx) (which : PlayerId) (s : State) : Answered := .next (endPass p which s)

/-- The tone unit of a position replaced. -/
def putTone (s : State) (p : PosIx) (t : Tone) : State := putPos s p { getPos s p with tone := t }

/-- The burst of a running tone completes (R159, R161). -/
def completeBurst (p : PosIx) (s : State) : State :=
  let t := (getPos s p).tone
  if processes s p = true ∧ t.running = true ∧ t.cycle + 1 = t.onTime then
    let x := burstCompletes t
    raiseAll (if x.2 then [toneReport p .completed x.1] else []) (putTone s p x.1)
  else s

/-- BURST_COMPLETE (R159). -/
def execBurstComplete (p : PosIx) (s : State) : Answered := .next (completeBurst p s)

/-- A new cycle of a running tone begins (R159). -/
def beginCycle (p : PosIx) (s : State) : State :=
  let t := (getPos s p).tone
  if processes s p = true ∧ t.running = true ∧ t.cycle + 1 ≠ t.onTime ∧ t.cycle + 1 = t.period then putTone s p (newCycle t)
  else s

/-- NEW_CYCLE (R159). -/
def execNewCycle (p : PosIx) (s : State) : Answered := .next (beginCycle p s)

/-! ## Streams and compaction -/

/-- The half a RUNNING stream reads is played out by its next sample (R150). -/
def emptyHalfOf (i : StreamIx) (s : State) : State :=
  let r := getStream s i
  let x := halfOf r r.readHalf
  if s.ports.standby = false ∧ r.state = .running ∧ x.state = .playing ∧ x.valid ≤ r.readOffset + 1 then
    let run := enterHalf 3 (leaveHalf ⟨{ r with readOffset := r.readOffset + 1 }, []⟩)
    raiseAll (fixReports i run) (putStream s i run.stream)
  else s

/-- HALF_EMPTY (R150). -/
def execHalfEmpty (i : StreamIx) (s : State) : Answered := .next (emptyHalfOf i s)

/-- TURN (R117): one turn, or the end of compaction (R120). -/
def execTurn (s : State) : Answered := .next (if turnDue s then takeTurn s else s)

/-- MOVE_COMPLETES (R118). -/
def execMoveCompletes (s : State) : Answered := .next (finishMove s)

/-! ## Ports -/

/-- FRAME_SYNC (R164). -/
def execFrameSync (port : PortId) (distance : Nat) (s : State) : Answered :=
  .next (if judgesSyncs s port then takeSync port distance s else s)

/-- MISSING_SYNC (R164). -/
def execMissingSync (port : PortId) (s : State) : Answered := .next (if judgesSyncs s port then missSync port s else s)

/-- POSITION_PORT_GROUP (R166). -/
def execPositionPortGroup (received : AudioBlock) (s : State) : Answered := .next (completeGroup received s)

end Sys2Proof.Machine
end

