-- ==== Sys2Proof/Machine/Dispatch.lean ====
section
/-! DEFINITION. The dispatch: one arm per command. -/

namespace Sys2Proof.Machine

/-- The effect of a command on everything but the queue. -/
def exec (i : Instr) (s : State) : Host.Outcome State Fault Refusal :=
  match i with
  | .powerOn => Sys2Proof.Machine.execPowerOn s
  | .resetPin => Sys2Proof.Machine.execResetPin s
  | .frameArrival f => Sys2Proof.Machine.execFrameArrival f s
  | .frameError len followed => Sys2Proof.Machine.execFrameError len followed s
  | .read e => Sys2Proof.Machine.execRead e s
  | .linkClear src tag body => Sys2Proof.Machine.execLinkClear src tag body s
  | .badKind f => Sys2Proof.Machine.execBadKind f s
  | .resetDevice src tag erase => Sys2Proof.Machine.execResetDevice src tag erase s
  | .resetPosition src tag erase => Sys2Proof.Machine.execResetPosition src tag erase s
  | .sleep src tag => Sys2Proof.Machine.execSleep src tag s
  | .wake src tag => Sys2Proof.Machine.execWake src tag s
  | .portSet src tag port role slots => Sys2Proof.Machine.execPortSet src tag port role slots s
  | .portStatus src tag => Sys2Proof.Machine.execPortStatus src tag s
  | .setParam src tag id value => Sys2Proof.Machine.execSetParam src tag id value s
  | .getParam src tag id => Sys2Proof.Machine.execGetParam src tag id s
  | .posOpen src tag => Sys2Proof.Machine.execPosOpen src tag s
  | .posClose src tag => Sys2Proof.Machine.execPosClose src tag s
  | .callOffer src tag whisper net hint => Sys2Proof.Machine.execCallOffer src tag whisper net hint s
  | .callConnect src tag => Sys2Proof.Machine.execCallConnect src tag s
  | .callHold src tag item => Sys2Proof.Machine.execCallHold src tag item s
  | .callClear src tag => Sys2Proof.Machine.execCallClear src tag s
  | .mute src tag value => Sys2Proof.Machine.execMute src tag value s
  | .posStatus src tag => Sys2Proof.Machine.execPosStatus src tag s
  | .ecMode src tag value => Sys2Proof.Machine.execEcMode src tag value s
  | .ecFreeze src tag value => Sys2Proof.Machine.execEcFreeze src tag value s
  | .search src tag value => Sys2Proof.Machine.execSearch src tag value s
  | .windowSet src tag lag => Sys2Proof.Machine.execWindowSet src tag lag s
  | .ecStatus src tag => Sys2Proof.Machine.execEcStatus src tag s
  | .playNow src tag player item => Sys2Proof.Machine.execPlayNow src tag player item s
  | .playInterrupt src tag player item => Sys2Proof.Machine.execPlayInterrupt src tag player item s
  | .playNext src tag player item => Sys2Proof.Machine.execPlayNext src tag player item s
  | .playOnly src tag player item => Sys2Proof.Machine.execPlayOnly src tag player item s
  | .stopCurrent src tag player => Sys2Proof.Machine.execStopCurrent src tag player s
  | .stopAll src tag player => Sys2Proof.Machine.execStopAll src tag player s
  | .playerStatus src tag => Sys2Proof.Machine.execPlayerStatus src tag s
  | .toneStart src tag frequency level period onTime bursts route => Sys2Proof.Machine.execToneStart src tag frequency level period onTime bursts route s
  | .toneStop src tag => Sys2Proof.Machine.execToneStop src tag s
  | .clipAlloc src tag clip format capacity => Sys2Proof.Machine.execClipAlloc src tag clip format capacity s
  | .clipWrite src tag clip data => Sys2Proof.Machine.execClipWrite src tag clip data s
  | .clipEnd src tag clip => Sys2Proof.Machine.execClipEnd src tag clip s
  | .clipFree src tag clip => Sys2Proof.Machine.execClipFree src tag clip s
  | .clipInfo src tag clip => Sys2Proof.Machine.execClipInfo src tag clip s
  | .storeCompact src tag => Sys2Proof.Machine.execStoreCompact src tag s
  | .expandLoad src tag start entries => Sys2Proof.Machine.execExpandLoad src tag start entries s
  | .streamOpen src tag stream format halfSize => Sys2Proof.Machine.execStreamOpen src tag stream format halfSize s
  | .streamFill src tag stream half last data => Sys2Proof.Machine.execStreamFill src tag stream half last data s
  | .streamStart src tag stream => Sys2Proof.Machine.execStreamStart src tag stream s
  | .streamStop src tag stream => Sys2Proof.Machine.execStreamStop src tag stream s
  | .streamClose src tag stream => Sys2Proof.Machine.execStreamClose src tag stream s
  | .streamStatus src tag stream => Sys2Proof.Machine.execStreamStatus src tag stream s
  | .slicePeriod netIn posIn group => Sys2Proof.Machine.execSlicePeriod netIn posIn group s
  | .positionSlice p => Sys2Proof.Machine.execPositionSlice p s
  | .floorTrackerRise p which level => Sys2Proof.Machine.execFloorTrackerRise p which level s
  | .vadHangoverExpiry p ratio => Sys2Proof.Machine.execVadHangoverExpiry p ratio s
  | .boostRefresh p => Sys2Proof.Machine.execBoostRefresh p s
  | .doubleTalkHangoverExpiry p ymax xmax => Sys2Proof.Machine.execDoubleTalkHangoverExpiry p ymax xmax s
  | .converged p => Sys2Proof.Machine.execConverged p s
  | .diverged p estimateLevel returnLevel => Sys2Proof.Machine.execDiverged p estimateLevel returnLevel s
  | .lossOfErle p => Sys2Proof.Machine.execLossOfErle p s
  | .researchPeriodExpiry p => Sys2Proof.Machine.execResearchPeriodExpiry p s
  | .searchStart => Sys2Proof.Machine.execSearchStart s
  | .searchCompletes => Sys2Proof.Machine.execSearchCompletes s
  | .timedOut => Sys2Proof.Machine.execTimedOut s
  | .passEnd p which => Sys2Proof.Machine.execPassEnd p which s
  | .burstComplete p => Sys2Proof.Machine.execBurstComplete p s
  | .newCycle p => Sys2Proof.Machine.execNewCycle p s
  | .halfEmpty k => Sys2Proof.Machine.execHalfEmpty k s
  | .turn => Sys2Proof.Machine.execTurn s
  | .moveCompletes => Sys2Proof.Machine.execMoveCompletes s
  | .frameSync port distance => Sys2Proof.Machine.execFrameSync port distance s
  | .missingSync port => Sys2Proof.Machine.execMissingSync port s
  | .positionPortGroup received => Sys2Proof.Machine.execPositionPortGroup received s

end Sys2Proof.Machine
end

