-- ==== Sys2Proof/Machine/Flags.lean ====
section
/-! DEFINITION. The flags of the part that are views of its state, not state of their own. -/

namespace Sys2Proof.Machine

/-- The attention line ATTN is asserted while the outbound queue holds a message (R178). -/
def attention (s : State) : Bool := !s.link.outbound.isEmpty

/-- The engine is BUSY (R84). -/
def engineBusy (s : State) : Bool := s.engine.inFlight.isSome

/-- A player is PLAYING (R123). -/
def playing (s : State) (p : PosIx) (w : PlayerId) : Bool := (getPlayer s p w).current.isSome

/-- A port is STOPPED, SYNCING or LOCKED (R164). -/
def portState (s : State) (id : PortId) : PortState := (portOf s.ports id).state

/-- The clock pins of a port, NCLK and NSYNC or PCLK and PSYNC (R164, Table 10-4): a master drives them from the timing source (R165)
and holds them low in STOPPED; a slave takes them as inputs. The role is the one in effect (R163; log entry 38). The data outputs, which
are silent in STOPPED, are `Ports.ndout` and `Ports.pdout`. -/
def clockPins (r : Ports) (id : PortId) : ClockPins :=
  match (portOf r id).acting with
  | .slave => .inputs
  | .master => if (portOf r id).state = .stopped then .heldLow else .driven (timingSource r)

end Sys2Proof.Machine
end

