-- ==== Sys2Proof/Safety.lean ====
section
/-! DEFINITION. What the manual says holds of the part at all times, unit by unit, as conditions on the state. -/

namespace Sys2Proof.Machine

/-! ## The Control Link (R175, R177, R178) -/

/-- The reports of an outbound queue. -/
def reportsOf : List Message → List ReportBody
  | [] => []
  | .reply _ :: rest => reportsOf rest
  | .report b _ :: rest => b :: reportsOf rest

/-- A report's repeat count is within 1..255 (R179). -/
def repeatsInRange : Message → Bool
  | .reply _ => true
  | .report _ n => decide (1 ≤ n ∧ n ≤ 255)

/-- The inbound queue holds at most 8 frames, and holds one only behind 8 replies; the outbound queue holds at most 8 replies, and
no two reports of one kind and source, each with a repeat count of 1..255; the discards and the frame errors stop at 65,535 (R174, R175,
R177 to R179). -/
def LinkOk (l : Link) : Prop :=
  l.inbound.length ≤ 8 ∧ repliesWaiting l.outbound ≤ 8 ∧ (l.inbound = [] ∨ repliesWaiting l.outbound = 8) ∧
    ((reportsOf l.outbound).Pairwise fun a b => sameReport a b = false) ∧
    (∀ m ∈ l.outbound, repeatsInRange m = true) ∧ l.discards ≤ 65535 ∧ l.frameErrors ≤ 65535

/-! ## Positions -/

/-- An IDLE player holds nothing; at most 2 stacked and 4 queued items (R123). -/
def PlayerOk (pl : Player) : Prop :=
  (pl.current = none → pl.stack = [] ∧ pl.queue = []) ∧ pl.stack.length ≤ 2 ∧ pl.queue.length ≤ 4

/-- The players of a position; the NET player is IDLE without a call, both are IDLE in VACANT (R123, R11). -/
def PlayersOk (r : Position) : Prop :=
  PlayerOk r.net ∧ PlayerOk r.agent ∧ (callPresent r.call = false → r.net.current = none) ∧
    (r.call = .vacant → r.agent.current = none)

/-- The tone unit: every field within its range, its counters within its cadence, no tone in VACANT, none with route NET or BOTH without
a call (R156, R160). -/
def ToneOk (r : Position) : Prop :=
  410 ≤ r.tone.increment ∧ r.tone.increment ≤ 32358 ∧ r.tone.level ≤ 63 ∧ r.tone.period ≤ 2500 ∧ r.tone.bursts ≤ 255 ∧
    r.tone.phase ≤ 65535 ∧ r.tone.burstCount ≤ 255 ∧
    1 ≤ r.tone.onTime ∧ r.tone.onTime < r.tone.period ∧ r.tone.cycle < r.tone.period ∧
    (r.tone.running = true → r.call ≠ .vacant) ∧
    (r.tone.running = true → routeHasNet r.tone.route = true → callPresent r.call = true)

/-- The state a canceller mode goes with (R63). -/
def stateFits (call : CallState) (c : Canceller) : Bool :=
  match c.mode with
  | .off => decide (c.state = .off)
  | .bypass => decide (c.state = .bypass)
  | .on => if callPresent call then cancelling c.state else decide (c.state = .standby)

/-- A floor tracker's floor is within 0..120 and its rise counter within 0..249 (R30). -/
def TrackerOk (t : Tracker) : Prop := t.level ≤ 120 ∧ t.count ≤ 249

/-- The history holds 2112 samples (R54). -/
def HistoryOk (h : List Int) : Prop := h.length = 2112 ∧ ∀ x ∈ h, -32768 ≤ x ∧ x ≤ 32767

/-- There are 256 coefficients, of 32 bits each (R55). -/
def CoeffsOk (h : List Int) : Prop := h.length = 256 ∧ ∀ x ∈ h, -2147483648 ≤ x ∧ x ≤ 2147483647

/-- ERLE_s, the hangover and the four counters are within their ranges (R60, R62, R65 to R68). -/
def CancellerCountsOk (c : Canceller) : Prop :=
  c.erle ≤ 60 ∧ c.hangover ≤ 250 ∧ c.convergence ≤ 24 ∧ c.divergence ≤ 7 ∧ c.loss ≤ 249 ∧ c.research ≤ 62499

/-- The canceller: its state fits its mode and the call (R63), D is a multiple of 16 within 0..1792 and the coefficients are zero
in OFF and STANDBY (R55), the history, the coefficients, the counters and the caller-path floor are within their ranges (R54, R55, R60
to R68, R73), and the noise register is never 0 (R74). -/
def CancellerOk (r : Position) : Prop :=
  stateFits r.call r.canceller = true ∧ r.canceller.window % 16 = 0 ∧ r.canceller.window ≤ 1792 ∧
    (r.canceller.state = .off ∨ r.canceller.state = .standby → r.canceller.coeffs = zeroCoeffs) ∧
    HistoryOk r.canceller.history ∧ CoeffsOk r.canceller.coeffs ∧ CancellerCountsOk r.canceller ∧ TrackerOk r.canceller.floor ∧
    r.canceller.noise ≠ 0

/-- The Floor Suppressor's record is within the ranges of Table 3-1 (R30, R36, R39, R42, R47, R48). -/
def SuppressorOk (x : Suppressor) : Prop :=
  TrackerOk x.floor ∧ x.hangover ≤ 250 ∧ x.applied ≤ 63 ∧ x.target ≤ 24 ∧ x.boost ≤ 24 ∧ x.refresh ≤ 2499

/-- A position's parameters are in range, and the knees of its curves in order (R34, R181). -/
def ParamsOk (t : PosParams) : Prop :=
  (∀ q : PosParam, (posParamRange q).min ≤ getPosParam t q ∧ getPosParam t q ≤ (posParamRange q).max) ∧
    t.nsK1 ≤ t.nsK2 ∧ t.nsK2 ≤ t.nsK3 ∧ t.boostK1 ≤ t.boostK2 ∧ t.boostK2 ≤ t.boostK3

/-- The device parameters are in range (R98). -/
def DeviceOk (t : DevParams) : Prop :=
  2 ≤ t.peakRatio ∧ t.peakRatio ≤ 15 ∧ 250 ≤ t.searchTimeout ∧ t.searchTimeout ≤ 12500

/-! ## The engine (R84, R85) -/

/-- The positions that wait in the queue. -/
def queuedPositions (e : Engine) : List PosIx := e.queue.map SearchEntry.position

/-- A position that may be searched: it has a call, and its canceller is TRAINING or TRACKING (R85). -/
def searchable (s : State) (p : PosIx) : Bool := callPresent (getPos s p).call && cancelling (getPos s p).canceller.state

/-- There are 2048 accumulators, of 48 bits each (R90, R91). -/
def AccumulatorsOk (acc : List Int) : Prop := acc.length = 2048 ∧ ∀ v ∈ acc, -140737488355328 ≤ v ∧ v ≤ 140737488355327

/-- The record in flight: a span within 0..2047, fewer eligible slices than its kind needs, and fewer elapsed slices than the longest
time-out (R84, R92). -/
def InFlightOk (f : InFlight) : Prop :=
  f.first ≤ f.last ∧ f.last ≤ 2047 ∧ f.eligible < (match f.entry.request.kind with | .long => 200 | .short => 50) ∧ f.elapsed < 12500

/-- An IDLE engine holds nothing; no position waits twice or while it is in flight; every position the engine holds may be
searched (R84, R85); the record in flight and the accumulators are within their ranges (R84, R91). -/
def EngineOk (s : State) : Prop :=
  AccumulatorsOk s.engine.accumulators ∧
    (s.engine.inFlight = none → s.engine.followUp = none ∧ s.engine.queue = []) ∧
    (queuedPositions s.engine).Nodup ∧
    (∀ p ∈ queuedPositions s.engine, searchable s p = true) ∧
    (∀ f, s.engine.inFlight = some f →
      f.entry.position ∉ queuedPositions s.engine ∧ searchable s f.entry.position = true ∧ InFlightOk f)

/-! ## The store (R100, R102, R114) -/

/-- The items a player holds. -/
def heldItems (pl : Player) : List Item := pl.current.toList ++ pl.stack ++ pl.queue

/-- The items of every player. -/
def allItems (s : State) : List Item := allPlayers.flatMap fun x => heldItems (getPlayer s x.1 x.2)

/-- The items that name a clip (R114). -/
def itemsNaming (s : State) (c : ClipIx) : Nat := (allItems s).countP fun it => it.source == .clip c

/-- The players whose current item names a stream (R135). -/
def listenersOf (s : State) (i : StreamIx) : Nat :=
  allPlayers.countP fun x => (getPlayer s x.1 x.2).current.any (namesStream i)

/-- Each clip's reference count is the number of items naming it, and 0 unless the clip is READY (R114). -/
def CountsOk (s : State) : Prop :=
  ∀ c, (getClip s c).refCount = itemsNaming s c ∧ ((getClip s c).state ≠ .ready → (getClip s c).refCount = 0)

/-- Each stream's listener count is the number of players whose current item names it (R135), and no item names a CLOSED stream
(R125, R152). -/
def ListenersOk (s : State) : Prop :=
  ∀ i, (getStream s i).listeners = listenersOf s i ∧
    ((getStream s i).state = .closed → (allItems s).any (namesStream i) = false)

/-- A clip entry: the FREE values when FREE; otherwise a capacity within range that the pages fit and the samples do not pass, a
pending sample of 12 bits only while a PACK12 clip is UPLOADING, an even PACK12 length, and the state before its move exactly while it
is MOVING (R102, R104, R105, R118). -/
def ClipOk (c : Clip) : Prop :=
  (c.state = .free → c = freeClip) ∧
    (c.state ≠ .free →
      1 ≤ c.capacity ∧ c.capacity ≤ 262144 ∧ occupied c ≤ c.capacity ∧ c.pageCount = clipPages c.format c.capacity) ∧
    (∀ v ∈ c.pending, c.state = .uploading ∧ c.format = .pack12 ∧ -2048 ≤ v ∧ v ≤ 2047) ∧ (c.format = .pack12 → c.length % 2 = 0) ∧
    (c.state = .moving → c.beforeMove = some .ready ∨ c.beforeMove = some .damaged) ∧
    (c.state ≠ .moving → c.beforeMove = none)

/-- Two regions without a common page. -/
def apart (a b : Nat × Nat) : Prop := a.1 + a.2 ≤ b.1 ∨ b.1 + b.2 ≤ a.1

/-- The regions a clip holds: its own, and the new one while it is moved (R100). -/
def clipHolds (s : State) (c : ClipIx) : List (Nat × Nat) :=
  clipRegion (getClip s c) ++
    (match s.store.compaction.move with
      | none => []
      | some m => if m.clip = c then [(m.dest, m.pages)] else [])

/-- Store allocations never overlap, and lie within the 2048 pages (R100). -/
def SpaceOk (s : State) : Prop :=
  (∀ c d, c ≠ d → ∀ a ∈ clipHolds s c, ∀ b ∈ clipHolds s d, apart a b) ∧
    (∀ c i, ∀ a ∈ clipHolds s c, ∀ b ∈ streamRegion (getStream s i), apart a b) ∧
    (∀ i j, i ≠ j → ∀ a ∈ streamRegion (getStream s i), ∀ b ∈ streamRegion (getStream s j), apart a b) ∧
    (∀ c, ∀ a ∈ clipHolds s c, a.1 + a.2 ≤ 2048) ∧ (∀ i, ∀ a ∈ streamRegion (getStream s i), a.1 + a.2 ≤ 2048)

/-- The move in progress is that of a MOVING clip, of its pages as they stand, downwards, while compaction runs; no other clip is
MOVING (R116 to R118). -/
def MoveOk (s : State) : Prop :=
  (∀ m, s.store.compaction.move = some m →
    s.store.compaction.running = true ∧ m.source = (getClip s m.clip).firstPage ∧ m.pages = (getClip s m.clip).pageCount ∧
      m.dest < m.source ∧ m.copied ≤ m.pages ∧ (getClip s m.clip).state = .moving) ∧
    (∀ c, (getClip s c).state = .moving → ∃ m, s.store.compaction.move = some m ∧ m.clip = c)

/-! ## Streams (R142, R143) -/

/-- A stream's record keeps Table 8-1: the CLOSED values when CLOSED, but for the listeners, which have an invariant of their own, and the
slice fixed before (R148); otherwise a half size and a ring within their ranges. At most the half of the read position is PLAYING, and no
half holds or plays more than its size (R143). The read offset is below the valid length of a PLAYING half and 0 elsewhere; a stream in
underrun plays no half (R149 to R151). The fixed slice has 64 values (R148). -/
def StreamOk (r : Stream) : Prop :=
  (r.state = .closed → r = { closedStream with listeners := r.listeners, slice := r.slice, sounding := r.sounding }) ∧
    (r.state ≠ .closed →
      256 ≤ r.halfSize ∧ r.halfSize ≤ 16384 ∧ r.format ≠ .pack12 ∧ r.pageCount = ringPages r.format r.halfSize) ∧
    (∀ h, (halfOf r h).state = .playing → h = r.readHalf) ∧
    (∀ h, (halfOf r h).fill ≤ r.halfSize ∧ (halfOf r h).valid ≤ r.halfSize) ∧
    (∀ h, (halfOf r h).state = .empty → (halfOf r h).fill = 0 ∧ (halfOf r h).valid = 0) ∧
    ((halfOf r r.readHalf).state = .playing → r.readOffset < (halfOf r r.readHalf).valid ∧ r.underrun = false) ∧
    ((halfOf r r.readHalf).state ≠ .playing → r.readOffset = 0) ∧ r.slice.length = 64

/-! ## Ports (R162 to R167, R169) -/

/-- A port is STOPPED in standby and in no other case; a master is LOCKED outside standby, where the stored role is in effect; no two
positions share a slot (R162 to R164). -/
def PortOk (standby : Bool) (x : Port) : Prop :=
  (x.state = .stopped ↔ standby = true) ∧ (standby = false → x.role = .master → x.state = .locked) ∧ x.goodSync ≤ 3 ∧
    x.slotMap.toList.Nodup ∧ (standby = false → x.acting = x.role)

/-- Both ports; at most 3 slices in each elastic buffer, and none, nor a group under way, unless the Position Port is a LOCKED slave,
whose first group finds a slice to send; a port that is not LOCKED sends silence (R164, R166, R167). -/
def PortsOk (r : Ports) : Prop :=
  PortOk r.standby r.network ∧ PortOk r.standby r.position ∧ r.rx.length ≤ 3 ∧ r.tx.length ≤ 3 ∧
    (r.slips.rxOver ≤ 65535 ∧ r.slips.rxUnder ≤ 65535 ∧ r.slips.txOver ≤ 65535 ∧ r.slips.txUnder ≤ 65535) ∧
    (buffering r = false → r.rx = [] ∧ r.tx = [] ∧ r.grouping = false) ∧ (groupsToBegin r = true → r.tx ≠ []) ∧ (r.network.state ≠ .locked → r.ndout = silentBlock) ∧
    (r.position.state ≠ .locked → r.pdout = silentBlock)

/-! ## Standby (R169, R170) -/

/-- In standby every position is VACANT, compaction is idle and no stream is RUNNING (R169, R170). -/
def StandbyOk (s : State) : Prop :=
  s.ports.standby = true → allVacant s = true ∧ s.store.compaction.running = false ∧ noStreamRunning s = true

/-! ## What statements about one command say -/

/-- The link takes a frame the moment it arrives: nothing waits in the inbound queue, the overrun latch is clear and there is
reply space (R175, R177). -/
def Accepts (s : State) : Prop :=
  s.link.inbound = [] ∧ s.link.latch = false ∧ repliesWaiting s.link.outbound < 8

/-- The link takes a frame the moment it arrives, and the part is not in standby (R169, R175, R177). -/
def Awake (s : State) : Prop := Accepts s ∧ s.ports.standby = false

/-- What a report makes of the link (R178 to R180). The first pending report of its kind and source keeps its place, takes the new body
and counts one more, up to 255; where none is pending the report enters at the tail with a count of 1. A read in progress of a message that
is there, in a queue that no device reset has emptied, counts what is coalesced into the head entry, and nothing else. -/
def Raises (b : ReportBody) (l m : Link) : Prop :=
  let same (c : ReportBody) : Prop := reportKind c = reportKind b ∧ reportSource c = reportSource b
  (∀ before c n after, l.outbound = before ++ .report c n :: after → same c → (∀ x ∈ reportsOf before, ¬same x) →
    m.outbound = before ++ .report b (min (n + 1) 255) :: after ∧
      m.reading = l.reading.map fun r =>
        if before = [] ∧ r.present = true ∧ r.emptied = false then { r with coalesced := r.coalesced + 1 } else r) ∧
  ((∀ x ∈ reportsOf l.outbound, ¬same x) → m.outbound = l.outbound ++ [.report b 1] ∧ m.reading = l.reading)

/-- The SRC byte that names a position (R173). -/
def sourceByte (p : PosIx) : Byte := BitVec.ofNat 8 p.val

/-- The byte that names a clip (R108). -/
def clipByte (c : ClipIx) : Byte := BitVec.ofNat 8 c.val

/-- The byte that names a stream (R144). -/
def streamByte (i : StreamIx) : Byte := BitVec.ofNat 8 i.val

/-- The byte that names a player (R125). -/
def playerByte : PlayerId → Byte
  | .net => 0
  | .agent => 1

/-- A state without what follows from the rest or tells of the past: the reference counts (R114), the listener counts (R135),
the outbound queue with the read in progress (R178, R180), and the count of free values. Two states with one bare form agree on
every other field. -/
def bare (s : State) : State :=
  { s with
    link := { s.link with outbound := [], reading := none }
    store := { s.store with clips := s.store.clips.map fun c => { c with refCount := 0 } }
    streams := s.streams.map fun r => { r with listeners := 0 }
    draws := 0 }

/-- A bare state without the AGENT players. -/
def withoutAgents (s : State) : State :=
  { bare s with positions := (bare s).positions.map fun r => { r with agent := idlePlayer } }

/-- The source that an item's bytes name (R125). -/
def Names (i : ItemSpec) : Source → Prop
  | .clip c => i.sourceKind = 0 ∧ i.sourceId = clipByte c
  | .stream k => i.sourceKind = 1 ∧ i.sourceId = streamByte k

/-- A source that is playable (R115, R125): a READY clip with a sample at the start offset, or a stream that is not CLOSED. -/
def Playable (s : State) (i : ItemSpec) : Source → Prop
  | .clip c => (getClip s c).state = .ready ∧ i.startOffset.toNat < (getClip s c).length
  | .stream k => (getStream s k).state ≠ .closed

/-- An item whose level is in range, that names a source, and whose source is playable (R125 checks 3, 5 and 6). -/
def CanPlay (s : State) (i : ItemSpec) (src : Source) : Prop := i.level.toNat ≤ 63 ∧ Names i src ∧ Playable s i src

/-- The item a player holds for an item's bytes (R124). -/
def heldItem (i : ItemSpec) (src : Source) : Item where
  source := src
  startOffset := match src with | .clip _ => i.startOffset.toNat | .stream _ => 0
  loops := i.loops.toNat
  level := i.level.toNat
  tag := i.tag.toNat
  readOffset := match src with | .clip _ => i.startOffset.toNat | .stream _ => 0
  passes := i.loops.toNat

/-- n pages at page p are free and inside the store (R100, R101). -/
def RoomAt (s : State) (p n : Nat) : Prop := p + n ≤ 2048 ∧ ∀ r ∈ regions s, p + n ≤ r.1 ∨ r.1 + r.2 ≤ p

/-- Page p is where first-fit places n pages: the lowest page with room (R101). -/
def FirstRoom (s : State) (p n : Nat) : Prop := RoomAt s p n ∧ ∀ q, q < p → ¬RoomAt s q n

/-- A player after it has given up its items that name a stream (R138). -/
def givenUp (i : StreamIx) (pl : Player) : Player :=
  let kept : Player :=
    ⟨pl.current, pl.stack.filter fun it => !namesStream i it, pl.queue.filter fun it => !namesStream i it⟩
  if pl.current.any (namesStream i) then succession kept else kept

/-- The engine as the cancellation of a position's searches leaves it: as it was, where it held nothing for the position (R96). -/
def cancelledEngine (s : State) (p : PosIx) : Engine :=
  if (heldFields s p).isSome then (startHead (dropSearches p s)).engine else s.engine

/-- Commands one after the other. -/
def execAll : List Instr → State → Host.Outcome State Fault Refusal
  | [], s => .next s
  | i :: rest, s =>
    match exec i s with
    | .next t => execAll rest t
    | .fault f => .fault f
    | .refused r => .refused r

/-! ## The units' part of a slice, said rule by rule (R37 to R48, R54 to R75) -/

/-- What stage 1 makes of a suppressor's record in a slice of level l (R30, R38 to R48), or in one that is not received (R45, R46). -/
def StageOne (t : PosParams) (received : Bool) (l : Nat) (x v : Suppressor) : Prop :=
  let floor : Tracker :=
    if l < x.floor.level then ⟨l, 0⟩
    else if t.floorRise ≤ x.floor.count + 1 then ⟨min (x.floor.level + 1) l, 0⟩
    else ⟨x.floor.level, x.floor.count + 1⟩
  let ratio := l - floor.level
  let want := curveFalling (suppressionCurve t) t.nsAmax ratio 0
  let refreshed := t.boostRefresh ≤ x.refresh + 1
  let target := if refreshed then curveRising (boostCurve t) t.boostMax floor.level t.boostStart else x.target
  if received = false then
    v = { x with vad := false, hangover := 0, applied := if t.nsEnable = 0 then 0 else x.applied }
  else
    v =
      { floor := floor
        vad := decide (t.vadT ≤ ratio ∨ 1 < x.hangover)
        hangover := if t.vadT ≤ ratio then t.vadHang else x.hangover - 1
        applied :=
          if t.nsEnable = 0 then 0
          else if want < x.applied then max want (x.applied - 4)
          else if x.applied < want then x.applied + 1 else x.applied
        target := target
        boost := if x.boost < target then x.boost + 1 else if target < x.boost then x.boost - 1 else x.boost
        refresh := if refreshed then 0 else x.refresh + 1 }

/-- x(n0 + j − lag) in a history whose last 64 samples are those of the slice (R54). -/
def refSample (h : List Int) (j lag : Nat) : Int := h.getD (2048 + j - lag) 0

/-- The sum over the 256 taps. -/
def tapSum (f : Nat → Int) : Int := ((List.range 256).map f).sum

/-- The estimates and the errors of a slice, and `co j`, the coefficients before its sample j (R57, R58). -/
def SampleBySample (mu : Int) (adapting : Bool) (h : List Int) (d : Nat) (y : List Int) (co : Nat → Nat → Int)
    (est err : Nat → Int) : Prop :=
  ∀ j, j < 64 →
    est j = max (-32768) (min ((tapSum (fun k => co j k * refSample h j (d + k)) + 536870912) / 1073741824) 32767) ∧
    err j = max (-32768) (min (y.getD j 0 - est j) 32767) ∧
    ∀ k, k < 256 → co (j + 1) k =
      if adapting then
        max (-2147483648)
          (min (co j k + (mu * err j * refSample h j (d + k) * 4194304).tdiv
            (tapSum (fun i => refSample h j (d + i) * refSample h j (d + i)) + 1048576)) 2147483647)
      else co j k

/-- The research counter and request of a slice that began and stays in TRACKING (R68). -/
def researched (t : PosParams) (c : Canceller) (x : CancellerSlice) : CancellerSlice :=
  if c.state = .tracking then
    { x with
      canceller := { x.canceller with
        research := if t.ecResearch = 0 ∨ t.ecResearch * 250 ≤ c.research + 1 then 0 else c.research + 1 }
      researchRequest := decide (t.ecResearch ≠ 0 ∧ t.ecResearch * 250 ≤ c.research + 1) }
  else x

/-- What stage 4 makes of a canceller whose history holds the slice's transmit samples, and the caller slice (R56, R71): y passed
through outside TRAINING and TRACKING; silence while the Network Port is not locked; else the errors, or comfort noise. -/
def StageFour (t : PosParams) (locked active : Bool) (y : List Int) (c : Canceller) (v : CancellerSlice) : Prop :=
  let noise := noiseRun 64 c.noise
  if cancelling c.state = false then v = ⟨c, y, none, false, false⟩
  else if locked = false then
    v = researched t c ⟨{ c with hangover := c.hangover - 1, noise := noise.2 }, List.replicate 64 0, none, false, false⟩
  else
    let xmax := peakMagnitude ((List.range 319).map fun i => c.history.getD (1793 - c.window + i) 0)
    let talk := decide (0 < xmax ∧ xmax ≤ 2 * peakMagnitude y)
    let hang := if talk = true then t.ecDtHang else c.hangover - 1
    let quiet := decide (active = true ∧ talk = false ∧ hang = 0)
    let adapting := quiet && !c.freeze
    ∃ (co : Nat → Nat → Int) (est err : Nat → Int),
      (∀ k, k < 256 → co 0 k = c.coeffs.getD k 0) ∧
      SampleBySample (if c.state = .training then (t.ecMuTrain : Int) else t.ecMuTrack) adapting c.history c.window y co est err ∧
      (let ly := levelIndex y
       let le := levelIndex ((List.range 64).map err)
       let loud := decide (ly + 8 ≤ levelIndex ((List.range 64).map est))
       let floor := trackerStep t.floorRise le c.floor
       let caller :=
         if quiet = true ∧ t.ecNlpOn ≤ c.erle then noise.1.map (comfortSample floor.level) else (List.range 64).map err
       let erle := stepTowards c.erle (min (ly - le) 60)
       let base : Canceller :=
         { c with hangover := hang, coeffs := (List.range 256).map (co 64), floor := floor, noise := noise.2 }
       let moved : Canceller := { base with erle := erle, divergence := if loud = true then c.divergence + 1 else 0 }
       v =
        if adapting = false then researched t c ⟨base, caller, none, false, false⟩
        else if loud = true ∧ 8 ≤ c.divergence + 1 then
          ⟨{ base with
              state := .training, coeffs := List.replicate 256 0, erle := 0, hangover := 0, convergence := 0, divergence := 0
              loss := 0, research := 0 }, caller, some .diverged, false, false⟩
        else if c.state = .training then
          (if erle < t.ecConv then ⟨{ moved with convergence := 0 }, caller, none, false, false⟩
           else if c.convergence + 1 < 25 then
             ⟨{ moved with convergence := c.convergence + 1 }, caller, none, false, false⟩
           else
             ⟨{ moved with state := .tracking, convergence := 0, divergence := 0, loss := 0, research := 0 }, caller,
               some .converged, false, false⟩)
        else
          researched t c
            ⟨{ moved with loss := if erle < t.ecLoss ∧ c.loss + 1 < 250 then c.loss + 1 else 0 }, caller, none,
              decide (erle < t.ecLoss ∧ 250 ≤ c.loss + 1 ∧ t.ecAutoSearch = 1), false⟩)

/-! ## The players, the tones and the streams of a slice, said rule by rule (R131 to R133, R148 to R151, R158, R159) -/

/-- The successor of the current item is taken: the queue's head, else the stack's top, else none (R133). -/
def Succeeds (pl next : Player) : Prop :=
  (∀ it rest, pl.queue = it :: rest → next = ⟨some it, pl.stack, rest⟩) ∧
    (∀ it rest, pl.queue = [] → pl.stack = it :: rest → next = ⟨some it, rest, []⟩) ∧
    (pl.queue = [] → pl.stack = [] → next = ⟨none, [], []⟩)

/-- The decoded sample of a clip at an offset, by its format (R104, R105, R131). -/
def decodedSample (s : State) (c : Clip) (offset : Nat) : Int :=
  match c.format with
  | .lin16 => readSample16 s.store.mem (c.firstPage * 256 + 2 * offset)
  | .pack12 => readPack12 s.store.mem (c.firstPage * 256) offset * 16
  | .log8 => s.store.expansion.getD (readByte s.store.mem (c.firstPage * 256 + offset)).toNat 0

/-- Sample k of a stream's fixed slice as its listeners read it (R148). -/
def heardSample (s : State) (i : StreamIx) (k : Nat) : Int :=
  match (getStream s i).slice.getD k .silence with
  | .silence => 0
  | .sample v => v
  | .code b => s.store.expansion.getD b 0

/-- Sample k of a player's slice, with the player before and after it (R131, R133). -/
def PlaysSample (s : State) (gain : Item → Int) (k : Nat) (pl next : Player) (x : Int) : Prop :=
  match pl.current with
  | none => x = 0 ∧ next = pl
  | some it =>
    let at_ (offset passes : Nat) : Player := { pl with current := some { it with readOffset := offset, passes := passes } }
    match it.source with
    | .stream i => x = scale (heardSample s i k) (gain it) ∧ next = pl
    | .clip c =>
      x = scale (decodedSample s (getClip s c) it.readOffset) (gain it) ∧
        if it.readOffset + 1 < (getClip s c).length then next = at_ (it.readOffset + 1) it.passes
        else if it.passes = 0 then next = at_ 0 0
        else if 1 < it.passes then next = at_ 0 (it.passes - 1)
        else Succeeds pl next

/-- The samples x of a player's slice, and the player before each sample and after the last (R131). -/
def PlayerInSlice (s : State) (gain : Item → Int) (player : Nat → Player) (x : Nat → Int) : Prop :=
  ∀ k, k < 64 → PlaysSample s gain k (player k) (player (k + 1)) (x k)

/-- A player's current item is a clip item in its last pass, at the last sample: it completes with that sample (R131, R133). -/
def CompletesNext (s : State) (pl : Player) (it : Item) : Prop :=
  pl.current = some it ∧ it.passes = 1 ∧ ∃ c, it.source = .clip c ∧ (getClip s c).length ≤ it.readOffset + 1

/-- The samples x of a tone unit's slice, the unit after it, and whether the unit stopped with its last burst (R158, R159). -/
def ToneInSlice (before after : Tone) (ended : Bool) (x : Nat → Int) : Prop :=
  let on := before.running = true ∧ before.cycle < before.onTime
  let n := min (before.burstCount + 1) 255
  let last := 0 < before.bursts ∧ n = before.bursts
  ∃ phase : Nat → Nat,
    phase 0 = before.phase ∧
    (∀ k, k < 64 →
      (on → x k = scale (sineEntry (phase k / 256)) (-(before.level : Int)) ∧
        phase (k + 1) = (phase k + before.increment) % 65536) ∧
      (¬on → x k = 0 ∧ phase (k + 1) = phase k)) ∧
    (before.running = false → after = before ∧ ended = false) ∧
    (before.running = true →
      (before.cycle + 1 = before.onTime →
        after = { before with running := decide ¬last, phase := phase 64, cycle := before.cycle + 1, burstCount := n } ∧
          ended = decide last) ∧
      (before.cycle + 1 ≠ before.onTime → before.cycle + 1 = before.period →
        after = { before with phase := 0, cycle := 0 } ∧ ended = false) ∧
      (before.cycle + 1 ≠ before.onTime → before.cycle + 1 ≠ before.period →
        after = { before with phase := phase 64, cycle := before.cycle + 1 } ∧ ended = false))

/-- A stream whose read position leaves its half: the half is EMPTY, and the other is next, at offset 0 (R149, R150). -/
def leftHalf (r : Stream) : Stream :=
  { withHalf r r.readHalf ⟨.empty, 0, 0⟩ with readHalf := otherHalf r.readHalf, readOffset := 0 }

/-- An entry attempt on the half of the read position, and the events it records (R149). -/
inductive EntryAttempt : Stream → List (StreamEvent × Fin 2) → Stream → Prop
  /-- FULL with a valid length above 0: PLAYING from offset 0; RESUMED where the underrun flag was set. -/
  | enters (r : Stream) : (halfOf r r.readHalf).state = .full → 0 < (halfOf r r.readHalf).valid →
      EntryAttempt r (if r.underrun then [(.resumed, r.readHalf)] else [])
        { withHalf r r.readHalf { halfOf r r.readHalf with state := .playing } with readOffset := 0, underrun := false }
  /-- FULL with a valid length of 0: passed through, and an attempt on the other half follows. -/
  | passes (r t : Stream) (more : List (StreamEvent × Fin 2)) : (halfOf r r.readHalf).state = .full →
      (halfOf r r.readHalf).valid = 0 → EntryAttempt (leftHalf r) more t →
      EntryAttempt r ((.halfEmpty, r.readHalf) :: more) t
  /-- EMPTY or FILLING: in underrun at offset 0; UNDERRUN where the flag was clear. -/
  | waits (r : Stream) : (halfOf r r.readHalf).state = .empty ∨ (halfOf r r.readHalf).state = .filling →
      EntryAttempt r (if r.underrun then [] else [(.underrun, r.readHalf)]) { r with readOffset := 0, underrun := true }

/-- The value of a stream at its read position (R142, R148). -/
def valueAt (m : List Host.Cell) (r : Stream) : StreamValue :=
  if r.format = .log8 then .code (readByte m (halfBase r r.readHalf + r.readOffset)).toNat
  else .sample (readSample16 m (halfBase r r.readHalf + 2 * r.readOffset))

/-- The fixing of a stream for a period: the record and the events it leaves, with the record before each of the 64 values and after the
last, and the events recorded before each value and after the last (R148 to R151). -/
def StreamFixing (m : List Host.Cell) (before after : Stream) (events : List (StreamEvent × Fin 2)) : Prop :=
  (before.state ≠ .running → after = { before with slice := List.replicate 64 .silence, sounding := false } ∧ events = []) ∧
    (before.state = .running →
      ∃ (record : Nat → Stream) (recorded : Nat → List (StreamEvent × Fin 2)),
        ((halfOf before before.readHalf).state = .playing → record 0 = before ∧ recorded 0 = []) ∧
        ((halfOf before before.readHalf).state ≠ .playing → EntryAttempt before (recorded 0) (record 0)) ∧
        (∀ k, k < 64 →
          let r := record k
          let x := halfOf r r.readHalf
          (x.state ≠ .playing → after.slice.getD k .silence = .silence ∧ record (k + 1) = r ∧ recorded (k + 1) = []) ∧
          (x.state = .playing →
            after.slice.getD k .silence = valueAt m r ∧
            (r.readOffset + 1 < x.valid →
              record (k + 1) = { r with readOffset := r.readOffset + 1 } ∧ recorded (k + 1) = []) ∧
            (x.valid ≤ r.readOffset + 1 →
              ∃ more, EntryAttempt (leftHalf r) more (record (k + 1)) ∧
                recorded (k + 1) = (.halfEmpty, r.readHalf) :: more))) ∧
        after.slice.length = 64 ∧
        after = { record 64 with slice := after.slice, sounding := !(record 64).underrun } ∧
        events = (List.range 65).flatMap recorded)

/-! ## Reports in the queue -/

/-- The report of a player's leaving items is in the queue: the last item to leave, a repeat count that covers all that left (R139,
R179), and the player that is left. -/
def ItemLeft (u : State) (p : PosIx) (w : PlayerId) (ev : ItemEvent) (reason : LeaveReason) (it : Item) (offset count : Nat)
    (left : Player) : Prop :=
  ∃ n, min count 255 ≤ n ∧
    Message.report (.player p w
      ⟨ev, reason, it.source, it.tag, match it.source with | .clip _ => some offset | .stream _ => none, left.current.isSome,
        left.current.map Item.tag, left.stack.length, left.queue.length⟩) n ∈ u.link.outbound

/-- The report of the last item that completed in a player's slice (R134, R139). -/
def CompletedReport (s u : State) (p : PosIx) (w : PlayerId) (player : Nat → Player) : Prop :=
  ∀ k it, k < 64 → CompletesNext s (player k) it → (∀ j jt, k < j → j < 64 → ¬CompletesNext s (player j) jt) →
    ItemLeft u p w .itemEnd .completed it 0 1 (player (k + 1))

/-- The reports of a player that was cleared: the queued and stacked items are dropped and the current item ends, last, with reason CLEARED
(R137, R139). -/
def ClearedReport (u : State) (p : PosIx) (w : PlayerId) (pl : Player) : Prop :=
  ∀ old, pl.current = some old →
    ItemLeft u p w .itemEnd .cleared old old.readOffset (1 + pl.stack.length + pl.queue.length) ⟨none, [], []⟩

/-- The reports of mode ONLY on a player: the lists are flushed, and the current item is replaced, last (R130, R139; log entry 36). -/
def ReplacedReport (u : State) (p : PosIx) (w : PlayerId) (pl : Player) (new : Item) : Prop :=
  ∀ old, pl.current = some old →
    ItemLeft u p w .itemEnd .replaced old old.readOffset (1 + pl.stack.length + pl.queue.length) ⟨some new, [], []⟩

/-- The report of a tone that a teardown stopped (R161). -/
def ToneClearedReport (u : State) (p : PosIx) (t : Tone) : Prop :=
  t.running = true → ∃ n, Message.report (.tone p .cleared t.route t.burstCount t.bursts) n ∈ u.link.outbound

/-- The report of a whisper done at a position with a record (R7, R14). -/
def WhisperReport (u : State) (p : PosIx) (r : Position) : Prop :=
  ∃ n, Message.report (.call p .connected r.mute r.announceTag) n ∈ u.link.outbound

/-- The code with which an item that is not playable refuses (R115, R125 checks 3, 5 and 6). -/
def RefusedWith (s : State) (i : ItemSpec) (r : Result) : Prop :=
  (r = .badValue ∧
    (63 < i.level.toNat ∨ 1 < i.sourceKind.toNat ∨ (i.sourceKind = 0 ∧ 64 ≤ i.sourceId.toNat) ∨
      (i.sourceKind = 1 ∧ 4 ≤ i.sourceId.toNat))) ∨
  (i.level.toNat ≤ 63 ∧
    ((∃ k, Names i (.stream k) ∧ (getStream s k).state = .closed ∧ r = .notReady) ∨
      ∃ c, Names i (.clip c) ∧
        let e := getClip s c
        (((e.state = .free ∨ e.state = .uploading) ∧ r = .notReady) ∨ (e.state = .moving ∧ r = .storeBusy) ∨
          (e.state = .damaged ∧ r = .damaged) ∨ (e.state = .ready ∧ e.length = 0 ∧ r = .empty) ∨
          (e.state = .ready ∧ 0 < e.length ∧ e.length ≤ i.startOffset.toNat ∧ r = .badValue))))

/-- Bytes written from an address on, read back one by one: those bytes there, the rest as before. -/
def BytesWritten (before after : List Host.Cell) (a : Nat) (bs : List Byte) : Prop :=
  ∀ x, readByte after x = if a ≤ x ∧ x < a + bs.length ∧ x < storeBytes then bs.getD (x - a) 0 else readByte before x

end Sys2Proof.Machine
end

