-- ==== Sys2Proof/Certificates/Slice0/Obligations.lean ====
section
/-! DEFINITION. The statements for the provers, from the numbered rules of spec/. In every statement about one command, `sendReply`
joins the reply to the outbound queue (R177, R178), and the state under it is what the command left. -/

open Sys2Proof Sys2Proof.Machine

/-! ## The queue of commands, power-on, and what holds at reset -/

/-- A step takes the command at the front of the queue and is `exec` of it on the queue's rest; an empty queue idles (log entry
2). -/
def Obligations.StepTakesTheFrontCommand : Prop :=
  (∀ (s : State) (c : Instr) (rest : List Instr), s.pending = c :: rest → step s = exec c { s with pending := rest }) ∧
    ∀ s : State, s.pending = [] → step s = .next s

/-- No command stops the part: each answers a next state, and leaves the queue of waiting commands to the step. -/
def Obligations.EveryCommandCompletes : Prop :=
  ∀ (i : Instr) (s : State), ∃ t, exec i s = .next t ∧ t.pending = s.pending

/-- The state after power-on, field by field (R21, R36, R83, R99, R102, R106, R122, R142, R156, R171, R183): every record of every unit,
with the expansion table by R106's formula; the Network Port takes its clocks as inputs, the Position Port drives its own (R164). The
fields that are the model's own, the read and the slice period, neither in progress, are log entry 30. -/
def Obligations.PowerOnValues : Prop :=
  let s := State.reset
  s.link = ⟨[], false, 0, 0, [.report (.link .powerOn false 0 0 0) 1], none, []⟩ ∧
  (∀ p, getPos s p =
    { call := .vacant, mute := false, announceTag := 0, params := defaultPosParams
      suppressor := ⟨⟨120, 0⟩, false, 0, 0, 0, 0, 0⟩
      canceller :=
        { mode := .on, state := .standby, history := List.replicate 2112 0, window := 0, coeffs := List.replicate 256 0, erle := 0
          hangover := 0, freeze := false, convergence := 0, divergence := 0, loss := 0, research := 0, floor := ⟨120, 0⟩
          noise := BitVec.ofNat 16 (p.val + 1) }
      net := ⟨none, [], []⟩, agent := ⟨none, [], []⟩, tone := ⟨false, .ear, 410, 0, 2, 1, 1, 0, 0, 0⟩, lastSearch := none
      sliceDue := false }) ∧
  s.engine = ⟨none, none, [], List.replicate 2048 0⟩ ∧
  (∀ c, getClip s c = ⟨.free, .lin16, 0, 0, 0, 0, none, 0, none⟩) ∧ s.store.compaction = ⟨false, none, none, 0, 0, 0⟩ ∧
  s.store.expansion.length = 256 ∧
  (∀ b, b < 256 →
    let magnitude : Int := (b % 16 + 16 : Nat) * (2 : Int) ^ (b / 16 % 8 + 3) - 128
    s.store.expansion.getD b 0 = if b < 128 then magnitude else -magnitude) ∧
  (∀ i, getStream s i =
    { state := .closed, format := .lin16, halfSize := 0, firstPage := 0, pageCount := 0, half0 := ⟨.empty, 0, 0⟩
      half1 := ⟨.empty, 0, 0⟩, readHalf := 0, readOffset := 0, underrun := false, listeners := 0
      slice := List.replicate 64 .silence, sounding := false }) ∧
  (s.ports.network.role = .slave ∧ s.ports.network.state = .syncing ∧ s.ports.network.goodSync = 0 ∧
    s.ports.position.role = .master ∧ s.ports.position.state = .locked ∧ s.ports.position.goodSync = 0 ∧
    s.ports.network.acting = .slave ∧ s.ports.position.acting = .master ∧ clockPins s.ports .network = .inputs ∧
    clockPins s.ports .position = .driven .internal ∧
    s.ports.standby = false ∧ s.ports.rx = [] ∧ s.ports.tx = [] ∧ s.ports.grouping = false ∧ s.ports.slips = ⟨0, 0, 0, 0⟩ ∧
    s.ports.ndout = silentBlock ∧ s.ports.pdout = silentBlock ∧
    ∀ p : PosIx, s.ports.network.slotMap[p] = p ∧ s.ports.position.slotMap[p] = p) ∧
  s.period.active = false ∧ s.device = ⟨6, 2500⟩

/-- Power-on and the release of the RESET pin leave the power-on values, whatever went before (R172, R183, Table 10-4). The store's
bytes and the count of free values stay as they are: R122 says that the pages are not cleared; log entry 21. The attention line is
asserted, since the queue holds the POWER_ON report (R178). -/
def Obligations.PowerOnRestoresEverything : Prop :=
  ∀ s : State,
    exec .powerOn s = .next { State.reset with
      pending := s.pending, store := { State.reset.store with mem := s.store.mem }, draws := s.draws } ∧
    exec .resetPin s = exec .powerOn s ∧
    (∀ t, exec .powerOn s = .next t ∨ exec .resetPin s = .next t → attention t = true)

/-- Every invariant stated below holds after power-on. -/
def Obligations.ResetMeetsTheInvariants : Prop :=
  let s := State.reset
  Memory.wf s.store.mem ∧ LinkOk s.link ∧
    (∀ p, PlayersOk (getPos s p) ∧ ToneOk (getPos s p) ∧ CancellerOk (getPos s p) ∧ SuppressorOk (getPos s p).suppressor ∧
      ParamsOk (getPos s p).params) ∧
    DeviceOk s.device ∧ EngineOk s ∧ CountsOk s ∧ ListenersOk s ∧ (∀ c, ClipOk (getClip s c)) ∧ SpaceOk s ∧ MoveOk s ∧
    (∀ i, StreamOk (getStream s i)) ∧ PortsOk s.ports ∧ StandbyOk s

/-! ## Invariants that every step keeps -/

/-- The store's bytes keep their canonical form, and no byte lies outside the 2048 pages (R100; log entry 9). -/
def Obligations.StepKeepsMemoryCanonical : Prop :=
  ∀ s t : State, Memory.wf s.store.mem → step s = .next t → Memory.wf t.store.mem

/-- The queues of the link: at most 8 frames wait, and only behind 8 replies, since a command is taken in the step that makes it
possible (log entry 1); never more than 8 replies, and never two reports with one kind and source, each with a repeat count of 1..255
(R175, R177 to R179); the discards and the frame errors stop at 65,535 (R174, R175). -/
def Obligations.StepKeepsTheLinkQueues : Prop :=
  ∀ s t : State, LinkOk s.link → step s = .next t → LinkOk t.link

/-- The players: an IDLE player holds nothing, the stack and the queue keep their bounds, the NET player is IDLE without a call,
both are IDLE in VACANT (R123, R125, R10, R11). -/
def Obligations.StepKeepsThePlayers : Prop :=
  ∀ s t : State, (∀ p, PlayersOk (getPos s p)) → step s = .next t → ∀ p, PlayersOk (getPos t p)

/-- The tone units: the increment, the level, the period, the bursts, the phase and the burst counter stay within their ranges, the on-time
and the cycle counter within the cadence, no tone runs in VACANT, none with route NET or BOTH without a call (R156 to R160). -/
def Obligations.StepKeepsTheTones : Prop :=
  ∀ s t : State, (∀ p, ToneOk (getPos s p)) → step s = .next t → ∀ p, ToneOk (getPos t p)

/-- The cancellers, with the parameters in range: the state fits the mode and the call (R63), the window start is a multiple of 16
within 0..1792 and the coefficients are zero in OFF and STANDBY (R55); the 2112 samples of the history, the 256 coefficients, ERLE_s,
the double-talk hangover, the four counters and the caller-path floor with its rise counter keep their ranges (R54, R55, R60, R62, R65
to R68, R73), and the noise register is never 0 (R74). -/
def Obligations.StepKeepsTheCancellers : Prop :=
  ∀ s t : State, (∀ p, ParamsOk (getPos s p).params) → (∀ p, CancellerOk (getPos s p)) → step s = .next t →
    ∀ p, CancellerOk (getPos t p)

/-- Every parameter stays in its range, and the knees of every curve in order (R34, R98, R181). -/
def Obligations.StepKeepsTheParameters : Prop :=
  ∀ s t : State, (∀ p, ParamsOk (getPos s p).params) → DeviceOk s.device → step s = .next t →
    (∀ p, ParamsOk (getPos t p).params) ∧ DeviceOk t.device

/-- With the parameters in range, the Floor Suppressor's record keeps the ranges of Table 3-1: F_m within 0..120 and its rise counter
within 0..249, the hangover, the applied suppression, the boost target, the applied boost and the refresh counter (R30, R36, R39, R42,
R47, R48). -/
def Obligations.StepKeepsTheSuppressors : Prop :=
  ∀ s t : State, (∀ p, ParamsOk (getPos s p).params) → (∀ p, SuppressorOk (getPos s p).suppressor) → step s = .next t →
    ∀ p, SuppressorOk (getPos t p).suppressor

/-- The engine: an IDLE engine holds nothing, no position waits twice or while it is in flight, every position it holds has a
call and a canceller in TRAINING or TRACKING (R84, R85); the record in flight has a span within 0..2047, fewer eligible slices than its
kind needs, since the slice that brings the last one ends the search, and fewer than 12,500 elapsed slices, SEARCH_TIMEOUT being in range
(R84, R92, R98); its 2048 accumulators stay within 48 bits (R90, R91). -/
def Obligations.StepKeepsTheEngine : Prop :=
  ∀ s t : State, DeviceOk s.device → (∀ p, CancellerOk (getPos s p)) → EngineOk s → step s = .next t → EngineOk t

/-- Each clip's reference count stays the number of items that name it, and 0 unless the clip is READY (R114), where a move in
progress is that of a MOVING clip (`StepKeepsTheStore`; R117, R118). -/
def Obligations.StepKeepsTheReferenceCounts : Prop :=
  ∀ s t : State, MoveOk s → CountsOk s → step s = .next t → CountsOk t

/-- Each stream's listener count stays the number of players whose current item names it, and no item names a CLOSED stream
(R135, R152). -/
def Obligations.StepKeepsTheListenerCounts : Prop :=
  ∀ s t : State, ListenersOk s → step s = .next t → ListenersOk t

/-- The store's allocations never overlap and lie within the 2048 pages; every clip entry keeps Table 6-1, its pending sample of 12 bits
among it; a clip is MOVING exactly while its move is in progress (R100, R102, R105, R116 to R118, R121). -/
def Obligations.StepKeepsTheStore : Prop :=
  ∀ s t : State, (∀ c, ClipOk (getClip s c)) → SpaceOk s → MoveOk s → step s = .next t →
    (∀ c, ClipOk (getClip t c)) ∧ SpaceOk t ∧ MoveOk t

/-- Every stream record keeps Table 8-1: the CLOSED values when CLOSED (the slice fixed before stands for its period, R148), otherwise a
half size of 256..16,384 with its ring (R142); at most the half at the read position is PLAYING, and no half holds or plays more samples
than its size (R143); the read offset is below the valid length of a PLAYING half and 0 elsewhere, a stream in underrun plays no half, and
a fixed slice has 64 values (R148 to R151). The listener count has a statement of its own. -/
def Obligations.StepKeepsTheStreams : Prop :=
  ∀ s t : State, (∀ i, StreamOk (getStream s i)) → step s = .next t → ∀ i, StreamOk (getStream t i)

/-- The ports and standby: a port is STOPPED exactly in standby, outside it a master is LOCKED and the stored role is in effect, the
elastic buffers hold at most 3 slices and none unless the Position Port is a LOCKED slave, the slip counters stop at 65,535, a port that
is not LOCKED sends silence; in standby every position is VACANT, compaction is idle and no stream is RUNNING (R162 to R170). -/
def Obligations.StepKeepsThePortsAndStandby : Prop :=
  ∀ s t : State, PortsOk s.ports → StandbyOk s → step s = .next t → PortsOk t.ports ∧ StandbyOk t

/-! ## The Control Link -/

/-- The arrival of a frame that is not LINK-CLEAR (R175): with the latch set or 8 frames waiting it is discarded, the latch is set, the
discards are counted, and OVERRUN is reported, coalesced in its place or at the tail (R179, R180); behind 8 replies it joins the tail;
where the link takes frames at once it is taken at once (log entry 1). In a write transaction, 0x5A, the LEN byte and its LEN bytes are
that frame, whatever bytes follow it (R172 to R174; log entry 17). -/
def Obligations.FrameArrivalJoinsOrOverruns : Prop :=
  ∀ (f : Frame) (s : State), f.kind ≠ 0x04 → f.body.length ≤ 248 →
    ((s.link.inbound = [] ∨ 8 ≤ repliesWaiting s.link.outbound) → (s.link.latch = true ∨ 8 ≤ s.link.inbound.length) →
      let discards := if s.link.latch then min (s.link.discards + 1) 65535 else 1
      let report : ReportBody := .link .overrun true s.link.inbound.length discards s.link.frameErrors
      exec (.frameArrival f) s = .next (raise report (putLink s { s.link with latch := true, discards := discards })) ∧
        ∀ t, exec (.frameArrival f) s = .next t → Raises report s.link t.link ∧ attention t = true) ∧
    (s.link.latch = false → s.link.inbound.length < 8 → 8 ≤ repliesWaiting s.link.outbound →
      exec (.frameArrival f) s = .next (putLink s { s.link with inbound := s.link.inbound ++ [f] })) ∧
    (Accepts s → exec (.frameArrival f) s = .next (takeCommand f s)) ∧
    ∀ more : List Byte,
      rowsOfTransaction (0x5A :: BitVec.ofNat 8 (3 + f.body.length) :: f.kind :: f.src :: f.tag :: (f.body ++ more)) =
        [.frameArrival f]

/-- A frame error (R174): LEN below 3, LEN above 251, or fewer than LEN bytes; the count rises, stopping at 65,535, and FRAME_ERROR
is reported, whatever that makes of the queue by Raises: the pending LINK report keeps its place, takes the new body and counts one more,
or one enters at the tail with a count of 1; a read in progress of the head entry counts what is coalesced into it; the attention line is
asserted (R178 to R180). Every other report is raised so too. The latch and the discards stay. An event that is no frame error changes
nothing (log entry 22). A write transaction whose
LEN byte and following bytes are such is that event; one without a LEN byte, and a transaction whose type byte is neither 0x5A nor
0xC3, is none and changes nothing (R172; log entry 17). -/
def Obligations.FrameErrorIsCounted : Prop :=
  ∀ (len : Byte) (followed : Nat) (s : State),
    ((len.toNat < 3 ∨ 251 < len.toNat ∨ followed < len.toNat) →
      let errors := min (s.link.frameErrors + 1) 65535
      let report : ReportBody := .link .frameError s.link.latch s.link.inbound.length s.link.discards errors
      exec (.frameError len followed) s = .next (raise report (putLink s { s.link with frameErrors := errors })) ∧
        ∀ t, exec (.frameError len followed) s = .next t → Raises report s.link t.link ∧ attention t = true) ∧
    (3 ≤ len.toNat → len.toNat ≤ 251 → len.toNat ≤ followed → exec (.frameError len followed) s = .next s) ∧
    (∀ rest : List Byte, len.toNat < 3 ∨ 251 < len.toNat ∨ rest.length < len.toNat →
      rowsOfTransaction (0x5A :: len :: rest) = [.frameError len rest.length]) ∧
    rowsOfTransaction [] = [] ∧ rowsOfTransaction [0x5A] = [] ∧
    (∀ (first : Byte) (rest : List Byte), first ≠ 0x5A → first ≠ 0xC3 → rowsOfTransaction (first :: rest) = []) ∧
    ∀ b, Raises b s.link (raise b s).link ∧ attention (raise b s) = true

/-- LINK-CLEAR (R176): whatever its SRC, TAG and body, in any state, the latch is cleared and CLEARED is reported with the discards
kept; no reply. The outbound queue, field by field: the first pending LINK report keeps its place, takes the CLEARED body and counts one
more, up to 255; where none is pending the report enters at the tail with a count of 1. A read in progress of a present, not emptied entry
counts a coalesce into the head, and no other. -/
def Obligations.LinkClearClearsTheLatch : Prop :=
  ∀ (src tag : Byte) (body : List Byte) (s : State), body.length ≤ 248 →
    let report : ReportBody := .link .cleared false s.link.inbound.length s.link.discards s.link.frameErrors
    exec (.linkClear src tag body) s = .next (raise report (putLink s { s.link with latch := false })) ∧
      ∀ t, exec (.linkClear src tag body) s = .next t →
        t = { s with link := { s.link with latch := false, outbound := t.link.outbound, reading := t.link.reading } } ∧
        attention t = true ∧
        (∀ before ev latch depth discards errors n after,
          s.link.outbound = before ++ .report (.link ev latch depth discards errors) n :: after →
          (∀ x ∈ reportsOf before, reportKind x ≠ 0x68) →
          t.link.outbound = before ++ .report report (min (n + 1) 255) :: after ∧
            (before ≠ [] → t.link.reading = s.link.reading) ∧ (s.link.reading = none → t.link.reading = none) ∧
            ∀ r, s.link.reading = some r →
              (before = [] → r.present = true → r.emptied = false →
                t.link.reading = some { r with coalesced := r.coalesced + 1 }) ∧
              (r.present = false ∨ r.emptied = true → t.link.reading = some r)) ∧
        ((∀ x ∈ reportsOf s.link.outbound, reportKind x ≠ 0x68) →
          t.link.outbound = s.link.outbound ++ [.report report 1] ∧ t.link.reading = s.link.reading)

/-- A read (R180), as the two events of log entry 17, the complete type byte and SEL high: it begins with the head message as it
stands, or the single byte 0; a partial read, one that began on an empty queue, and one during which a device reset emptied the queue
remove nothing; a complete read removes the head unless it was coalesced since, and then leaves it with the repeat count of what was
coalesced. A transaction of type 0xC3 is these two events; SDO carries 0x00 in its type byte, then the bytes kept in `sdo`, and 0x00
throughout a write (R172). The attention line is asserted while a message waits; the read that removes the last one deasserts it, and
nothing else a read does changes it (R178). A reply read with frames waiting is the next statement. -/
def Obligations.ReadShiftsOutTheHead : Prop :=
  ∀ s : State,
    (attention s = true ↔ s.link.outbound ≠ []) ∧ (∀ t, exec (.read .start) s = .next t → attention t = attention s) ∧
    exec (.read .start) s =
      .next (putLink s { s.link with
        reading := some (match s.link.outbound with
          | [] => ⟨[0], false, 0, false⟩
          | m :: _ => ⟨messageBytes m, true, 0, false⟩) }) ∧
    (∀ rest : List Byte,
      rowsOfTransaction (0xC3 :: rest) = [.read .start, .read (.selHigh rest.length)] ∧
      sdoBytes s (0x5A :: rest) = List.replicate (rest.length + 1) 0 ∧
      ∃ u t, exec (.read .start) s = .next u ∧ exec (.read (.selHigh rest.length)) u = .next t ∧
        sdoBytes s (0xC3 :: rest) = 0 :: t.link.sdo) ∧
    ∀ (r : Reading) (n : Nat), s.link.reading = some r →
      ((r.present = false ∨ r.emptied = true ∨ n < r.bytes.length) →
        exec (.read (.selHigh n)) s =
          .next (putLink s { s.link with reading := none, sdo := (r.bytes ++ List.replicate n 0).take n }) ∧
        ∀ t, exec (.read (.selHigh n)) s = .next t → attention t = attention s) ∧
      (r.present = true → r.emptied = false → r.bytes.length ≤ n →
        (∀ b k rest, s.link.outbound = .report b k :: rest →
          (s.link.inbound = [] ∨ 8 ≤ repliesWaiting s.link.outbound) →
          exec (.read (.selHigh n)) s =
            .next (putLink s { s.link with
              reading := none
              sdo := (r.bytes ++ List.replicate n 0).take n
              outbound := if r.coalesced = 0 then rest else .report b (min r.coalesced 255) :: rest }) ∧
          ∀ t, exec (.read (.selHigh n)) s = .next t → (attention t = false ↔ r.coalesced = 0 ∧ rest = [])) ∧
        (∀ q rest, s.link.outbound = .reply q :: rest → r.coalesced = 0 → s.link.inbound = [] →
          exec (.read (.selHigh n)) s =
            .next (putLink s { s.link with
              reading := none, sdo := (r.bytes ++ List.replicate n 0).take n, outbound := rest }) ∧
          ∀ t, exec (.read (.selHigh n)) s = .next t → (attention t = false ↔ rest = [])))

/-- The first read that removes one of 8 replies lets the head command of the inbound queue be taken, and no other (R177, R180): it is
taken in the very step that ends the read (log entry 1), and the read is the two events of log entry 17. -/
def Obligations.ReplyReadTakesTheNextCommand : Prop :=
  ∀ (s : State) (r : Reading) (n : Nat) (q : Reply) (f : Frame) (out : List Message) (rest : List Frame),
    s.link.reading = some r → r.present = true → r.emptied = false → r.coalesced = 0 → r.bytes.length ≤ n →
    s.link.outbound = .reply q :: out → repliesWaiting out = 7 → s.link.inbound = f :: rest →
      exec (.read (.selHigh n)) s =
        .next (takeCommand f (putLink s { s.link with
          inbound := rest, reading := none, sdo := (r.bytes ++ List.replicate n 0).take n, outbound := out }))

/-- The link's own checks (R177): an unknown KIND is answered BAD_KIND, a body of the wrong size BAD_LENGTH, and nothing else
changes; the row BAD_KIND and the row FRAME_ARRIVAL agree. -/
def Obligations.TheLinkChecksKindAndSize : Prop :=
  ∀ (f : Frame) (s : State), Accepts s → f.kind ≠ 0x04 → f.body.length ≤ 248 →
    (commandOfKind f.kind.toNat = none →
      exec (.badKind f) s = .next (sendReply ⟨f.kind ||| 0x80, f.src, f.tag, .badKind, []⟩ s)) ∧
    (∀ c, commandOfKind f.kind.toNat = some c → bodyFits c f.body = false →
      exec (.frameArrival f) s = .next (sendReply ⟨f.kind ||| 0x80, f.src, f.tag, .badLength, []⟩ s)) ∧
    exec (.badKind f) s = exec (.frameArrival f) s

/-- A command that is not taken with OK, STARTED or CLAMPED changes nothing (R3, R76, R108, R144, R163, R169, R181, R182): the
state is as before, but for a free value that the space figures of a NO_SPACE reply may use (log entry 7). -/
def Obligations.RefusedCommandsChangeNothing : Prop :=
  ∀ (f : Frame) (s : State),
    (respond f s).2.1 = .ok ∨ (respond f s).2.1 = .started ∨ (respond f s).2.1 = .clamped ∨ (respond f s).1 = s ∨
      ((respond f s).2.1 = .noSpace ∧ (respond f s).1 = spendDraw s)

/-- The checks of SRC and of standby (R3, R76, R87, R108, R125, R136, R140, R144, R157, R161, R163, R168 to R170): a position command
with a SRC that is no position is answered BAD_SOURCE, in standby ASLEEP; a device command with a SRC other than 0xFF is answered
BAD_SOURCE. Nothing else changes. -/
def Obligations.CommandsCheckTheirSource : Prop :=
  ∀ (f : Frame) (s : State) (c : Command), Accepts s → f.body.length ≤ 248 → commandOfKind f.kind.toNat = some c →
    bodyFits c f.body = true →
    (c ∈ [Command.posOpen, .posClose, .callOffer, .callConnect, .callHold, .callClear, .mute, .posStatus, .ecMode, .ecFreeze,
        .search, .windowSet, .ecStatus, .play, .stop, .playerStatus, .toneStart, .toneStop] →
      (16 ≤ f.src.toNat →
        exec (.frameArrival f) s = .next (sendReply ⟨f.kind ||| 0x80, f.src, f.tag, .badSource, []⟩ s)) ∧
      (f.src.toNat < 16 → s.ports.standby = true →
        exec (.frameArrival f) s = .next (sendReply ⟨f.kind ||| 0x80, f.src, f.tag, .asleep, []⟩ s))) ∧
    (c ∈ [Command.sleep, .wake, .portSet, .portStatus, .clipAlloc, .clipWrite, .clipEnd, .clipFree, .clipInfo, .storeCompact,
        .expandLoad, .streamOpen, .streamFill, .streamStart, .streamStop, .streamClose, .streamStatus] →
      f.src ≠ 0xFF →
        exec (.frameArrival f) s = .next (sendReply ⟨f.kind ||| 0x80, f.src, f.tag, .badSource, []⟩ s))

/-! ## Resets, standby, ports and parameters -/

/-- A RESET of scope DEVICE (R182, R121, R122): the queues and counts of the link are emptied, every unit takes its reset values, the
port roles and slot maps and the store's bytes are kept; with the erase flag the clips are FREE and the expansion table is the
default one, without it the clips are kept with reference counts 0, and the clip of an abandoned move is DAMAGED at its destination
where the regions overlap and back in its source otherwise. The reply is the only message, and the attention line is asserted (R178). The
slice period runs on, with no words of it and no position's slice in it (log entry 23). Refused with BAD_VALUE, for a scope or an erase
flag above 1, BAD_SOURCE or ASLEEP, it changes nothing. -/
def Obligations.DeviceResetRestoresTheUnits : Prop :=
  (∀ (s : State) (tag : Byte) (erase : Bool), Awake s →
    ∃ t, exec (.resetDevice 0xFF tag (if erase then 1 else 0)) s = .next t ∧
      t.link = { inbound := [], latch := false, discards := 0, frameErrors := 0,
                 outbound := [.reply ⟨0x81, 0xFF, tag, .ok, []⟩],
                 reading := s.link.reading.map fun r => { r with emptied := true }, sdo := s.link.sdo } ∧
      attention t = true ∧ t.period = { noPeriod with active := s.period.active } ∧
      (∀ p, getPos t p = getPos State.reset p) ∧ t.engine = State.reset.engine ∧ t.streams = State.reset.streams ∧
      t.device = State.reset.device ∧
      t.ports = { State.reset.ports with
        network := startPort s.ports.network.role s.ports.network.slotMap
        position := startPort s.ports.position.role s.ports.position.slotMap } ∧
      t.store.compaction = ⟨false, none, none, 0, 0, 0⟩ ∧ t.store.mem = s.store.mem ∧
      t.store.expansion = (if erase then defaultExpansion else s.store.expansion) ∧
      (erase = true → ∀ c, getClip t c = getClip State.reset c) ∧
      (erase = false → ∀ c,
        ((∀ m, s.store.compaction.move = some m → m.clip ≠ c) → getClip t c = { getClip s c with refCount := 0 }) ∧
        ∀ m, s.store.compaction.move = some m → m.clip = c →
          (m.source < m.dest + m.pages →
            getClip t c =
              { getClip s c with firstPage := m.dest, state := .damaged, beforeMove := none, refCount := 0 }) ∧
          (m.dest + m.pages ≤ m.source →
            getClip t c =
              { getClip s c with
                state := (getClip s c).beforeMove.getD .ready, beforeMove := none, refCount := 0 })) ∧
      t.pending = s.pending ∧ t.draws = s.draws) ∧
  ∀ (s : State) (src tag erase : Byte), Accepts s →
    (∀ scope : Byte, 1 < scope.toNat →
      exec (.frameArrival ⟨0x01, src, tag, [scope, erase]⟩) s = .next (sendReply ⟨0x81, src, tag, .badValue, []⟩ s)) ∧
    (1 < erase.toNat →
      exec (.resetDevice src tag erase) s = .next (sendReply ⟨0x81, src, tag, .badValue, []⟩ s)) ∧
    (erase.toNat ≤ 1 → src ≠ 0xFF →
      exec (.resetDevice src tag erase) s = .next (sendReply ⟨0x81, src, tag, .badSource, []⟩ s)) ∧
    (erase.toNat ≤ 1 → src = 0xFF → s.ports.standby = true →
      exec (.resetDevice src tag erase) s = .next (sendReply ⟨0x81, src, tag, .asleep, []⟩ s))

/-- A RESET of scope POSITION (R20, R182, R36, R83, R96, R97): whatever the call state, the position is VACANT with its default
parameters, suppressor and canceller, players IDLE, no tone, no search of it; nothing else changes but the reports, the counts of
its items' sources, and the engine, which drops what it held for the position, keeps every other entry in its order, and starts the
head of the queue where that leaves it IDLE (CallClearAndPosCloseTearDown says so entry by entry). The players' items are reported with
CLEARED, a running tone with CLEARED, and what the engine held with CANCELLED, whose D is the 0 that the reset leaves (R97). -/
def Obligations.PositionResetRestoresThePosition : Prop :=
  (∀ (s : State) (p : PosIx) (tag erase : Byte), Awake s → erase.toNat ≤ 1 → PlayersOk (getPos s p) → ToneOk (getPos s p) →
    EngineOk s →
    ∃ u, exec (.resetPosition (sourceByte p) tag erase) s = .next (sendReply ⟨0x81, sourceByte p, tag, .ok, []⟩ u) ∧
      bare u = bare (putEngine
        (putPos s p { getPos State.reset p with
          tone := { (getPos s p).tone with running := false }, sliceDue := (getPos s p).sliceDue })
        (cancelledEngine s p)) ∧
      searchCondition u p = 0 ∧ u.draws = s.draws ∧
      ClearedReport u p .net (getPos s p).net ∧ ClearedReport u p .agent (getPos s p).agent ∧
      ToneClearedReport u p (getPos s p).tone ∧
      (let c := (getPos s p).canceller
       ∀ f, heldFields s p = some f →
        ∃ n, Message.report (.echo p (.outcome .cancelled) (if c.mode = .on then .standby else c.state) 0
          (if c.mode = .on then 0 else c.erle) (some f)) n ∈ u.link.outbound)) ∧
  ∀ (s : State) (src tag erase : Byte), Accepts s →
    (1 < erase.toNat →
      exec (.resetPosition src tag erase) s = .next (sendReply ⟨0x81, src, tag, .badValue, []⟩ s)) ∧
    (erase.toNat ≤ 1 → 16 ≤ src.toNat →
      exec (.resetPosition src tag erase) s = .next (sendReply ⟨0x81, src, tag, .badSource, []⟩ s)) ∧
    (erase.toNat ≤ 1 → src.toNat < 16 → s.ports.standby = true →
      exec (.resetPosition src tag erase) s = .next (sendReply ⟨0x81, src, tag, .asleep, []⟩ s))

/-- SLEEP and WAKE (R169, R170, R164, R167, R168): SLEEP is refused with ASLEEP in standby, with BUSY while a position is not
VACANT, compaction runs or a stream is RUNNING; taken, it ends the slice period, stops both ports, empties the buffers and reports
STOPPED. WAKE starts both ports with their stored roles and reports STARTED; outside standby it changes nothing. The port that these
two reports concern is a free value (log entry 6), the good-sync counts are log entry 20, and that the outputs are silent at once is log
entry 19. A master drives its clock pins outside standby and holds them low in it, a slave's are inputs (R164; a role stored in standby
takes effect at WAKE: log entry 38). -/
def Obligations.SleepAndWakeSwitchStandby : Prop :=
  (∀ (s : State) (tag : Byte), Awake s →
    ((allVacant s = false ∨ s.store.compaction.running = true ∨ noStreamRunning s = false) →
      exec (.sleep 0xFF tag) s = .next (sendReply ⟨0x82, 0xFF, tag, .busy, []⟩ s)) ∧
    (allVacant s = true → s.store.compaction.running = false → noStreamRunning s = true →
      ∃ u, exec (.sleep 0xFF tag) s = .next (sendReply ⟨0x82, 0xFF, tag, .ok, []⟩ u) ∧
        bare u = bare { s with
          period := noPeriod
          ports := { s.ports with
            network := { s.ports.network with state := .stopped }
            position := { s.ports.position with state := .stopped }
            standby := true, rx := [], tx := [], grouping := false, ndout := silentBlock, pdout := silentBlock
            slips :=
              if s.period.active = true ∧ buffering s.ports = true ∧ 3 ≤ s.ports.tx.length then
                { s.ports.slips with txOver := min (s.ports.slips.txOver + 1) 65535 }
              else s.ports.slips } } ∧
        (∀ id, clockPins u.ports id = if (portOf s.ports id).acting = .master then .heldLow else .inputs) ∧
        ∃ n, Message.report (portReport .stopped (.both s.draws) u.ports) n ∈ u.link.outbound)) ∧
  (∀ (s : State) (tag : Byte), Accepts s → s.ports.standby = true →
    exec (.sleep 0xFF tag) s = .next (sendReply ⟨0x82, 0xFF, tag, .asleep, []⟩ s) ∧
    ∃ u, exec (.wake 0xFF tag) s = .next (sendReply ⟨0x83, 0xFF, tag, .ok, []⟩ u) ∧
      bare u = bare { s with
        ports := { s.ports with
          network := ⟨s.ports.network.role, if s.ports.network.role = .master then .locked else .syncing, 0,
            s.ports.network.slotMap, s.ports.network.role⟩
          position := ⟨s.ports.position.role, if s.ports.position.role = .master then .locked else .syncing, 0,
            s.ports.position.slotMap, s.ports.position.role⟩
          standby := false } } ∧
      (∀ id, clockPins u.ports id = if (portOf s.ports id).role = .master then .driven .internal else .inputs) ∧
      ∃ n, Message.report (portReport .started (.both s.draws) u.ports) n ∈ u.link.outbound) ∧
  ∀ (s : State) (tag : Byte), Awake s → exec (.wake 0xFF tag) s = .next (sendReply ⟨0x83, 0xFF, tag, .ok, []⟩ s)

/-- PORT-SET (R163, R164, R167, R168), with a port, a role and a one-to-one map in range and every position VACANT: the role and the map
are stored and returned; the state is kept where the role is kept or in standby, and otherwise a master is LOCKED and a slave SYNCING with
count 0 (a master's count is log entry 20), its output silent at once (log entry 19), with a report STARTED; a port made a master drives
its clock pins from the timing source, one made a slave stops driving them, and in standby the pins stay as they are, since the stored
role takes effect at WAKE (log entry 38); a change of the Position Port's role empties the buffers, and a PORT-SET of it clears the slip
counters. The other port and everything else stay. Refused with BAD_VALUE or BAD_STATE, it changes nothing. -/
def Obligations.PortSetStoresRoleAndMap : Prop :=
  (∀ (s : State) (tag : Byte) (id : PortId) (role : PortRole) (m : Vector (Fin 16) 16),
    Accepts s → m.toList.Nodup → allVacant s = true →
    ∃ u, exec (.portSet 0xFF tag (BitVec.ofNat 8 (portCode id)) (BitVec.ofNat 8 (roleCode role))
        (m.toList.map fun x => BitVec.ofNat 8 x.val)) s =
        .next (sendReply ⟨0x85, 0xFF, tag, .ok,
          byteField (roleCode role) :: m.toList.map fun x => byteField x.val⟩ u) ∧
      bare u = bare { s with ports := u.ports } ∧
      portOf u.ports id =
        (if (portOf s.ports id).role = role ∨ s.ports.standby = true then
          { portOf s.ports id with role := role, slotMap := m }
         else ⟨role, if role = .master then .locked else .syncing, 0, m, role⟩) ∧
      ((portOf s.ports id).role = role ∨ s.ports.standby = true → PortsOk s.ports →
        ∀ x, clockPins u.ports x = clockPins s.ports x) ∧
      ((portOf s.ports id).role ≠ role → s.ports.standby = false →
        clockPins u.ports id = if role = .master then .driven (timingSource u.ports) else .inputs) ∧
      (∀ other, other ≠ id → portOf u.ports other = portOf s.ports other) ∧
      u.ports.standby = s.ports.standby ∧
      u.ports.slips = (if id = .position then ⟨0, 0, 0, 0⟩ else s.ports.slips) ∧
      (u.ports.rx, u.ports.tx, u.ports.grouping) =
        (if id = .position ∧ s.ports.position.role ≠ role then ([], [], false)
         else (s.ports.rx, s.ports.tx, s.ports.grouping)) ∧
      ((portOf s.ports id).role = role ∨ s.ports.standby = true →
        u.link = s.link ∧ u.ports.ndout = s.ports.ndout ∧ u.ports.pdout = s.ports.pdout) ∧
      ((portOf s.ports id).role ≠ role → s.ports.standby = false →
        (∃ n, Message.report (portReport .started (.one id) u.ports) n ∈ u.link.outbound) ∧
        u.ports.ndout = (if id = .network then silentBlock else s.ports.ndout) ∧
        u.ports.pdout = (if id = .position then silentBlock else s.ports.pdout))) ∧
  ∀ (s : State) (tag port role : Byte) (slots : List Byte), Accepts s → slots.length = 16 →
    (1 < port.toNat ∨ 1 < role.toNat ∨ (∃ x ∈ slots, 16 ≤ x.toNat) ∨ ¬slots.Nodup →
      exec (.portSet 0xFF tag port role slots) s = .next (sendReply ⟨0x85, 0xFF, tag, .badValue, []⟩ s)) ∧
    (port.toNat ≤ 1 → role.toNat ≤ 1 → (∀ x ∈ slots, x.toNat < 16) → slots.Nodup → allVacant s = false →
      exec (.portSet 0xFF tag port role slots) s = .next (sendReply ⟨0x85, 0xFF, tag, .badState, []⟩ s))

/-- The queries answer with the fields their tables list and change nothing (R13, R80, R113, R140, R154, R168); PORT-STATUS, CLIP-INFO
and PLAYER-STATUS use one, one and two free values (log entries 26, 7 and 24). The field lists are the model's own definitions; the codes
of their named values are log entry 16, the order of both ports' fields log entry 37, the good-sync counts of PORT-STATUS log entry 20. -/
def Obligations.QueriesChangeNothing : Prop :=
  ∀ (s : State) (tag : Byte), Accepts s →
    (s.ports.standby = false → ∀ p : PosIx,
      exec (.posStatus (sourceByte p) tag) s =
        .next (sendReply ⟨0x97, sourceByte p, tag, .ok, posStatusFields (getPos s p)⟩ s) ∧
      exec (.ecStatus (sourceByte p) tag) s =
        .next (sendReply ⟨0x9C, sourceByte p, tag, .ok, ecStatusFields (getPos s p).canceller (searchCondition s p)⟩ s) ∧
      exec (.playerStatus (sourceByte p) tag) s =
        .next (sendReply ⟨0xA2, sourceByte p, tag, .ok,
            playerFields s.draws (getPos s p).net ++ playerFields (s.draws + 1) (getPos s p).agent⟩
          { s with draws := s.draws + 2 }) ∧
      exec (.portStatus 0xFF tag) s =
        .next (sendReply ⟨0x86, 0xFF, tag, .ok, portStatusFields s.draws s.ports⟩ { s with draws := s.draws + 1 })) ∧
    (s.ports.standby = true →
      exec (.portStatus 0xFF tag) s = .next (sendReply ⟨0x86, 0xFF, tag, .asleep, []⟩ s)) ∧
    (∀ c : ClipIx, exec (.clipInfo 0xFF tag (clipByte c)) s =
      .next (sendReply ⟨0xAC, 0xFF, tag, .ok, clipInfoFields (getClip s c) (spaceFigures s) s.store.compaction.running⟩
        { s with draws := s.draws + 1 })) ∧
    (∀ c : Byte, 64 ≤ c.toNat →
      exec (.clipInfo 0xFF tag c) s = .next (sendReply ⟨0xAC, 0xFF, tag, .badValue, []⟩ s)) ∧
    (∀ i : StreamIx, exec (.streamStatus 0xFF tag (streamByte i)) s =
      .next (sendReply ⟨0xB5, 0xFF, tag, .ok, streamFields (getStream s i)⟩ s)) ∧
    ∀ i : Byte, 4 ≤ i.toNat →
      exec (.streamStatus 0xFF tag i) s = .next (sendReply ⟨0xB5, 0xFF, tag, .badValue, []⟩ s)

/-- SET-PARAM and GET-PARAM (R34, R181): a value is clamped to its parameter's range, a knee also to its neighbours as they stand;
the stored value is returned, with CLAMPED where it differs from the one sent, and no other parameter changes. -/
def Obligations.SetParamStoresTheClampedValue : Prop :=
  ∀ (s : State) (tag id : Byte) (v : BitVec 16), Accepts s →
    (∀ q, paramOfId id.toNat = some (.position q) → ∀ p : PosIx,
      let t := (getPos s p).params
      let limited := max (posParamRange q).min (min v.toNat (posParamRange q).max)
      let stored := match q with
        | .nsK1 => min limited t.nsK2
        | .nsK2 => max t.nsK1 (min limited t.nsK3)
        | .nsK3 => max limited t.nsK2
        | .boostK1 => min limited t.boostK2
        | .boostK2 => max t.boostK1 (min limited t.boostK3)
        | .boostK3 => max limited t.boostK2
        | _ => limited
      (∃ t', exec (.setParam (sourceByte p) tag id v) s =
          .next (sendReply ⟨0x88, sourceByte p, tag, if stored = v.toNat then .ok else .clamped,
              [byteField id.toNat, .num 2 stored]⟩
            (putPos s p { getPos s p with params := t' })) ∧
        getPosParam t' q = stored ∧ ∀ q', q' ≠ q → getPosParam t' q' = getPosParam t q') ∧
      exec (.getParam (sourceByte p) tag id) s =
        .next (sendReply ⟨0x89, sourceByte p, tag, .ok, [byteField id.toNat, .num 2 (getPosParam t q)]⟩ s)) ∧
    (∀ q, paramOfId id.toNat = some (.device q) →
      let stored := max (devParamRange q).min (min v.toNat (devParamRange q).max)
      (∃ t', exec (.setParam 0xFF tag id v) s =
          .next (sendReply ⟨0x88, 0xFF, tag, if stored = v.toNat then .ok else .clamped,
              [byteField id.toNat, .num 2 stored]⟩
            { s with device := t' }) ∧
        getDevParam t' q = stored ∧ ∀ q', q' ≠ q → getDevParam t' q' = getDevParam s.device q') ∧
      exec (.getParam 0xFF tag id) s =
        .next (sendReply ⟨0x89, 0xFF, tag, .ok, [byteField id.toNat, .num 2 (getDevParam s.device q)]⟩ s)) ∧
    (paramOfId id.toNat = none → ∀ src : Byte,
      exec (.setParam src tag id v) s = .next (sendReply ⟨0x88, src, tag, .badParam, []⟩ s) ∧
      exec (.getParam src tag id) s = .next (sendReply ⟨0x89, src, tag, .badParam, []⟩ s)) ∧
    (∀ src : Byte, ((∃ q, paramOfId id.toNat = some (.position q)) ∧ 16 ≤ src.toNat) ∨
        ((∃ q, paramOfId id.toNat = some (.device q)) ∧ src ≠ 0xFF) →
      exec (.setParam src tag id v) s = .next (sendReply ⟨0x88, src, tag, .badSource, []⟩ s) ∧
      exec (.getParam src tag id) s = .next (sendReply ⟨0x89, src, tag, .badSource, []⟩ s))

/-! ## Positions and calls -/

/-- POS-OPEN and MUTE (R4, R12): POS-OPEN takes a VACANT position to READY and is refused with BAD_STATE in every other state; MUTE
sets the flag in every state but VACANT, and refuses a value above 1 with BAD_VALUE. That the slices begin with the next slice
period (R4) is the cleared `sliceDue` (log entry 4). -/
def Obligations.PosOpenAndMute : Prop :=
  ∀ (s : State) (p : PosIx) (tag : Byte), Awake s →
    ((getPos s p).call = .vacant →
      exec (.posOpen (sourceByte p) tag) s =
        .next (sendReply ⟨0x90, sourceByte p, tag, .ok, []⟩
          (putPos s p { getPos s p with call := .ready, sliceDue := false })) ∧
      ∀ v, exec (.mute (sourceByte p) tag v) s = .next (sendReply ⟨0x96, sourceByte p, tag, .badState, []⟩ s)) ∧
    ((getPos s p).call ≠ .vacant →
      exec (.posOpen (sourceByte p) tag) s = .next (sendReply ⟨0x90, sourceByte p, tag, .badState, []⟩ s) ∧
      (∀ on : Bool, exec (.mute (sourceByte p) tag (if on then 1 else 0)) s =
        .next (sendReply ⟨0x96, sourceByte p, tag, .ok, []⟩ (putPos s p { getPos s p with mute := on }))) ∧
      ∀ v : Byte, 1 < v.toNat →
        exec (.mute (sourceByte p) tag v) s = .next (sendReply ⟨0x96, sourceByte p, tag, .badValue, []⟩ s))

/-- CALL-OFFER (R5, R6, R124), refused with BAD_STATE outside READY. In READY, with every item given playable: the state becomes
ANNOUNCE with a whisper and CONNECTED without; each item given is all that its player holds, and the announce tag is the whisper's;
the history is zeroed and the freeze cleared, and in mode ON the canceller is TRAINING from zero with its window from the hint, and
with EC_AUTO_SEARCH at 1 a SHORT or LONG request is placed. Nothing else changes but reports and counts; items that leave a player are
reported FLUSHED and REPLACED (R130; the snapshot is log entry 36). An item that is not playable refuses with its code (R3, R5, R115,
R125), the whisper before the NET item, which is the model's choice (log entry 27). -/
def Obligations.CallOfferPresentsACall : Prop :=
  ∀ (s : State) (p : PosIx) (tag : Byte) (w n : Option (ItemSpec × Source)) (hint : Option (BitVec 16)), Awake s →
    ((getPos s p).call ≠ .ready →
      exec (.callOffer (sourceByte p) tag (w.map (·.1)) (n.map (·.1)) hint) s =
        .next (sendReply ⟨0x92, sourceByte p, tag, .badState, []⟩ s)) ∧
    ((getPos s p).call = .ready → (∀ x ∈ w, CanPlay s x.1 x.2) → (∀ x ∈ n, CanPlay s x.1 x.2) →
      let r := getPos s p
      let d := min (((hint.map BitVec.toNat).getD 0) / 16 * 16) 1792
      let c : Canceller := { r.canceller with history := List.replicate 2112 0, freeze := false }
      let taken : Position :=
        { r with
          call := if w.isSome then .announce else .connected
          announceTag := match w with | none => r.announceTag | some x => x.1.tag.toNat
          agent := match w with | none => r.agent | some x => ⟨some (heldItem x.1 x.2), [], []⟩
          net := match n with | none => r.net | some x => ⟨some (heldItem x.1 x.2), [], []⟩
          canceller :=
            if r.canceller.mode = .on then
              { c with
                state := .training, coeffs := List.replicate 256 0, erle := 0, hangover := 0, convergence := 0
                divergence := 0, loss := 0, research := 0, floor := ⟨120, 0⟩, window := d }
            else c }
      ∃ u, exec (.callOffer (sourceByte p) tag (w.map (·.1)) (n.map (·.1)) hint) s =
          .next (sendReply ⟨0x92, sourceByte p, tag,
              if r.canceller.mode = .on ∧ (∃ h ∈ hint, h.toNat ≠ d) then .clamped else .ok,
              [.num 2 taken.canceller.window]⟩ u) ∧
        bare u = bare (putEngine (putPos s p taken)
          (if r.canceller.mode = .on ∧ r.params.ecAutoSearch = 1 then
            (placeRequest p ⟨if hint.isSome then .short else .long, .auto, false⟩ (putPos s p taken)).1.engine
           else s.engine)) ∧
        (∀ x ∈ w, ReplacedReport u p .agent r.agent (heldItem x.1 x.2)) ∧
        (∀ x ∈ n, ReplacedReport u p .net r.net (heldItem x.1 x.2)) ∧ u.draws = s.draws) ∧
    ((getPos s p).call = .ready → ∀ (a b : Option ItemSpec) (i : ItemSpec) (code : Result), RefusedWith s i code →
      let refused := exec (.callOffer (sourceByte p) tag a b hint) s =
        .next (sendReply ⟨0x92, sourceByte p, tag, code, []⟩ s)
      (a = some i → refused) ∧ ((∀ x ∈ a, ∃ src, CanPlay s x src) → b = some i → refused))

/-- CALL-CONNECT and CALL-HOLD (R8, R9): from ANNOUNCE both players are cleared, from HELD the NET player, with their items reported
CLEARED; CONNECTED and HELD become or stay HELD with the hold item as all that the NET player holds, what it held before reported FLUSHED
and REPLACED (R130; the snapshot is log entry 36); every other state refuses with BAD_STATE, and an item that is not playable with its
code (R115, R125). The canceller, the engine, the mute flag and the tone stay. -/
def Obligations.CallConnectAndHold : Prop :=
  ∀ (s : State) (p : PosIx) (tag : Byte), Awake s → PlayersOk (getPos s p) →
    let r := getPos s p
    (r.call = .announce →
      ∃ u, exec (.callConnect (sourceByte p) tag) s = .next (sendReply ⟨0x93, sourceByte p, tag, .ok, []⟩ u) ∧
        bare u = bare (putPos s p { r with call := .connected, net := ⟨none, [], []⟩, agent := ⟨none, [], []⟩ }) ∧
        ClearedReport u p .agent r.agent ∧ ClearedReport u p .net r.net ∧ u.draws = s.draws) ∧
    (r.call = .held →
      ∃ u, exec (.callConnect (sourceByte p) tag) s = .next (sendReply ⟨0x93, sourceByte p, tag, .ok, []⟩ u) ∧
        bare u = bare (putPos s p { r with call := .connected, net := ⟨none, [], []⟩ }) ∧ ClearedReport u p .net r.net ∧
        u.draws = s.draws) ∧
    (r.call = .vacant ∨ r.call = .ready ∨ r.call = .connected →
      exec (.callConnect (sourceByte p) tag) s = .next (sendReply ⟨0x93, sourceByte p, tag, .badState, []⟩ s)) ∧
    ∀ i : ItemSpec,
      (r.call = .vacant ∨ r.call = .ready ∨ r.call = .announce →
        exec (.callHold (sourceByte p) tag i) s = .next (sendReply ⟨0x94, sourceByte p, tag, .badState, []⟩ s)) ∧
      (∀ code, r.call = .connected ∨ r.call = .held → RefusedWith s i code →
        exec (.callHold (sourceByte p) tag i) s = .next (sendReply ⟨0x94, sourceByte p, tag, code, []⟩ s)) ∧
      ∀ src, r.call = .connected ∨ r.call = .held → CanPlay s i src →
        ∃ u, exec (.callHold (sourceByte p) tag i) s = .next (sendReply ⟨0x94, sourceByte p, tag, .ok, []⟩ u) ∧
          bare u = bare (putPos s p { r with call := .held, net := ⟨some (heldItem i src), [], []⟩ }) ∧
          ReplacedReport u p .net r.net (heldItem i src) ∧ u.draws = s.draws

/-- CALL-CLEAR and POS-CLOSE (R10, R11, R36, R96): a call ends in READY, a close in VACANT, the players IDLE; a tone that needs the
call stops, on a close any tone; a canceller in mode ON is in STANDBY from zero; a close also resets the suppressor, the mute flag and
the history. CALL-CLEAR is refused with BAD_STATE in VACANT and READY; POS-CLOSE in VACANT changes nothing. The searches of the position
are cancelled: its queued entry leaves and the others keep their order; in flight, the record and the follow-up go, and the head of the
queue starts, clearing its span alone; what was held is reported CANCELLED and is the position's last outcome. The players' items and a
tone that stops are reported with CLEARED (R137, R139, R161). -/
def Obligations.CallClearAndPosCloseTearDown : Prop :=
  ∀ (s : State) (p : PosIx) (tag : Byte), Awake s → PlayersOk (getPos s p) → ToneOk (getPos s p) → EngineOk s →
    let r := getPos s p
    let ended : Position :=
      { r with
        call := .ready, net := ⟨none, [], []⟩, agent := ⟨none, [], []⟩
        tone := if routeHasNet r.tone.route then { r.tone with running := false } else r.tone
        canceller :=
          if r.canceller.mode = .on then
            { r.canceller with
              state := .standby, coeffs := List.replicate 256 0, erle := 0, hangover := 0, convergence := 0, divergence := 0
              loss := 0, research := 0 }
          else r.canceller
        lastSearch := match heldFields s p with | none => r.lastSearch | some f => some f }
    let open_ := if callPresent r.call then ended else r
    let cancelled (u : State) : Prop := ∀ f, heldFields s p = some f →
      ∃ n, Message.report (.echo p (.outcome .cancelled) ended.canceller.state ended.canceller.window ended.canceller.erle (some f)) n
        ∈ u.link.outbound
    let cleared (u : State) : Prop := ClearedReport u p .net r.net ∧ ClearedReport u p .agent r.agent
    let e := s.engine
    let others := e.queue.filter fun x => x.position ≠ p
    ((∀ f, e.inFlight = some f → f.entry.position ≠ p) → cancelledEngine s p = { e with queue := others }) ∧
    (∀ f, e.inFlight = some f → f.entry.position = p →
      (others = [] → cancelledEngine s p = { e with inFlight := none, followUp := none, queue := [] }) ∧
      ∀ x rest, others = x :: rest →
        let d := (getPos s x.position).canceller.window
        let span := match x.request.kind with | .long => (0, 2047) | .short => (d - 64, min 2047 (d + 319))
        cancelledEngine s p =
          { inFlight := some ⟨x, span.1, span.2, 0, 0⟩, followUp := none, queue := rest
            accumulators := e.accumulators.mapIdx fun l v => if span.1 ≤ l ∧ l ≤ span.2 then 0 else v }) ∧
    (callPresent r.call = true →
      ∃ u, exec (.callClear (sourceByte p) tag) s = .next (sendReply ⟨0x95, sourceByte p, tag, .ok, []⟩ u) ∧
        bare u = bare (putEngine (putPos s p ended) (cancelledEngine s p)) ∧ searchCondition u p = 0 ∧ cancelled u ∧
        cleared u ∧ (routeHasNet r.tone.route = true → ToneClearedReport u p r.tone) ∧ u.draws = s.draws) ∧
    (callPresent r.call = false →
      exec (.callClear (sourceByte p) tag) s = .next (sendReply ⟨0x95, sourceByte p, tag, .badState, []⟩ s)) ∧
    (r.call ≠ .vacant →
      ∃ u, exec (.posClose (sourceByte p) tag) s = .next (sendReply ⟨0x91, sourceByte p, tag, .ok, []⟩ u) ∧
        bare u = bare (putEngine (putPos s p
          { open_ with
            call := .vacant, agent := ⟨none, [], []⟩, tone := { r.tone with running := false }
            suppressor := ⟨⟨120, 0⟩, false, 0, 0, 0, 0, 0⟩, mute := false
            canceller := { open_.canceller with history := List.replicate 2112 0 } }) (cancelledEngine s p)) ∧
        searchCondition u p = 0 ∧ cancelled u ∧ cleared u ∧ ToneClearedReport u p r.tone ∧ u.draws = s.draws) ∧
    (r.call = .vacant →
      exec (.posClose (sourceByte p) tag) s = .next (sendReply ⟨0x91, sourceByte p, tag, .ok, []⟩ s))

/-! ## Echo Canceller and Delay Search Engine -/

/-- EC-MODE (R77, R63): the mode it has changes nothing; OFF zeroes the canceller; BYPASS keeps D and the coefficients; ON trains
from the kept coefficients in a call and waits in STANDBY from zero otherwise; leaving TRAINING or TRACKING cancels the searches
of the position, with a CANCELLED report, and of no other (R96; the engine entry by entry is CallClearAndPosCloseTearDown's). A value
above 2 is BAD_VALUE. -/
def Obligations.EcModeChangesTheState : Prop :=
  ∀ (s : State) (p : PosIx) (tag v : Byte), Awake s →
    let r := getPos s p
    let zeroed : Canceller := { r.canceller with
      coeffs := List.replicate 256 0, erle := 0, hangover := 0, convergence := 0, divergence := 0, loss := 0, research := 0 }
    (2 < v.toNat → exec (.ecMode (sourceByte p) tag v) s = .next (sendReply ⟨0x98, sourceByte p, tag, .badValue, []⟩ s)) ∧
    ∀ m, (v = 0 ∧ m = .off) ∨ (v = 1 ∧ m = .bypass) ∨ (v = 2 ∧ m = .on) →
      (r.canceller.mode = m →
        exec (.ecMode (sourceByte p) tag v) s = .next (sendReply ⟨0x98, sourceByte p, tag, .ok, []⟩ s)) ∧
      (r.canceller.mode ≠ m →
        let c : Canceller := match m with
          | .off => { zeroed with mode := .off, state := .off }
          | .bypass => { r.canceller with mode := .bypass, state := .bypass }
          | .on =>
            if callPresent r.call then { zeroed with mode := .on, state := .training, coeffs := r.canceller.coeffs }
            else { zeroed with mode := .on, state := .standby }
        ∃ u, exec (.ecMode (sourceByte p) tag v) s = .next (sendReply ⟨0x98, sourceByte p, tag, .ok, []⟩ u) ∧
          bare u = bare (putEngine
            (putPos s p { r with
              canceller := c
              lastSearch := match heldFields s p with
                | none => r.lastSearch
                | some f => if cancelling r.canceller.state then some f else r.lastSearch })
            (if cancelling r.canceller.state then cancelledEngine s p else s.engine)) ∧
          (cancelling r.canceller.state = false → u.link = s.link) ∧
          (cancelling r.canceller.state = true → ∀ f, heldFields s p = some f →
            ∃ n, Message.report (.echo p (.outcome .cancelled) c.state c.window c.erle (some f)) n ∈ u.link.outbound) ∧
          u.draws = s.draws)

/-- EC-FREEZE and WINDOW-SET (R78, R79, R70, R55): the freeze flag is stored; a window move is taken in TRAINING and TRACKING alone,
rounded down to a multiple of 16 and clamped to 1792, and changes nothing where D is already there. -/
def Obligations.EcFreezeAndWindowSet : Prop :=
  ∀ (s : State) (p : PosIx) (tag : Byte), Awake s →
    let r := getPos s p
    (∀ on : Bool, exec (.ecFreeze (sourceByte p) tag (if on then 1 else 0)) s =
      .next (sendReply ⟨0x99, sourceByte p, tag, .ok, []⟩
        (putPos s p { r with canceller := { r.canceller with freeze := on } }))) ∧
    (∀ v : Byte, 1 < v.toNat →
      exec (.ecFreeze (sourceByte p) tag v) s = .next (sendReply ⟨0x99, sourceByte p, tag, .badValue, []⟩ s)) ∧
    ∀ lag : BitVec 16,
      let d := min (lag.toNat / 16 * 16) 1792
      (r.canceller.state = .training ∨ r.canceller.state = .tracking →
        exec (.windowSet (sourceByte p) tag lag) s =
          .next (sendReply ⟨0x9B, sourceByte p, tag, if d = lag.toNat then .ok else .clamped, [.num 2 d]⟩
            (putPos s p { r with canceller :=
              if d = r.canceller.window then r.canceller
              else { r.canceller with
                window := d, state := .training, coeffs := List.replicate 256 0, erle := 0, hangover := 0, convergence := 0
                divergence := 0, loss := 0, research := 0 } }))) ∧
      (¬(r.canceller.state = .training ∨ r.canceller.state = .tracking) →
        exec (.windowSet (sourceByte p) tag lag) s =
          .next (sendReply ⟨0x9B, sourceByte p, tag, .badState, []⟩ s))

/-- SEARCH (R87, R88, R89): without a call or a cancelling state it is BAD_STATE, with a value above 1 BAD_VALUE; otherwise the HOST
request is placed by the first case that applies: the follow-up, the queued entry, a start, the tail of the queue. -/
def Obligations.SearchIsPlacedByTheFirstCase : Prop :=
  ∀ (s : State) (p : PosIx) (tag : Byte), Awake s →
    let r := getPos s p
    let e := s.engine
    (∀ v : Byte, 1 < v.toNat →
      exec (.search (sourceByte p) tag v) s = .next (sendReply ⟨0x9A, sourceByte p, tag, .badValue, []⟩ s)) ∧
    ∀ long : Bool,
      let k : SearchKind := if long then .long else .short
      let req : SearchRequest := ⟨k, .host, false⟩
      let merge (a : SearchRequest) : SearchRequest :=
        ⟨if a.kind = .long ∨ k = .long then .long else .short, .host, a.escalate⟩
      let reply (d n : Nat) (t : State) : Host.Outcome State Fault Refusal :=
        .next (sendReply ⟨0x9A, sourceByte p, tag, .ok, [byteField d, byteField n]⟩ t)
      let c := exec (.search (sourceByte p) tag (if long then 1 else 0)) s
      (¬(callPresent r.call = true ∧ cancelling r.canceller.state = true) →
        c = .next (sendReply ⟨0x9A, sourceByte p, tag, .badState, []⟩ s)) ∧
      (callPresent r.call = true → cancelling r.canceller.state = true →
        (∀ f, e.inFlight = some f → f.entry.position = p →
          c = reply 3 e.queue.length (putEngine s { e with
            followUp := some (match e.followUp with | none => req | some a => merge a) })) ∧
        ((∀ f, e.inFlight = some f → f.entry.position ≠ p) →
          ((∃ x ∈ e.queue, x.position = p) →
            c = reply 2 e.queue.length (putEngine s { e with
              queue := e.queue.map fun x => if x.position = p then ⟨p, merge x.request⟩ else x })) ∧
          ((∀ x ∈ e.queue, x.position ≠ p) →
            (e.inFlight = none →
              let first := if long then 0 else r.canceller.window - 64
              let last := if long then 2047 else min 2047 (r.canceller.window + 319)
              c = reply 0 e.queue.length (putEngine s { e with
                inFlight := some ⟨⟨p, req⟩, first, last, 0, 0⟩, followUp := none
                accumulators := e.accumulators.mapIdx fun l v => if first ≤ l ∧ l ≤ last then 0 else v })) ∧
            (e.inFlight ≠ none →
              c = reply 1 (e.queue.length + 1) (putEngine s { e with queue := e.queue ++ [⟨p, req⟩] })))))

/-! ## Players -/

/-- PLAY with mode NOW and ONLY (R124 to R127, R130, R139): a playable item becomes current at once; the old current item leaves
with ITEM_END REPLACED; ONLY also empties the stack and the queue with FLUSHED, NOW keeps them. That the snapshot shows the player with
the new item is the model's choice (log entry 36). -/
def Obligations.PlayNowAndOnly : Prop :=
  ∀ (s : State) (p : PosIx) (w : PlayerId) (tag : Byte) (i : ItemSpec) (src : Source), Awake s →
    mayPlay (getPos s p).call w = true → CanPlay s i src →
    let pl := getPlayer s p w
    let replaced (new : Player) (u : State) : Prop := ∀ old, pl.current = some old →
      ∃ n, Message.report (.player p w
        ⟨.itemEnd, .replaced, old.source, old.tag, clipOffset old old.readOffset, true, some i.tag.toNat, new.stack.length,
          new.queue.length⟩) n ∈ u.link.outbound
    (∃ u, exec (.playNow (sourceByte p) tag (playerByte w) i) s =
        .next (sendReply ⟨0xA0, sourceByte p, tag, .ok,
          [byteField 0, byteField 1, byteField i.tag.toNat, byteField pl.stack.length, byteField pl.queue.length]⟩ u) ∧
      bare u = bare (putPlayer s p w { pl with current := some (heldItem i src) }) ∧
      (pl.current = none → u.link = s.link) ∧ replaced { pl with current := some (heldItem i src) } u ∧ u.draws = s.draws) ∧
    ∃ u, exec (.playOnly (sourceByte p) tag (playerByte w) i) s =
        .next (sendReply ⟨0xA0, sourceByte p, tag, .ok,
          [byteField 0, byteField 1, byteField i.tag.toNat, byteField 0, byteField 0]⟩ u) ∧
      bare u = bare (putPlayer s p w ⟨some (heldItem i src), [], []⟩) ∧
      (pl = ⟨none, [], []⟩ → u.link = s.link) ∧ ReplacedReport u p w pl (heldItem i src) ∧ u.draws = s.draws

/-- PLAY with mode INTERRUPT and NEXT (R124 to R126, R128, R129): on an IDLE player the item becomes current; INTERRUPT stacks the
current item, dropping the bottom one of a full stack with STACK_OVERFLOW (whose report shows the player before the push, log entry
14); NEXT joins the queue's tail, and is refused with FULL where 4 wait. -/
def Obligations.PlayInterruptAndNext : Prop :=
  ∀ (s : State) (p : PosIx) (w : PlayerId) (tag : Byte) (i : ItemSpec) (src : Source), Awake s →
    mayPlay (getPos s p).call w = true → CanPlay s i src →
    let pl := getPlayer s p w
    let it := heldItem i src
    let interrupt := exec (.playInterrupt (sourceByte p) tag (playerByte w) i) s
    let next := exec (.playNext (sourceByte p) tag (playerByte w) i) s
    let reply (queued : Nat) (new : Player) (u : State) : Host.Outcome State Fault Refusal :=
      .next (sendReply ⟨0xA0, sourceByte p, tag, .ok,
        [byteField queued, byteField 1, byteField ((new.current.map Item.tag).getD 0), byteField new.stack.length,
          byteField new.queue.length]⟩ u)
    (pl.current = none →
      ∃ u, interrupt = reply 0 { pl with current := some it } u ∧
        bare u = bare (putPlayer s p w { pl with current := some it }) ∧ u.link = s.link ∧ u.draws = s.draws) ∧
    (∀ old, pl.current = some old → pl.stack.length ≤ 2 →
      ∃ u, interrupt = reply 0 { pl with current := some it, stack := old :: pl.stack.take 1 } u ∧
        bare u = bare (putPlayer s p w { pl with current := some it, stack := old :: pl.stack.take 1 }) ∧
        (pl.stack.length < 2 → u.link = s.link) ∧
        (∀ bottom, pl.stack.getLast? = some bottom → pl.stack.length = 2 →
          ∃ n, Message.report (.player p w
            ⟨.itemDropped, .stackOverflow, bottom.source, bottom.tag, clipOffset bottom bottom.readOffset, true, some old.tag, 1,
              pl.queue.length⟩) n ∈ u.link.outbound) ∧ u.draws = s.draws) ∧
    (pl.current = none → pl.queue.length < 4 →
      ∃ u, next = reply 0 { pl with current := some it } u ∧
        bare u = bare (putPlayer s p w { pl with current := some it }) ∧ u.link = s.link ∧ u.draws = s.draws) ∧
    (pl.current ≠ none → pl.queue.length < 4 →
      ∃ u, next = reply 1 { pl with queue := pl.queue ++ [it] } u ∧
        bare u = bare (putPlayer s p w { pl with queue := pl.queue ++ [it] }) ∧ u.link = s.link ∧ u.draws = s.draws) ∧
    (pl.current ≠ none → 4 ≤ pl.queue.length →
      next = .next (sendReply ⟨0xA0, sourceByte p, tag, .full, []⟩ s))

/-- The checks of PLAY in their order (R115, R125), for each mode: a mode, an item, a level or a player out of range is BAD_VALUE, a call
state that forbids the player BAD_STATE, then the clip's state, an empty clip, an offset past its end, a CLOSED stream. -/
def Obligations.PlayChecksItsItem : Prop :=
  ∀ (s : State) (p : PosIx) (tag player : Byte) (i : ItemSpec) (play : Byte → Byte → Byte → ItemSpec → Instr), Awake s →
    play = Instr.playNow ∨ play = Instr.playInterrupt ∨ play = Instr.playNext ∨ play = Instr.playOnly →
    let answer (r : Result) : Prop :=
      exec (play (sourceByte p) tag player i) s = .next (sendReply ⟨0xA0, sourceByte p, tag, r, []⟩ s)
    (∀ mode : Byte, 3 < mode.toNat →
      exec (.frameArrival ⟨0x20, sourceByte p, tag, player :: mode :: itemBytes i⟩) s =
        .next (sendReply ⟨0xA0, sourceByte p, tag, .badValue, []⟩ s)) ∧
    (1 < player.toNat ∨ 63 < i.level.toNat ∨ 1 < i.sourceKind.toNat ∨ (i.sourceKind = 0 ∧ 64 ≤ i.sourceId.toNat) ∨
        (i.sourceKind = 1 ∧ 4 ≤ i.sourceId.toNat) → answer .badValue) ∧
    ∀ w src, player = playerByte w → i.level.toNat ≤ 63 → Names i src →
      (mayPlay (getPos s p).call w = false → answer .badState) ∧
      (mayPlay (getPos s p).call w = true →
        match src with
        | .stream k => (getStream s k).state = .closed → answer .notReady
        | .clip c =>
          ((getClip s c).state = .free ∨ (getClip s c).state = .uploading → answer .notReady) ∧
          ((getClip s c).state = .moving → answer .storeBusy) ∧ ((getClip s c).state = .damaged → answer .damaged) ∧
          ((getClip s c).state = .ready → (getClip s c).length = 0 → answer .empty) ∧
          ((getClip s c).state = .ready → 0 < (getClip s c).length → (getClip s c).length ≤ i.startOffset.toNat →
            answer .badValue))

/-- STOP (R136, R133, R139): CURRENT ends the current item, and the queue's head, else the stack's top, else none follows; ALL leaves
the player IDLE and empty; an IDLE player is left as it is. What leaves is reported STOPPED. Where the AGENT player of a position in
ANNOUNCE becomes IDLE, whisper done follows: CONNECTED, the NET player cleared, and a CALL report (R7, R14). A player code or a scope above
1 is BAD_VALUE. The presence byte of the tag in the reply is the model's choice (log entry 31). -/
def Obligations.StopEndsItemsAndWhispers : Prop :=
  (∀ (s : State) (p : PosIx) (tag player : Byte), Awake s →
    (1 < player.toNat →
      exec (.stopCurrent (sourceByte p) tag player) s = .next (sendReply ⟨0xA1, sourceByte p, tag, .badValue, []⟩ s) ∧
      exec (.stopAll (sourceByte p) tag player) s = .next (sendReply ⟨0xA1, sourceByte p, tag, .badValue, []⟩ s)) ∧
    ∀ scope : Byte, 1 < scope.toNat →
      exec (.frameArrival ⟨0x21, sourceByte p, tag, [player, scope]⟩) s =
        .next (sendReply ⟨0xA1, sourceByte p, tag, .badValue, []⟩ s)) ∧
  ∀ (s : State) (p : PosIx) (w : PlayerId) (tag : Byte) (all : Bool), Awake s → PlayersOk (getPos s p) →
    let pl := getPlayer s p w
    let new : Player := if all ∨ pl.current = none then ⟨none, [], []⟩ else succession pl
    let stop := if all then Instr.stopAll else Instr.stopCurrent
    let whisper := w = .agent ∧ (getPos s p).call = .announce ∧ pl.current ≠ none ∧ new.current = none
    let gone := if all then 1 + pl.stack.length + pl.queue.length else 1
    ∃ u, exec (stop (sourceByte p) tag (playerByte w)) s =
        .next (sendReply ⟨0xA1, sourceByte p, tag, .ok,
          byteField (flagCode new.current.isSome) :: optionField 1 (new.current.map Item.tag) ++
            [byteField new.stack.length, byteField new.queue.length]⟩ u) ∧
      u.draws = s.draws ∧
      (¬whisper →
        bare u = bare (putPlayer s p w new) ∧ (pl.current = none → u.link = s.link) ∧
        ∀ old, pl.current = some old → ItemLeft u p w .itemEnd .stopped old old.readOffset gone new) ∧
      (whisper →
        bare u = bare (putPos s p { getPos s p with
          call := .connected, net := ⟨none, [], []⟩, agent := ⟨none, [], []⟩ }) ∧
        WhisperReport u p (getPos s p) ∧ ClearedReport u p .net (getPos s p).net ∧
        ∀ old, pl.current = some old → ItemLeft u p .agent .itemEnd .stopped old old.readOffset gone ⟨none, [], []⟩)

/-! ## Tone Units -/

/-- TONE-START and TONE-STOP (R157, R161): the frequency, the period and the on-time are clamped, the increment is
round(f × 65,536 / 16,000), the counters start from 0, and the reply tells of the tone that was there; where none was running the
bursts it had completed are a free value (log entry 29). A level above 63 or a route above 2 is BAD_VALUE, a route the call state
forbids BAD_STATE. -/
def Obligations.ToneStartAndStop : Prop :=
  ∀ (s : State) (p : PosIx) (tag level bursts route : Byte) (frequency period onTime : BitVec 16), Awake s →
    let r := getPos s p
    let start := exec (.toneStart (sourceByte p) tag frequency level period onTime bursts route) s
    let f := max 100 (min frequency.toNat 7900)
    let inc := (f * 65536 + 8000) / 16000
    let per := max 2 (min period.toNat 2500)
    let on := max 1 (min onTime.toNat (per - 1))
    let before := [byteField (flagCode r.tone.running),
      byteField (if r.tone.running then r.tone.burstCount else (Config.idleBursts s.draws).toNat)]
    (63 < level.toNat ∨ 2 < route.toNat →
      start = .next (sendReply ⟨0xA4, sourceByte p, tag, .badValue, []⟩ s)) ∧
    (level.toNat ≤ 63 → ∀ way : Route, (route = 0 ∧ way = .net) ∨ (route = 1 ∧ way = .ear) ∨ (route = 2 ∧ way = .both) →
      ((r.call = .vacant ∨ (way ≠ .ear ∧ callPresent r.call = false)) →
        start = .next (sendReply ⟨0xA4, sourceByte p, tag, .badState, []⟩ s)) ∧
      (r.call ≠ .vacant → (way = .ear ∨ callPresent r.call = true) →
        start = .next (sendReply ⟨0xA4, sourceByte p, tag,
            if f = frequency.toNat ∧ per = period.toNat ∧ on = onTime.toNat then .ok else .clamped,
            [.num 2 f, .num 2 inc, .num 2 per, .num 2 on] ++ before⟩
          { putPos s p { r with tone := ⟨true, way, inc, level.toNat, per, on, bursts.toNat, 0, 0, 0⟩ } with
            draws := s.draws + 1 }))) ∧
    exec (.toneStop (sourceByte p) tag) s =
      .next (sendReply ⟨0xA5, sourceByte p, tag, .ok, before⟩
        { putPos s p { r with tone := { r.tone with running := false } } with draws := s.draws + 1 })

/-! ## Prompt Store -/

/-- CLIP-ALLOC (R101, R104, R108, R109): a value out of range is BAD_VALUE, running compaction STORE_BUSY, an entry in use IN_USE;
the capacity is clamped to 1..262,144, its pages go to the lowest page with room, and the entry is UPLOADING and empty; without
room it is NO_SPACE with the space figures (log entry 7), and the entry stays FREE. -/
def Obligations.ClipAllocPlacesFirstFit : Prop :=
  ∀ (s : State) (tag : Byte) (capacity : BitVec 32), Accepts s →
    (∀ clip format : Byte, 64 ≤ clip.toNat ∨ 2 < format.toNat →
      exec (.clipAlloc 0xFF tag clip format capacity) s =
        .next (sendReply ⟨0xA8, 0xFF, tag, .badValue, []⟩ s)) ∧
    ∀ (c : ClipIx) (f : Format),
      let alloc := exec (.clipAlloc 0xFF tag (clipByte c) (BitVec.ofNat 8 (formatCode f)) capacity) s
      let cap := max 1 (min capacity.toNat 262144)
      let bytes := match f with | .lin16 => 2 * cap | .pack12 => (3 * cap + 1) / 2 | .log8 => cap
      let pages := (bytes + 255) / 256
      (s.store.compaction.running = true → alloc = .next (sendReply ⟨0xA8, 0xFF, tag, .storeBusy, []⟩ s)) ∧
      (s.store.compaction.running = false → (getClip s c).state ≠ .free →
        alloc = .next (sendReply ⟨0xA8, 0xFF, tag, .inUse, []⟩ s)) ∧
      (s.store.compaction.running = false → (getClip s c).state = .free →
        (∀ page, FirstRoom s page pages →
          alloc = .next (sendReply ⟨0xA8, 0xFF, tag, if cap = capacity.toNat then .ok else .clamped,
              [.num 3 cap, .num 2 page, .num 2 pages]⟩
            (putClip s c ⟨.uploading, f, cap, 0, page, pages, none, 0, none⟩))) ∧
        ((∀ page, ¬RoomAt s page pages) →
          alloc = .next (sendReply ⟨0xA8, 0xFF, tag, .noSpace, spaceFields (spaceFigures s)⟩
            { s with draws := s.draws + 1 })))

/-- CLIP-WRITE (R104, R105, R110) to an UPLOADING clip: samples are accepted while the occupied count is below the capacity. LIN16
and LOG8 samples go into the clip's bytes after its length (the byte arrangement is log entry 9). A PACK12 sample is converted and
waits for a second; the pair reads back as the two values; a message of any length stores every pair it completes, and its last sample
waits where it has no partner. An odd count is BAD_LENGTH, another state BAD_STATE, a clip id above 63 BAD_VALUE. Every other byte and
every other entry stay. -/
def Obligations.ClipWriteStoresSamples : Prop :=
  (∀ (s : State) (tag clip : Byte) (data : List Byte), Accepts s → data.length ≤ 240 → 64 ≤ clip.toNat →
    exec (.clipWrite 0xFF tag clip data) s = .next (sendReply ⟨0xA9, 0xFF, tag, .badValue, []⟩ s)) ∧
  ∀ (s : State) (tag : Byte) (c : ClipIx) (data : List Byte), Accepts s → data.length ≤ 240 →
    let e := getClip s c
    let write := exec (.clipWrite 0xFF tag (clipByte c) data) s
    (e.state ≠ .uploading → write = .next (sendReply ⟨0xA9, 0xFF, tag, .badState, []⟩ s)) ∧
    (e.state = .uploading → e.format ≠ .log8 → data.length % 2 = 1 →
      write = .next (sendReply ⟨0xA9, 0xFF, tag, .badLength, []⟩ s)) ∧
    (e.state = .uploading → e.format ≠ .pack12 → Memory.wf s.store.mem →
      let size := if e.format = .log8 then 1 else 2
      let given := data.length / size
      let accepted := min given (e.capacity - (e.length + if e.pending.isSome then 1 else 0))
      data.length % size = 0 →
        ∃ m, write = .next (sendReply ⟨0xA9, 0xFF, tag, if accepted < given then .clamped else .ok,
              [byteField accepted, .num 3 (e.length + accepted), byteField (flagCode e.pending.isSome)]⟩
            (putMem (putClip s c { e with length := e.length + accepted }) m)) ∧
          BytesWritten s.store.mem m (e.firstPage * 256 + size * e.length) (data.take (size * accepted))) ∧
    (e.state = .uploading → e.format = .pack12 → Memory.wf s.store.mem → data.length % 2 = 0 → e.length % 2 = 0 →
      let given := data.length / 2
      let accepted := min given (e.capacity - (e.length + if e.pending.isSome then 1 else 0))
      let v (j : Nat) : Int :=
        max (-2048) (min
          (((BitVec.ofNat 16 ((data.getD (2 * j) 0).toNat * 256 + (data.getD (2 * j + 1) 0).toNat)).toInt + 8) / 16) 2047)
      let xs := e.pending.toList ++ (List.range accepted).map v
      let pairs := xs.length / 2
      let odd := xs.length % 2 = 1
      (∀ a, e.pending = some a → -2048 ≤ a ∧ a ≤ 2047) → e.firstPage * 256 + 3 * (e.length / 2 + pairs) ≤ storeBytes →
        ∃ m, write = .next (sendReply ⟨0xA9, 0xFF, tag, if accepted < given then .clamped else .ok,
              [byteField accepted, .num 3 (e.length + 2 * pairs), byteField (if odd then 1 else 0)]⟩
            (putMem (putClip s c { e with
              pending := if odd then xs.getLast? else none, length := e.length + 2 * pairs }) m)) ∧
          (∀ k, k < 2 * pairs → readPack12 m (e.firstPage * 256) (e.length + k) = xs.getD k 0) ∧
          ∀ x, x < e.firstPage * 256 + 3 * (e.length / 2) ∨ e.firstPage * 256 + 3 * (e.length / 2 + pairs) ≤ x →
            readByte m x = readByte s.store.mem x) ∧
    (e.state = .uploading → e.format = .pack12 → ∀ hi lo, data = [hi, lo] → Memory.wf s.store.mem →
      let v := max (-2048) (min (((BitVec.ofNat 16 (hi.toNat * 256 + lo.toNat)).toInt + 8) / 16) 2047)
      (e.pending = none → e.length < e.capacity →
        write = .next (sendReply ⟨0xA9, 0xFF, tag, .ok, [byteField 1, .num 3 e.length, byteField 1]⟩
          (putClip s c { e with pending := some v }))) ∧
      (∀ a, e.pending = some a → -2048 ≤ a → a ≤ 2047 → e.length + 1 < e.capacity → e.length % 2 = 0 →
        e.firstPage * 256 + 3 * (e.length / 2) + 3 ≤ storeBytes →
        ∃ m, write = .next (sendReply ⟨0xA9, 0xFF, tag, .ok, [byteField 1, .num 3 (e.length + 2), byteField 0]⟩
            (putMem (putClip s c { e with pending := none, length := e.length + 2 }) m)) ∧
          readPack12 m (e.firstPage * 256) e.length = a ∧ readPack12 m (e.firstPage * 256) (e.length + 1) = v ∧
          ∀ x, x < e.firstPage * 256 + 3 * (e.length / 2) ∨ e.firstPage * 256 + 3 * (e.length / 2) + 3 ≤ x →
            readByte m x = readByte s.store.mem x) ∧
      (e.capacity ≤ e.length + (if e.pending.isSome then 1 else 0) →
        write = .next (sendReply ⟨0xA9, 0xFF, tag, .clamped,
          [byteField 0, .num 3 e.length, byteField (flagCode e.pending.isSome)]⟩ s)))

/-- CLIP-END and CLIP-FREE (R111, R112): an upload ends READY without its pending sample; a clip that is UPLOADING, DAMAGED, or READY
and not referenced becomes FREE, one that is MOVING refuses with BUSY, one in use with IN_USE, a FREE one changes nothing. A clip id above
63 is BAD_VALUE (R108). -/
def Obligations.ClipEndAndFree : Prop :=
  (∀ (s : State) (tag clip : Byte), Accepts s → 64 ≤ clip.toNat →
    exec (.clipEnd 0xFF tag clip) s = .next (sendReply ⟨0xAA, 0xFF, tag, .badValue, []⟩ s) ∧
    exec (.clipFree 0xFF tag clip) s = .next (sendReply ⟨0xAB, 0xFF, tag, .badValue, []⟩ s)) ∧
  ∀ (s : State) (tag : Byte) (c : ClipIx), Accepts s →
    let e := getClip s c
    let finish := exec (.clipEnd 0xFF tag (clipByte c)) s
    let free := exec (.clipFree 0xFF tag (clipByte c)) s
    (e.state = .uploading → finish =
      .next (sendReply ⟨0xAA, 0xFF, tag, .ok, [.num 3 e.length, byteField (flagCode e.pending.isSome)]⟩
        (putClip s c { e with state := .ready, pending := none }))) ∧
    (e.state ≠ .uploading → finish = .next (sendReply ⟨0xAA, 0xFF, tag, .badState, []⟩ s)) ∧
    (e.state = .free → free = .next (sendReply ⟨0xAB, 0xFF, tag, .ok, []⟩ s)) ∧
    (e.state = .moving → free = .next (sendReply ⟨0xAB, 0xFF, tag, .busy, []⟩ s)) ∧
    (e.state = .ready → 0 < e.refCount → free = .next (sendReply ⟨0xAB, 0xFF, tag, .inUse, []⟩ s)) ∧
    (e.state = .uploading ∨ e.state = .damaged ∨ (e.state = .ready ∧ e.refCount = 0) →
      free = .next (sendReply ⟨0xAB, 0xFF, tag, .ok, []⟩ (putClip s c ⟨.free, .lin16, 0, 0, 0, 0, none, 0, none⟩)))

/-- STORE-COMPACT and EXPAND-LOAD (R107, R116): compaction is marked running with no scan point, no move and counts of 0, refused
with BUSY while it runs and with ASLEEP in standby; the entries are written to consecutive indices, those beyond 255 are
discarded, and every other entry stays. -/
def Obligations.StoreCompactAndExpandLoad : Prop :=
  ∀ (s : State) (tag : Byte), Accepts s →
    (let compact := exec (.storeCompact 0xFF tag) s
     (s.ports.standby = true → compact = .next (sendReply ⟨0xAD, 0xFF, tag, .asleep, []⟩ s)) ∧
     (s.ports.standby = false → s.store.compaction.running = true →
       compact = .next (sendReply ⟨0xAD, 0xFF, tag, .busy, []⟩ s)) ∧
     (s.ports.standby = false → s.store.compaction.running = false →
       compact = .next (sendReply ⟨0xAD, 0xFF, tag, .started, []⟩ (putCompaction s ⟨true, none, none, 0, 0, 0⟩)))) ∧
    ∀ (start : Byte) (entries : List (BitVec 16)), 1 ≤ entries.length → entries.length ≤ 120 →
      let written := min entries.length (256 - start.toNat)
      ∃ table, exec (.expandLoad 0xFF tag start entries) s =
          .next (sendReply ⟨0xAE, 0xFF, tag, if written < entries.length then .clamped else .ok, [byteField written]⟩
            { s with store := { s.store with expansion := table } }) ∧
        table.length = s.store.expansion.length ∧
        ∀ i, i < s.store.expansion.length →
          table.getD i 0 =
            if start.toNat ≤ i ∧ i < start.toNat + entries.length then (entries.getD (i - start.toNat) 0).toInt
            else s.store.expansion.getD i 0

/-! ## Hold Streams -/

/-- STREAM-OPEN (R101, R142, R144, R145): a code out of range is BAD_VALUE, running compaction STORE_BUSY, a stream that is not
CLOSED IN_USE; the half size is clamped to 256..16,384, the ring goes to the lowest page with room, and the stream is OPEN and
empty at half 0, offset 0, the slice already fixed standing for the period (R148; log entry 13); without room it is NO_SPACE with the
space figures (log entry 7). -/
def Obligations.StreamOpenPlacesTheRing : Prop :=
  ∀ (s : State) (tag : Byte) (halfSize : BitVec 16), Accepts s →
    (∀ stream format : Byte, 4 ≤ stream.toNat ∨ format = 1 ∨ 2 < format.toNat →
      exec (.streamOpen 0xFF tag stream format halfSize) s =
        .next (sendReply ⟨0xB0, 0xFF, tag, .badValue, []⟩ s)) ∧
    ∀ (i : StreamIx) (f : Format), f ≠ .pack12 →
      let start := exec (.streamOpen 0xFF tag (streamByte i) (BitVec.ofNat 8 (formatCode f)) halfSize) s
      let size := max 256 (min halfSize.toNat 16384)
      let pages := 2 * (((if f = .log8 then size else 2 * size) + 255) / 256)
      (s.store.compaction.running = true → start = .next (sendReply ⟨0xB0, 0xFF, tag, .storeBusy, []⟩ s)) ∧
      (s.store.compaction.running = false → (getStream s i).state ≠ .closed →
        start = .next (sendReply ⟨0xB0, 0xFF, tag, .inUse, []⟩ s)) ∧
      (s.store.compaction.running = false → (getStream s i).state = .closed →
        (∀ page, FirstRoom s page pages →
          start = .next (sendReply ⟨0xB0, 0xFF, tag, if size = halfSize.toNat then .ok else .clamped,
              [.num 2 size, .num 2 page, .num 2 pages]⟩
            (putStream s i
              { state := .opened, format := f, halfSize := size, firstPage := page, pageCount := pages
                half0 := ⟨.empty, 0, 0⟩, half1 := ⟨.empty, 0, 0⟩, readHalf := 0, readOffset := 0, underrun := false
                listeners := 0, slice := (getStream s i).slice, sounding := (getStream s i).sounding }))) ∧
        ((∀ page, ¬RoomAt s page pages) →
          start = .next (sendReply ⟨0xB0, 0xFF, tag, .noSpace, spaceFields (spaceFigures s)⟩
            { s with draws := s.draws + 1 })))

/-- STREAM-FILL (R142, R143, R146): samples are appended to an EMPTY or FILLING half up to the half size, which becomes FILLING, or
with the last flag FULL with its fill count as its valid length; CLOSED is BAD_STATE, an odd count BAD_LENGTH, a FULL or PLAYING
half BUSY; a stream id above 3, a half or a last flag above 1 BAD_VALUE (R144). The other half, every other stream and every other byte
stay (the byte arrangement is log entry 9). -/
def Obligations.StreamFillAppendsToAHalf : Prop :=
  (∀ (s : State) (tag stream half last : Byte) (data : List Byte), Accepts s → data.length ≤ 240 →
    4 ≤ stream.toNat ∨ 1 < half.toNat ∨ 1 < last.toNat →
    exec (.streamFill 0xFF tag stream half last data) s = .next (sendReply ⟨0xB1, 0xFF, tag, .badValue, []⟩ s)) ∧
  ∀ (s : State) (tag : Byte) (i : StreamIx) (h : Fin 2) (last : Bool) (data : List Byte), Accepts s → data.length ≤ 240 →
    let r := getStream s i
    let x := halfOf r h
    let fill := exec (.streamFill 0xFF tag (streamByte i) (BitVec.ofNat 8 h.val) (if last then 1 else 0) data) s
    let size := if r.format = .log8 then 1 else 2
    let given := data.length / size
    let accepted := min given (r.halfSize - x.fill)
    (r.state = .closed → fill = .next (sendReply ⟨0xB1, 0xFF, tag, .badState, []⟩ s)) ∧
    (r.state ≠ .closed → data.length % size ≠ 0 → fill = .next (sendReply ⟨0xB1, 0xFF, tag, .badLength, []⟩ s)) ∧
    (r.state ≠ .closed → data.length % size = 0 → x.state = .full ∨ x.state = .playing →
      fill = .next (sendReply ⟨0xB1, 0xFF, tag, .busy, []⟩ s)) ∧
    (r.state ≠ .closed → data.length % size = 0 → x.state = .empty ∨ x.state = .filling → Memory.wf s.store.mem →
      let y : Half := ⟨if last then .full else .filling, x.fill + accepted, if last then x.fill + accepted else x.valid⟩
      ∃ m, fill = .next (sendReply ⟨0xB1, 0xFF, tag, if accepted < given then .clamped else .ok,
            [byteField accepted, .num 2 (x.fill + accepted), byteField (if last then 2 else 1)]⟩
          (putMem (putStream s i (if h = 0 then { r with half0 := y } else { r with half1 := y })) m)) ∧
        BytesWritten s.store.mem m (halfBase r h + size * x.fill) (data.take (size * accepted)))

/-- STREAM-START and STREAM-STOP (R147): START makes a stream that is not CLOSED RUNNING, STOP makes a RUNNING one STOPPED and leaves
another; standby refuses with ASLEEP, whatever the stream id, then an id above 3 with BAD_VALUE, a CLOSED stream with BAD_STATE (R144). -/
def Obligations.StreamStartAndStop : Prop :=
  (∀ (s : State) (tag stream : Byte) (code : Result), Accepts s →
    (s.ports.standby = true ∧ code = .asleep) ∨ (s.ports.standby = false ∧ 4 ≤ stream.toNat ∧ code = .badValue) →
    exec (.streamStart 0xFF tag stream) s = .next (sendReply ⟨0xB2, 0xFF, tag, code, []⟩ s) ∧
    exec (.streamStop 0xFF tag stream) s = .next (sendReply ⟨0xB3, 0xFF, tag, code, []⟩ s)) ∧
  ∀ (s : State) (tag : Byte) (i : StreamIx), Accepts s →
    let r := getStream s i
    let start := exec (.streamStart 0xFF tag (streamByte i)) s
    let stop := exec (.streamStop 0xFF tag (streamByte i)) s
    (s.ports.standby = true →
      start = .next (sendReply ⟨0xB2, 0xFF, tag, .asleep, []⟩ s) ∧
      stop = .next (sendReply ⟨0xB3, 0xFF, tag, .asleep, []⟩ s)) ∧
    (s.ports.standby = false → r.state = .closed →
      start = .next (sendReply ⟨0xB2, 0xFF, tag, .badState, []⟩ s) ∧
      stop = .next (sendReply ⟨0xB3, 0xFF, tag, .badState, []⟩ s)) ∧
    (s.ports.standby = false → r.state ≠ .closed →
      start = .next (sendReply ⟨0xB2, 0xFF, tag, .ok, [byteField 2]⟩ (putStream s i { r with state := .running })) ∧
      (r.state = .running →
        stop = .next (sendReply ⟨0xB3, 0xFF, tag, .ok, [byteField 3]⟩ (putStream s i { r with state := .stopped }))) ∧
      (r.state ≠ .running →
        stop = .next (sendReply ⟨0xB3, 0xFF, tag, .ok, [byteField (streamStateCode r.state)]⟩ s)))

/-- STREAM-CLOSE (R138, R152, R7): every player gives up its items that name the stream, reported SOURCE_CLOSED, the queued ones first, then
the stacked, then the current one (R139); the record takes its CLOSED values, but for the slice already fixed, which stands for the period
(R148; log entry 13), and nothing else changes; where an AGENT player of a position in ANNOUNCE is left IDLE by it, whisper done follows,
with its CALL report, and clears the NET player. On a CLOSED stream it changes nothing; a stream id above 3 is BAD_VALUE (R144). In which
order the players give up is free, and the whispers follow the give-ups (log entry 8). -/
def Obligations.StreamCloseEndsEveryItem : Prop :=
  (∀ (s : State) (tag stream : Byte), Accepts s → 4 ≤ stream.toNat →
    exec (.streamClose 0xFF tag stream) s = .next (sendReply ⟨0xB4, 0xFF, tag, .badValue, []⟩ s)) ∧
  ∀ (s : State) (tag : Byte) (i : StreamIx), Accepts s → (∀ p, PlayersOk (getPos s p)) →
    let close := exec (.streamClose 0xFF tag (streamByte i)) s
    let whisper (p : PosIx) : Prop :=
      (getPos s p).call = .announce ∧ (getPos s p).agent.current ≠ none ∧ (givenUp i (getPos s p).agent).current = none
    let closed : Stream :=
      { getStream State.reset i with slice := (getStream s i).slice, sounding := (getStream s i).sounding }
    ((getStream s i).state = .closed → close = .next (sendReply ⟨0xB4, 0xFF, tag, .ok, []⟩ s)) ∧
    ((getStream s i).state ≠ .closed →
      ∃ u, close = .next (sendReply ⟨0xB4, 0xFF, tag, .ok, []⟩ u) ∧
        getStream u i = closed ∧ bare u = bare (putStream { s with positions := u.positions } i closed) ∧
        (∀ p, ¬whisper p →
          getPos u p = { getPos s p with
            net := givenUp i (getPos s p).net, agent := givenUp i (getPos s p).agent }) ∧
        (∀ p, whisper p →
          getPos u p = { getPos s p with
            call := .connected, net := ⟨none, [], []⟩, agent := givenUp i (getPos s p).agent }) ∧
        (∀ p w, ¬(whisper p ∧ w = .net ∧ (givenUp i (getPos s p).net).current ≠ none) →
          let pl := getPlayer s p w
          let gone := pl.queue.filter (namesStream i) ++ pl.stack.filter (namesStream i) ++
            pl.current.toList.filter (namesStream i)
          ∀ it, gone.getLast? = some it →
            ItemLeft u p w (if pl.current.any (namesStream i) then .itemEnd else .itemDropped) .sourceClosed it 0 gone.length
              (givenUp i pl)) ∧
        (∀ p, whisper p → WhisperReport u p (getPos s p) ∧ ClearedReport u p .net (givenUp i (getPos s p).net)) ∧
        u.draws = s.draws + 1)

/-! ## Slices -/

/-- SLICE_PERIOD (R15, R24, R118, R148, R164 to R167): in standby nothing happens. A group that completes in the same instant and is the
first has begun before (log entry 10). The slices still due are processed, in some order (log entry 4); where a period was in progress its
earpiece slice joins the transmit buffer, the oldest of 3 dropped with a counted slip, and a move whose pages are copied completes. Then
the new period begins: every position that is not VACANT has a slice to process; the units read LOCKED as it stands, with the words
received or silence (log entry 34); the outputs start from silence, but for a slave Position Port's own group. A LOCKED master gives the
microphone words directly, a port that is not LOCKED silence, a LOCKED slave the head of its receive buffer, which a completing group
joins first, an empty one an inserted silent slice and a slip; the group that begins takes its slice last. Each stream fixes its slice as
StreamFixing says (R148 to R151), and the last event of a fixing is reported with the record it left (R153); the turns of compaction that
are due are taken, and a move copies 8 pages or what remains (log entry 28): each of their bytes reads at the destination as it read at the
source, every other byte as before. The link keeps all but the reports, and the read that counts them. -/
def Obligations.SlicePeriodBegins : Prop :=
  ∀ (s : State) (netIn posIn : AudioBlock) (group : Option AudioBlock),
    (s.ports.standby = true → exec (.slicePeriod netIn posIn group) s = .next s) ∧
    (s.ports.standby = false → group ≠ none → groupsToBegin s.ports = true →
      ∃ begun, exec (.frameSync .position 256) s = .next begun ∧
        exec (.slicePeriod netIn posIn group) s = exec (.slicePeriod netIn posIn group) begun) ∧
    (s.ports.standby = false → group = none ∨ groupsToBegin s.ports = false →
      let r := s.ports
      let active := s.period.active = true
      let buffered := buffering r = true
      let grouped := buffered ∧ group ≠ none
      ∃ (order : List PosIx) (u v w t : State),
        exec (.slicePeriod netIn posIn group) s = .next t ∧
        order.Perm ((List.finRange 16).filter (sliceReady s)) ∧ execAll (order.map .positionSlice) s = .next u ∧
        (active → exec .moveCompletes u = .next v) ∧ (¬active → v = u) ∧
        execAll (List.replicate 69 .turn) v = .next w ∧
        t.positions = (u.positions.map fun x => { x with sliceDue := decide (x.call ≠ .vacant) }) ∧
        t.engine = u.engine ∧ t.device = u.device ∧ t.pending = s.pending ∧
        t.link = { s.link with outbound := t.link.outbound, reading := t.link.reading } ∧
        (w.store.compaction.move = none → t.store = w.store) ∧
        (∀ m, w.store.compaction.move = some m →
          let n := min 8 (m.pages - m.copied)
          let source := (m.source + m.copied) * 256
          let dest := (m.dest + m.copied) * 256
          t.store =
            { w.store with
              mem := t.store.mem, compaction := { w.store.compaction with move := some { m with copied := m.copied + n } } } ∧
          (Memory.wf s.store.mem → (∀ c, ClipOk (getClip s c)) → SpaceOk s → MoveOk s →
            (∀ k, k < 256 * n → readByte t.store.mem (dest + k) = readByte w.store.mem (source + k)) ∧
            ∀ x, x < dest ∨ dest + 256 * n ≤ x → readByte t.store.mem x = readByte w.store.mem x)) ∧
        (∀ i, StreamOk (getStream s i) →
          ∃ mem events, (mem = w.store.mem ∨ mem = t.store.mem) ∧ StreamFixing mem (getStream u i) (getStream t i) events ∧
            ∀ e, events.getLast? = some e →
              let x := getStream t i
              ∃ n, Message.report (.stream i
                ⟨e.1, e.2, .running, x.half0, x.half1, x.readHalf, x.readOffset, x.underrun, x.listeners⟩) n ∈ t.link.outbound) ∧
        (let tx : List AudioBlock := if active ∧ buffered then (if 3 ≤ r.tx.length then r.tx.drop 1 else r.tx) ++ [u.period.earpiece] else r.tx
         let rx : List RxSlice := match group with
           | none => r.rx
           | some g => if buffered then (if 3 ≤ r.rx.length then r.rx.drop 1 else r.rx) ++ [⟨true, g⟩] else r.rx
         let mic : RxSlice :=
           if buffered then rx.headD ⟨false, silentBlock⟩
           else if r.position.state = .locked then ⟨true, posIn⟩ else ⟨false, silentBlock⟩
         let slip (b : Prop) [Decidable b] (n : Nat) : Nat := if b then min (n + 1) 65535 else n
         let rxOver := grouped ∧ 3 ≤ r.rx.length
         let rxUnder := buffered ∧ rx = []
         let txOver := (active ∧ buffered) ∧ 3 ≤ r.tx.length
         let txUnder := grouped ∧ tx = []
         t.period = ⟨true, decide (r.network.state = .locked), mic.received,
           if r.network.state = .locked then netIn else silentBlock, mic.words, silentBlock⟩ ∧
         t.ports = { r with
           rx := if buffered then rx.drop 1 else rx
           tx := if grouped then tx.drop 1 else tx
           ndout := silentBlock
           pdout :=
             if grouped then tx.headD silentBlock else if r.position.role = .master then silentBlock else r.pdout
           slips := ⟨slip rxOver r.slips.rxOver, slip rxUnder r.slips.rxUnder, slip txOver r.slips.txOver,
             slip txUnder r.slips.txUnder⟩ } ∧
         (rxOver ∨ rxUnder ∨ txOver ∨ txUnder →
           ∃ n x, Message.report (portReport .slip (.one .position) x) n ∈ t.link.outbound)))

/-- A position's slice (R7, R15, R16, R37, R54, R56, R59, R68, R90, R92, R134, R162): outside a period, once it is done, in VACANT and in
standby nothing happens (log entry 4). Otherwise stage 1 makes of the suppressor and stage 4 of the canceller, whose history holds the
transmit slice, what StageOne and StageFour say (R38 to R48, R57 to R75); the players and the tone do what PlayerInSlice and ToneInSlice
say (R131 to R133, R158, R159), and the counts of their sources follow; the engine accumulates the slice where it searches for the
position; a loss and a research request are one SHORT request; a search in flight as the slice began then completes or times out as those
rows say (SearchEngineEvents). The slots of LOCKED ports take the outputs (log entry 19). Where the AGENT player of a position in ANNOUNCE
is left IDLE, whisper done follows. Nothing else changes but the reports: LEVEL of a changed boost target (R49), ECHO of a canceller event
or, in its place, of the search that ended (R81, R97), the last item of each player to complete (R139), TONE of the last burst (R161), CALL
and the cleared NET player of a whisper done (R14). Two clauses are the model's choice: a stream makes the slice reference-active by the
judgement kept for its whole period (log entry 13), and the return is the words kept through a loss of lock (log entry 34). -/
def Obligations.PositionSliceRunsTheStages : Prop :=
  ∀ (s : State) (p : PosIx),
    (sliceReady s p = false → exec (.positionSlice p) s = .next s) ∧
    (sliceReady s p = true → PlayersOk (getPos s p) → CancellerOk (getPos s p) → EngineOk s →
      let r := getPos s p
      let w := stages p s
      let h := (r.canceller.history ++ w.transmit).drop 64
      let whisper := r.call = .announce ∧ r.agent.current ≠ none ∧ w.agent.player.current = none
      let worked : Position :=
        { r with
          suppressor := w.suppressor, canceller := w.canceller.canceller, net := w.net.player, agent := w.agent.player
          tone := w.tone, sliceDue := false }
      let searched := s.engine.inFlight.filter fun f => f.entry.position == p
      let counted (f : InFlight) : InFlight :=
        { f with elapsed := f.elapsed + 1, eligible := if w.active then f.eligible + 1 else f.eligible }
      let needed (f : InFlight) : Nat := match f.entry.request.kind with | .long => 200 | .short => 50
      let atEnd (f : InFlight) : Prop := needed f ≤ (counted f).eligible ∨ s.device.searchTimeout ≤ (counted f).elapsed
      let product (l : Nat) : Int := ((List.range 64).map fun j => refSample h j l * w.returned.getD j 0).sum
      let e : Engine := match searched with
        | none => s.engine
        | some f =>
          { s.engine with
            inFlight := some (counted f)
            accumulators :=
              if w.active then
                s.engine.accumulators.mapIdx fun l a =>
                  if f.first ≤ l ∧ l ≤ f.last then max (-140737488355328) (min (a + product l) 140737488355327) else a
              else s.engine.accumulators }
      let s1 := putEngine (putPos s p worked) e
      let s2 :=
        if w.canceller.lossRequest = true ∨ w.canceller.researchRequest = true then
          (placeRequest p ⟨.short, .auto, false⟩ s1).1
        else s1
      StageOne r.params s.period.micReceived (levelIndex (micSlice s p)) r.suppressor w.suppressor ∧
      w.returned = (s.period.netWords[s.ports.network.slotMap[p]]).toList.map BitVec.toInt ∧
      (w.active = true ↔ s.period.netLocked = true ∧
        ((r.call = .connected ∧ r.mute = false ∧ w.suppressor.vad = true) ∨
          (∃ it c, r.net.current = some it ∧ it.source = .clip c) ∨
          (∃ it i, r.net.current = some it ∧ it.source = .stream i ∧ (getStream s i).sounding = true) ∨
          (r.tone.running = true ∧ r.tone.cycle < r.tone.onTime ∧ r.tone.route ≠ .ear))) ∧
      StageFour r.params s.period.netLocked w.active w.returned { r.canceller with history := h } w.canceller ∧
      ∃ (net agent : Nat → Player) (xn xa xt : Nat → Int) (t s3 : State),
        (PlayerInSlice s (fun it => -(it.level : Int)) net xn ∧ net 0 = r.net ∧ net 64 = w.net.player) ∧
        (PlayerInSlice s
            (fun it => -((if w.suppressor.vad then min 63 (it.level + r.params.duck) else it.level : Nat) : Int)) agent xa ∧
          agent 0 = r.agent ∧ agent 64 = w.agent.player) ∧
        ToneInSlice r.tone w.tone w.toneEnded xt ∧
        exec (.positionSlice p) s = .next t ∧
        (searched = none → s3 = s2) ∧
        (∀ f, searched = some f →
          exec (if needed f ≤ (counted f).eligible then .searchCompletes else .timedOut) s2 = .next s3) ∧
        (w.suppressor.target ≠ r.suppressor.target →
          ∃ n, Message.report (.level p w.suppressor.target r.suppressor.target w.suppressor.boost w.suppressor.floor.level) n
            ∈ t.link.outbound) ∧
        (∀ ev, w.canceller.event = some ev → (∀ f, searched = some f → ¬atEnd f) →
          let c := w.canceller.canceller
          ∃ n, Message.report (.echo p ev c.state c.window c.erle r.lastSearch) n ∈ t.link.outbound) ∧
        (∀ f kept, searched = some f → atEnd f → (getPos s3 p).lastSearch = some kept →
          let c := (getPos s3 p).canceller
          ∃ n, Message.report (.echo p (.outcome kept.outcome) c.state c.window c.erle (some kept)) n ∈ t.link.outbound) ∧
        (w.toneEnded = true →
          ∃ n, Message.report (.tone p .completed w.tone.route w.tone.burstCount w.tone.bursts) n ∈ t.link.outbound) ∧
        CompletedReport s t p .agent agent ∧
        (¬(whisper ∧ w.net.player.current ≠ none) → CompletedReport s t p .net net) ∧
        (whisper → WhisperReport t p r ∧ ClearedReport t p .net w.net.player) ∧
        bare t = bare
          { putPos s3 p { getPos s3 p with
              call := if whisper then .connected else r.call
              net := if whisper then ⟨none, [], []⟩ else w.net.player } with
            ports := { s.ports with
              ndout := if s.ports.network.state = .locked then
                s.ports.ndout.set s.ports.network.slotMap[p] (slotWords w.transmit) else s.ports.ndout
              pdout := if s.ports.position.state = .locked ∧ s.ports.position.role = .master then
                s.ports.pdout.set s.ports.position.slotMap[p] (slotWords w.earpiece) else s.ports.pdout }
            period := { s.period with
              earpiece := s.period.earpiece.set s.ports.position.slotMap[p] (slotWords w.earpiece) } } ∧
        (CountsOk s → CountsOk t) ∧ (ListenersOk s → ListenersOk t))

/-- Network transmit and the earpiece (R17 to R19): each transmit sample is the saturated sum of the microphone term, which only a
CONNECTED position without mute has, the NET player's sample and a tone with route NET or BOTH; each earpiece sample the saturated sum of
the caller in CONNECTED, the AGENT player and a tone with route EAR or BOTH, by the boost less VOLUME, and the side-tone. The players'
and the tone's samples are those of PlayerInSlice and ToneInSlice (R131, R132, R158), the AGENT player's ducked while the VAD is set. What
the AGENT players hold never changes what the network is sent. -/
def Obligations.TransmitIsTheSumAndHidesTheAgent : Prop :=
  (∀ (s : State) (p : PosIx),
    let r := getPos s p
    let w := stages p s
    ∃ (net agent : Nat → Player) (xn xa xt : Nat → Int),
      (PlayerInSlice s (fun it => -(it.level : Int)) net xn ∧ net 0 = r.net) ∧
      (PlayerInSlice s
          (fun it => -((if w.suppressor.vad then min 63 (it.level + r.params.duck) else it.level : Nat) : Int)) agent xa ∧
        agent 0 = r.agent) ∧
      ToneInSlice r.tone w.tone w.toneEnded xt ∧
      ∀ k, k < 64 →
        let vns := scale ((micSlice s p).getD k 0) (-(w.suppressor.applied : Int))
        let sum := (if r.call = .connected ∧ r.mute = false then scale vns (-(r.params.txAtt : Int)) else 0) + xn k +
          (if r.tone.route = .ear then 0 else xt k)
        let inner := (if r.call = .connected then w.canceller.caller.getD k 0 else 0) + xa k +
          (if r.tone.route = .net then 0 else xt k)
        let side := if r.params.sidetone = 64 then 0 else scale vns (-(r.params.sidetone : Int))
        w.transmit.getD k 0 = max (-32768) (min sum 32767) ∧
        w.earpiece.getD k 0 =
          max (-32768) (min (scale inner ((w.suppressor.boost : Int) - r.params.volume) + side) 32767)) ∧
  ∀ (s s' t t' : State) (p : PosIx), withoutAgents s = withoutAgents s' →
    exec (.positionSlice p) s = .next t → exec (.positionSlice p) s' = .next t' → t.ports.ndout = t'.ports.ndout

/-! ## The events of a slice -/

/-- The events of the Floor Suppressor and the trackers (R30, R37 to R39, R47 to R49, R60, R73; log entry 3): a tracker due to rise
rises by one, not above the level; the VAD's hangover runs out; a refresh that is due evaluates the boost target, reports a changed
one, and the boost moves one step; the double-talk hangover runs out. Where not due, nothing changes. -/
def Obligations.SuppressorAndHangoverEvents : Prop :=
  ∀ (s : State) (p : PosIx),
    let r := getPos s p
    let x := r.suppressor
    let c := r.canceller
    (∀ level,
      ((processes s p = true ∧ s.period.micReceived = true ∧ x.floor.level ≤ level ∧ level ≤ 120 ∧
          r.params.floorRise ≤ x.floor.count + 1) →
        exec (.floorTrackerRise p .microphone level) s =
          .next (putPos s p { r with suppressor := { x with floor := ⟨min (x.floor.level + 1) level, 0⟩ } })) ∧
      (¬(processes s p = true ∧ s.period.micReceived = true ∧ x.floor.level ≤ level ∧ level ≤ 120 ∧
          r.params.floorRise ≤ x.floor.count + 1) →
        exec (.floorTrackerRise p .microphone level) s = .next s) ∧
      ((processes s p = true ∧ (c.state = .training ∨ c.state = .tracking) ∧ s.period.netLocked = true ∧
          c.floor.level ≤ level ∧ level ≤ 120 ∧ r.params.floorRise ≤ c.floor.count + 1) →
        exec (.floorTrackerRise p .callerPath level) s =
          .next (putPos s p { r with canceller := { c with floor := ⟨min (c.floor.level + 1) level, 0⟩ } })) ∧
      (¬(processes s p = true ∧ (c.state = .training ∨ c.state = .tracking) ∧ s.period.netLocked = true ∧
          c.floor.level ≤ level ∧ level ≤ 120 ∧ r.params.floorRise ≤ c.floor.count + 1) →
        exec (.floorTrackerRise p .callerPath level) s = .next s)) ∧
    (∀ ratio, exec (.vadHangoverExpiry p ratio) s =
      .next (if processes s p = true ∧ s.period.micReceived = true ∧ ratio < r.params.vadT ∧ x.hangover = 1 then
        putPos s p { r with suppressor := { x with vad := false, hangover := 0 } } else s)) ∧
    (processes s p = true → s.period.micReceived = true → r.params.boostRefresh ≤ x.refresh + 1 →
      let target := boostTarget r.params x.floor.level
      let boost := if x.boost < target then x.boost + 1 else if target < x.boost then x.boost - 1 else x.boost
      let t := putPos s p { r with suppressor := { x with target := target, boost := boost, refresh := 0 } }
      exec (.boostRefresh p) s =
        .next (if target = x.target then t else raise (.level p target x.target boost x.floor.level) t)) ∧
    (¬(processes s p = true ∧ s.period.micReceived = true ∧ r.params.boostRefresh ≤ x.refresh + 1) →
      exec (.boostRefresh p) s = .next s) ∧
    ∀ ymax xmax,
      let heard := if s.period.netLocked = true then ymax else 0
      exec (.doubleTalkHangoverExpiry p ymax xmax) s =
        .next (if processes s p = true ∧ (c.state = .training ∨ c.state = .tracking) ∧ c.hangover = 1 ∧
            ¬(0 < xmax ∧ xmax ≤ 2 * heard) then
          putPos s p { r with canceller := { c with hangover := 0 } } else s)

/-- The canceller's counters (R61, R65 to R68, R81; log entry 3): with the 25th slice at EC_CONV or above it converges to TRACKING,
with the 8th slice of an estimate 8 steps above the return it diverges to TRAINING from zero, both with their report; with the
250th slice below EC_LOSS the loss count restarts and, with EC_AUTO_SEARCH at 1, a SHORT request is placed, as it is when the
research period ends. Where not due, nothing changes. -/
def Obligations.CancellerEvents : Prop :=
  ∀ (s : State) (p : PosIx),
    let r := getPos s p
    let c := r.canceller
    let adapting := processes s p = true ∧ (c.state = .training ∨ c.state = .tracking) ∧ s.period.netLocked = true ∧
      c.freeze = false ∧ c.hangover = 0
    let request (t : State) : State := (placeRequest p ⟨.short, .auto, false⟩ t).1
    let converged := putPos s p { r with canceller :=
      { c with state := .tracking, convergence := 0, divergence := 0, loss := 0, research := 0 } }
    let diverged := putPos s p { r with canceller :=
      { c with
        state := .training, coeffs := List.replicate 256 0, erle := 0, hangover := 0, convergence := 0, divergence := 0
        loss := 0, research := 0 } }
    let lost := putPos s p { r with canceller := { c with loss := 0 } }
    let searched := putPos s p { r with canceller := { c with research := 0 } }
    let dueConverged := adapting ∧ c.state = .training ∧ r.params.ecConv ≤ c.erle ∧ 24 ≤ c.convergence
    let dueLost := adapting ∧ c.state = .tracking ∧ c.erle < r.params.ecLoss ∧ 249 ≤ c.loss
    let dueResearch := processes s p = true ∧ c.state = .tracking ∧ r.params.ecResearch ≠ 0 ∧
      r.params.ecResearch * 250 ≤ c.research + 1
    (dueConverged → exec (.converged p) s =
      .next (raise (.echo p .converged .tracking c.window c.erle r.lastSearch) converged)) ∧
    (¬dueConverged → exec (.converged p) s = .next s) ∧
    (∀ estimateLevel returnLevel,
      ((adapting ∧ returnLevel + 8 ≤ estimateLevel ∧ 7 ≤ c.divergence) →
        exec (.diverged p estimateLevel returnLevel) s =
          .next (raise (.echo p .diverged .training c.window 0 r.lastSearch) diverged)) ∧
      (¬(adapting ∧ returnLevel + 8 ≤ estimateLevel ∧ 7 ≤ c.divergence) →
        exec (.diverged p estimateLevel returnLevel) s = .next s)) ∧
    (dueLost → exec (.lossOfErle p) s = .next (if r.params.ecAutoSearch = 1 then request lost else lost)) ∧
    (¬dueLost → exec (.lossOfErle p) s = .next s) ∧
    (dueResearch → exec (.researchPeriodExpiry p) s = .next (request searched)) ∧
    (¬dueResearch → exec (.researchPeriodExpiry p) s = .next s)

/-- The engine's events (R89, R92 to R95, R97; log entry 3): the head of the queue starts on an IDLE engine alone. A search that has
its eligible slices completes with the outcome of the peak, moving the window where the peak is found elsewhere; one that has
not times out at SEARCH_TIMEOUT. The outcome is the position's last and is reported; a SHORT AUTO search without a peak asks for a
LONG one where EC_AUTO_SEARCH is 1; the follow-up joins the tail, and the head of the queue starts. Where not due, nothing
changes. -/
def Obligations.SearchEngineEvents : Prop :=
  ∀ s : State,
    (∀ e rest, s.engine.inFlight = none → s.engine.queue = e :: rest →
      let d := (getPos s e.position).canceller.window
      let span := match e.request.kind with | .long => (0, 2047) | .short => (d - 64, min 2047 (d + 319))
      exec .searchStart s = .next (putEngine s
        { inFlight := some ⟨e, span.1, span.2, 0, 0⟩, followUp := none, queue := rest
          accumulators := s.engine.accumulators.mapIdx fun l v => if span.1 ≤ l ∧ l ≤ span.2 then 0 else v })) ∧
    (s.engine.inFlight ≠ none ∨ s.engine.queue = [] → exec .searchStart s = .next s) ∧
    (s.engine.inFlight = none → exec .searchCompletes s = .next s ∧ exec .timedOut s = .next s) ∧
    ∀ f, s.engine.inFlight = some f →
      let p := f.entry.position
      let r := getPos s p
      let q := f.entry.request
      let complete := (match q.kind with | .long => 200 | .short => 50) ≤ f.eligible
      let lag := peakLag f.first f.last s.engine.accumulators
      let found := peakFound s.device.peakRatio f.first f.last s.engine.accumulators
      let d := min ((lag - 32) / 16 * 16) 1792
      let finish (o : SearchOutcome) (peak : Option Nat) (c : Canceller) : State :=
        let escalated := o = .noPeak ∧ q.kind = .short ∧ q.origin = .auto ∧ r.params.ecAutoSearch = 1
        let follow : Option SearchRequest :=
          if escalated then some (match s.engine.followUp with
            | none => ⟨.long, .auto, true⟩
            | some a => mergeRequests a ⟨.long, .auto, true⟩)
          else s.engine.followUp
        let kept : SearchFields := ⟨q, o, f.eligible, f.elapsed, peak⟩
        raise (.echo p (.outcome o) c.state c.window c.erle (some kept))
          (startHead (putEngine (putPos s p { r with canceller := c, lastSearch := some kept })
            { s.engine with
              inFlight := none, followUp := none, queue := s.engine.queue ++ (follow.toList.map fun a => ⟨p, a⟩) }))
      (processes s p = true → complete →
        (found = false → exec .searchCompletes s = .next (finish .noPeak (some lag) r.canceller)) ∧
        (found = true → d = r.canceller.window →
          exec .searchCompletes s = .next (finish .foundSame (some lag) r.canceller)) ∧
        (found = true → d ≠ r.canceller.window → (r.canceller.state = .training ∨ r.canceller.state = .tracking) →
          exec .searchCompletes s = .next (finish .foundMoved (some lag) { r.canceller with
            window := d, state := .training, coeffs := List.replicate 256 0, erle := 0, hangover := 0, convergence := 0
            divergence := 0, loss := 0, research := 0 }))) ∧
      (¬(processes s p = true ∧ complete) → exec .searchCompletes s = .next s) ∧
      (processes s p = true → ¬complete → s.device.searchTimeout ≤ f.elapsed →
        exec .timedOut s = .next (finish .timedOut none r.canceller)) ∧
      (¬(processes s p = true ∧ ¬complete ∧ s.device.searchTimeout ≤ f.elapsed) → exec .timedOut s = .next s)

/-- The ends inside the units' work (R117, R118, R120, R133, R149, R150, R153, R159, R161; log entry 3): a clip item's pass, a
tone's burst and cycle, a stream's half, a turn of compaction, and a move, after which the turns that are due are taken (log entry 28).
The next half of a stream is entered, passed through where its valid length is 0, or waited for. A turn places a clip on the lowest page
with room below it, also below a pinned allocation: that is the model's choice (log entry 33). Where not due, nothing changes. -/
def Obligations.UnitEvents : Prop :=
  (∀ (s : State) (p : PosIx) (w : PlayerId),
    (∀ it c, (getPlayer s p w).current = some it → it.source ≠ .clip c) → exec (.passEnd p w) s = .next s) ∧
  (∀ (s : State) (p : PosIx) (w : PlayerId) (it : Item) (c : ClipIx), (getPlayer s p w).current = some it →
    it.source = .clip c →
    let pl := getPlayer s p w
    let pass := exec (.passEnd p w) s
    (¬(processes s p = true ∧ (getClip s c).length ≤ it.readOffset + 1) → pass = .next s) ∧
    (processes s p = true → (getClip s c).length ≤ it.readOffset + 1 →
      (it.passes ≠ 1 →
        pass = .next (putPlayer s p w { pl with current := some { it with readOffset := 0, passes := it.passes - 1 } })) ∧
      (it.passes = 1 → ¬(w = .agent ∧ (getPos s p).call = .announce ∧ (succession pl).current = none) →
        ∃ t, pass = .next t ∧ bare t = bare (putPlayer s p w (succession pl)) ∧
          ItemLeft t p w .itemEnd .completed it 0 1 (succession pl)) ∧
      (it.passes = 1 → w = .agent → (getPos s p).call = .announce → (succession pl).current = none → PlayersOk (getPos s p) →
        ∃ t, pass = .next t ∧
          bare t = bare (putPos s p
            { getPos s p with call := .connected, net := ⟨none, [], []⟩, agent := ⟨none, [], []⟩ }) ∧
          ItemLeft t p .agent .itemEnd .completed it 0 1 ⟨none, [], []⟩ ∧ WhisperReport t p (getPos s p) ∧
          ClearedReport t p .net (getPos s p).net))) ∧
  (∀ (s : State) (p : PosIx),
    let r := getPos s p
    let t := r.tone
    let count := min (t.burstCount + 1) 255
    let ended := 0 < t.bursts ∧ count = t.bursts
    (processes s p = true → t.running = true → t.cycle + 1 = t.onTime →
      let u := putPos s p { r with tone := { t with
        running := if ended then false else true, cycle := t.cycle + 1, burstCount := count } }
      exec (.burstComplete p) s =
        .next (if ended then raise (.tone p .completed t.route count t.bursts) u else u)) ∧
    (¬(processes s p = true ∧ t.running = true ∧ t.cycle + 1 = t.onTime) → exec (.burstComplete p) s = .next s) ∧
    exec (.newCycle p) s =
      .next (if processes s p = true ∧ t.running = true ∧ t.cycle + 1 ≠ t.onTime ∧ t.cycle + 1 = t.period then
        putPos s p { r with tone := { t with cycle := 0, phase := 0 } } else s)) ∧
  (∀ (s : State) (i : StreamIx),
    let r := getStream s i
    let due := s.ports.standby = false ∧ r.state = .running ∧ (halfOf r r.readHalf).state = .playing ∧
      (halfOf r r.readHalf).valid ≤ r.readOffset + 1
    let next := otherHalf r.readHalf
    let y := halfOf r next
    (¬due → exec (.halfEmpty i) s = .next s) ∧
    (due → y.state = .full → 0 < y.valid →
      let left := withHalf (withHalf r r.readHalf ⟨.empty, 0, 0⟩) next { y with state := .playing }
      let u : Stream := { left with readHalf := next, readOffset := 0, underrun := false }
      exec (.halfEmpty i) s = .next (raiseAll
        ((if r.underrun then [(.halfEmpty, r.readHalf), (.resumed, next)] else [(.halfEmpty, r.readHalf)]).map (streamReport i u))
        (putStream s i u))) ∧
    (due → y.state = .full → y.valid = 0 →
      let left := withHalf (withHalf r r.readHalf ⟨.empty, 0, 0⟩) next ⟨.empty, 0, 0⟩
      let u : Stream := { left with readHalf := r.readHalf, readOffset := 0, underrun := true }
      let passed := [(.halfEmpty, r.readHalf), (.halfEmpty, next)]
      exec (.halfEmpty i) s = .next (raiseAll
        ((if r.underrun then passed else passed ++ [(.underrun, r.readHalf)]).map (streamReport i u)) (putStream s i u))) ∧
    (due → y.state = .empty ∨ y.state = .filling →
      let u : Stream := { withHalf r r.readHalf ⟨.empty, 0, 0⟩ with readHalf := next, readOffset := 0, underrun := true }
      exec (.halfEmpty i) s = .next (raiseAll
        ((if r.underrun then [(.halfEmpty, r.readHalf)] else [(.halfEmpty, r.readHalf), (.underrun, next)]).map (streamReport i u))
        (putStream s i u)))) ∧
  ∀ s : State,
    let k := s.store.compaction
    let at_ (page : Nat) : Compaction := { k with scan := some page }
    (¬(k.running = true ∧ k.move = none) → exec .turn s = .next s) ∧
    (k.running = true → k.move = none →
      (nextHolder s = none → ∃ t, exec .turn s = .next t ∧
        bare t = bare (putCompaction s ⟨false, none, none, 0, 0, 0⟩) ∧
        ∃ n g, Message.report (.store k.moved k.stayed k.skipped g) n ∈ t.link.outbound) ∧
      (∀ page h, nextHolder s = some (page, h) → pinned s h = true →
        exec .turn s = .next (putCompaction s { at_ page with skipped := k.skipped + 1 })) ∧
      ∀ page c, nextHolder s = some (page, .clip c) → pinned s (.clip c) = false →
        let e := getClip s c
        let fits (p : Nat) : Prop := p < e.firstPage ∧ ∀ a ∈ otherRegions s c, p + e.pageCount ≤ a.1 ∨ a.1 + a.2 ≤ p
        ((∀ p, ¬fits p) → exec .turn s = .next (putCompaction s { at_ page with stayed := k.stayed + 1 })) ∧
        ∀ p, fits p → (∀ q, q < p → ¬fits q) →
          exec .turn s = .next (putCompaction (putClip s c { e with state := .moving, beforeMove := some e.state })
            { at_ page with moved := k.moved + 1, move := some ⟨c, e.firstPage, p, e.pageCount, 0⟩ })) ∧
    ((∀ m, k.move = some m → m.copied < m.pages) → exec .moveCompletes s = .next s) ∧
    ∀ m, k.move = some m → m.pages ≤ m.copied →
      ∃ t, exec .moveCompletes s = .next t ∧
        execAll (List.replicate 69 .turn) (putCompaction
          (putClip s m.clip { getClip s m.clip with
            firstPage := m.dest, state := (getClip s m.clip).beforeMove.getD .ready, beforeMove := none })
          { k with move := none }) = .next t

/-! ## Port events -/

/-- The syncs and groups of the ports (R164, R166 to R168; log entries 10 to 12): a slave outside standby locks with the fourth
sync of a run spaced 256 bit clocks, loses the lock with a misplaced or missing sync, empties and centres the elastic buffers of
the Position Port, is silent while not LOCKED at once (log entry 19), and reports; the first group of the Position Port begins with the
frame after the lock and takes the head of the transmit buffer; a group that completes joins the receive buffer, and the next takes the
head, with a counted slip where a buffer is full or empty. In every other case nothing changes. The count 3 in LOCKED is log entry 20. -/
def Obligations.PortEvents : Prop :=
  (∀ (s : State) (id : PortId),
    let x := portOf s.ports id
    let slave := s.ports.standby = false ∧ x.role = .slave
    let isPos := id = .position
    let put (st : PortState) (n : Nat) : Ports := withPort s.ports id { x with state := st, goodSync := n }
    let lost (n : Nat) : Ports :=
      { put .syncing n with
        rx := if isPos then [] else s.ports.rx
        tx := if isPos then [] else s.ports.tx
        grouping := if isPos then false else s.ports.grouping
        ndout := if isPos then s.ports.ndout else silentBlock
        pdout := if isPos then silentBlock else s.ports.pdout }
    let locked : Ports :=
      { put .locked 3 with
        rx := if isPos then [⟨false, silentBlock⟩] else s.ports.rx
        tx := if isPos then [silentBlock] else s.ports.tx
        grouping := if isPos then false else s.ports.grouping }
    (∀ distance,
      let sync := exec (.frameSync id distance) s
      (¬slave ∨ x.state = .stopped ∨ (x.state = .locked ∧ distance = 256 ∧ (¬isPos ∨ s.ports.grouping = true)) → sync = .next s) ∧
      (slave → x.state = .locked → distance = 256 → isPos → s.ports.grouping = false →
        ∃ t, sync = .next t ∧
          bare t = bare { s with ports := { s.ports with
            grouping := true, tx := s.ports.tx.drop 1, pdout := s.ports.tx.headD silentBlock
            slips := { s.ports.slips with
              txUnder := if s.ports.tx = [] then min (s.ports.slips.txUnder + 1) 65535 else s.ports.slips.txUnder } } } ∧
          (s.ports.tx ≠ [] → t.link = s.link) ∧
          (s.ports.tx = [] → ∃ n r, Message.report (portReport .slip (.one .position) r) n ∈ t.link.outbound)) ∧
      (slave → x.state = .syncing → x.goodSync = 0 ∨ distance ≠ 256 → sync = .next (putPorts s (put .syncing 1))) ∧
      (slave → x.state = .syncing → x.goodSync ≠ 0 → x.goodSync ≠ 3 → distance = 256 →
        sync = .next (putPorts s (put .syncing (x.goodSync + 1)))) ∧
      (slave → x.state = .syncing → x.goodSync = 3 → distance = 256 →
        sync = .next (raise (portReport .locked (.one id) locked) (putPorts s locked))) ∧
      (slave → x.state = .locked → distance ≠ 256 →
        sync = .next (raise (portReport .lost (.one id) (lost 1)) (putPorts s (lost 1))))) ∧
    (slave → x.state = .locked →
      exec (.missingSync id) s = .next (raise (portReport .lost (.one id) (lost 0)) (putPorts s (lost 0)))) ∧
    (¬slave ∨ x.state ≠ .locked → exec (.missingSync id) s = .next s)) ∧
  ∀ (s : State) (g : AudioBlock),
    (buffering s.ports = false → exec (.positionPortGroup g) s = .next s) ∧
    (buffering s.ports = true →
      let tx := if s.ports.grouping = true then s.ports.tx else s.ports.tx.drop 1
      let slip (b : Prop) [Decidable b] (n : Nat) : Nat := if b then min (n + 1) 65535 else n
      ∃ t, exec (.positionPortGroup g) s = .next t ∧
        bare t = bare { s with ports := { s.ports with
          grouping := true
          rx := (if s.ports.rx.length < 3 then s.ports.rx else s.ports.rx.drop 1) ++ [⟨true, g⟩]
          tx := tx.drop 1
          pdout := tx.headD silentBlock
          slips := { s.ports.slips with
            rxOver := slip (3 ≤ s.ports.rx.length) s.ports.slips.rxOver
            txUnder := slip (tx = []) (slip (s.ports.grouping = false ∧ s.ports.tx = []) s.ports.slips.txUnder) } } } ∧
        (s.ports.rx.length < 3 → tx ≠ [] → t.link = s.link) ∧
        (3 ≤ s.ports.rx.length ∨ tx = [] → ∃ n r, Message.report (portReport .slip (.one .position) r) n ∈ t.link.outbound))
end

