-- ==== Sys2Proof/Laws/State.lean ====
section
/-! SUPPORT. One lemma per field per update of the state, and what reading a record after writing one gives. -/

namespace Sys2Proof.Machine

variable (s : State)

@[simp] theorem putPos_pending (p : PosIx) (r : Position) : (putPos s p r).pending = s.pending := rfl
@[simp] theorem putPos_link (p : PosIx) (r : Position) : (putPos s p r).link = s.link := rfl
@[simp] theorem putPos_positions (p : PosIx) (r : Position) : (putPos s p r).positions = s.positions.set p r := rfl
@[simp] theorem putPos_engine (p : PosIx) (r : Position) : (putPos s p r).engine = s.engine := rfl
@[simp] theorem putPos_store (p : PosIx) (r : Position) : (putPos s p r).store = s.store := rfl
@[simp] theorem putPos_streams (p : PosIx) (r : Position) : (putPos s p r).streams = s.streams := rfl
@[simp] theorem putPos_ports (p : PosIx) (r : Position) : (putPos s p r).ports = s.ports := rfl
@[simp] theorem putPos_period (p : PosIx) (r : Position) : (putPos s p r).period = s.period := rfl
@[simp] theorem putPos_device (p : PosIx) (r : Position) : (putPos s p r).device = s.device := rfl
@[simp] theorem putPos_draws (p : PosIx) (r : Position) : (putPos s p r).draws = s.draws := rfl

@[simp] theorem putClip_pending (c : ClipIx) (r : Clip) : (putClip s c r).pending = s.pending := rfl
@[simp] theorem putClip_link (c : ClipIx) (r : Clip) : (putClip s c r).link = s.link := rfl
@[simp] theorem putClip_positions (c : ClipIx) (r : Clip) : (putClip s c r).positions = s.positions := rfl
@[simp] theorem putClip_engine (c : ClipIx) (r : Clip) : (putClip s c r).engine = s.engine := rfl
@[simp] theorem putClip_store (c : ClipIx) (r : Clip) : (putClip s c r).store = { s.store with clips := s.store.clips.set c r } := rfl
@[simp] theorem putClip_streams (c : ClipIx) (r : Clip) : (putClip s c r).streams = s.streams := rfl
@[simp] theorem putClip_ports (c : ClipIx) (r : Clip) : (putClip s c r).ports = s.ports := rfl
@[simp] theorem putClip_period (c : ClipIx) (r : Clip) : (putClip s c r).period = s.period := rfl
@[simp] theorem putClip_device (c : ClipIx) (r : Clip) : (putClip s c r).device = s.device := rfl
@[simp] theorem putClip_draws (c : ClipIx) (r : Clip) : (putClip s c r).draws = s.draws := rfl

@[simp] theorem putStream_pending (i : StreamIx) (r : Stream) : (putStream s i r).pending = s.pending := rfl
@[simp] theorem putStream_link (i : StreamIx) (r : Stream) : (putStream s i r).link = s.link := rfl
@[simp] theorem putStream_positions (i : StreamIx) (r : Stream) : (putStream s i r).positions = s.positions := rfl
@[simp] theorem putStream_engine (i : StreamIx) (r : Stream) : (putStream s i r).engine = s.engine := rfl
@[simp] theorem putStream_store (i : StreamIx) (r : Stream) : (putStream s i r).store = s.store := rfl
@[simp] theorem putStream_streams (i : StreamIx) (r : Stream) : (putStream s i r).streams = s.streams.set i r := rfl
@[simp] theorem putStream_ports (i : StreamIx) (r : Stream) : (putStream s i r).ports = s.ports := rfl
@[simp] theorem putStream_period (i : StreamIx) (r : Stream) : (putStream s i r).period = s.period := rfl
@[simp] theorem putStream_device (i : StreamIx) (r : Stream) : (putStream s i r).device = s.device := rfl
@[simp] theorem putStream_draws (i : StreamIx) (r : Stream) : (putStream s i r).draws = s.draws := rfl

@[simp] theorem putMem_pending (m : List Host.Cell) : (putMem s m).pending = s.pending := rfl
@[simp] theorem putMem_link (m : List Host.Cell) : (putMem s m).link = s.link := rfl
@[simp] theorem putMem_positions (m : List Host.Cell) : (putMem s m).positions = s.positions := rfl
@[simp] theorem putMem_engine (m : List Host.Cell) : (putMem s m).engine = s.engine := rfl
@[simp] theorem putMem_store (m : List Host.Cell) : (putMem s m).store = { s.store with mem := m } := rfl
@[simp] theorem putMem_streams (m : List Host.Cell) : (putMem s m).streams = s.streams := rfl
@[simp] theorem putMem_ports (m : List Host.Cell) : (putMem s m).ports = s.ports := rfl
@[simp] theorem putMem_period (m : List Host.Cell) : (putMem s m).period = s.period := rfl
@[simp] theorem putMem_device (m : List Host.Cell) : (putMem s m).device = s.device := rfl
@[simp] theorem putMem_draws (m : List Host.Cell) : (putMem s m).draws = s.draws := rfl

@[simp] theorem putCompaction_pending (k : Compaction) : (putCompaction s k).pending = s.pending := rfl
@[simp] theorem putCompaction_link (k : Compaction) : (putCompaction s k).link = s.link := rfl
@[simp] theorem putCompaction_positions (k : Compaction) : (putCompaction s k).positions = s.positions := rfl
@[simp] theorem putCompaction_engine (k : Compaction) : (putCompaction s k).engine = s.engine := rfl
@[simp] theorem putCompaction_store (k : Compaction) : (putCompaction s k).store = { s.store with compaction := k } := rfl
@[simp] theorem putCompaction_streams (k : Compaction) : (putCompaction s k).streams = s.streams := rfl
@[simp] theorem putCompaction_ports (k : Compaction) : (putCompaction s k).ports = s.ports := rfl
@[simp] theorem putCompaction_period (k : Compaction) : (putCompaction s k).period = s.period := rfl
@[simp] theorem putCompaction_device (k : Compaction) : (putCompaction s k).device = s.device := rfl
@[simp] theorem putCompaction_draws (k : Compaction) : (putCompaction s k).draws = s.draws := rfl

@[simp] theorem putEngine_pending (e : Engine) : (putEngine s e).pending = s.pending := rfl
@[simp] theorem putEngine_link (e : Engine) : (putEngine s e).link = s.link := rfl
@[simp] theorem putEngine_positions (e : Engine) : (putEngine s e).positions = s.positions := rfl
@[simp] theorem putEngine_engine (e : Engine) : (putEngine s e).engine = e := rfl
@[simp] theorem putEngine_store (e : Engine) : (putEngine s e).store = s.store := rfl
@[simp] theorem putEngine_streams (e : Engine) : (putEngine s e).streams = s.streams := rfl
@[simp] theorem putEngine_ports (e : Engine) : (putEngine s e).ports = s.ports := rfl
@[simp] theorem putEngine_period (e : Engine) : (putEngine s e).period = s.period := rfl
@[simp] theorem putEngine_device (e : Engine) : (putEngine s e).device = s.device := rfl
@[simp] theorem putEngine_draws (e : Engine) : (putEngine s e).draws = s.draws := rfl

@[simp] theorem putLink_pending (l : Link) : (putLink s l).pending = s.pending := rfl
@[simp] theorem putLink_link (l : Link) : (putLink s l).link = l := rfl
@[simp] theorem putLink_positions (l : Link) : (putLink s l).positions = s.positions := rfl
@[simp] theorem putLink_engine (l : Link) : (putLink s l).engine = s.engine := rfl
@[simp] theorem putLink_store (l : Link) : (putLink s l).store = s.store := rfl
@[simp] theorem putLink_streams (l : Link) : (putLink s l).streams = s.streams := rfl
@[simp] theorem putLink_ports (l : Link) : (putLink s l).ports = s.ports := rfl
@[simp] theorem putLink_period (l : Link) : (putLink s l).period = s.period := rfl
@[simp] theorem putLink_device (l : Link) : (putLink s l).device = s.device := rfl
@[simp] theorem putLink_draws (l : Link) : (putLink s l).draws = s.draws := rfl

@[simp] theorem putPorts_pending (r : Ports) : (putPorts s r).pending = s.pending := rfl
@[simp] theorem putPorts_link (r : Ports) : (putPorts s r).link = s.link := rfl
@[simp] theorem putPorts_positions (r : Ports) : (putPorts s r).positions = s.positions := rfl
@[simp] theorem putPorts_engine (r : Ports) : (putPorts s r).engine = s.engine := rfl
@[simp] theorem putPorts_store (r : Ports) : (putPorts s r).store = s.store := rfl
@[simp] theorem putPorts_streams (r : Ports) : (putPorts s r).streams = s.streams := rfl
@[simp] theorem putPorts_ports (r : Ports) : (putPorts s r).ports = r := rfl
@[simp] theorem putPorts_period (r : Ports) : (putPorts s r).period = s.period := rfl
@[simp] theorem putPorts_device (r : Ports) : (putPorts s r).device = s.device := rfl
@[simp] theorem putPorts_draws (r : Ports) : (putPorts s r).draws = s.draws := rfl

@[simp] theorem putPeriod_pending (r : Period) : (putPeriod s r).pending = s.pending := rfl
@[simp] theorem putPeriod_link (r : Period) : (putPeriod s r).link = s.link := rfl
@[simp] theorem putPeriod_positions (r : Period) : (putPeriod s r).positions = s.positions := rfl
@[simp] theorem putPeriod_engine (r : Period) : (putPeriod s r).engine = s.engine := rfl
@[simp] theorem putPeriod_store (r : Period) : (putPeriod s r).store = s.store := rfl
@[simp] theorem putPeriod_streams (r : Period) : (putPeriod s r).streams = s.streams := rfl
@[simp] theorem putPeriod_ports (r : Period) : (putPeriod s r).ports = s.ports := rfl
@[simp] theorem putPeriod_period (r : Period) : (putPeriod s r).period = r := rfl
@[simp] theorem putPeriod_device (r : Period) : (putPeriod s r).device = s.device := rfl
@[simp] theorem putPeriod_draws (r : Period) : (putPeriod s r).draws = s.draws := rfl

@[simp] theorem spendDraw_pending : (spendDraw s).pending = s.pending := rfl
@[simp] theorem spendDraw_link : (spendDraw s).link = s.link := rfl
@[simp] theorem spendDraw_positions : (spendDraw s).positions = s.positions := rfl
@[simp] theorem spendDraw_engine : (spendDraw s).engine = s.engine := rfl
@[simp] theorem spendDraw_store : (spendDraw s).store = s.store := rfl
@[simp] theorem spendDraw_streams : (spendDraw s).streams = s.streams := rfl
@[simp] theorem spendDraw_ports : (spendDraw s).ports = s.ports := rfl
@[simp] theorem spendDraw_period : (spendDraw s).period = s.period := rfl
@[simp] theorem spendDraw_device : (spendDraw s).device = s.device := rfl
@[simp] theorem spendDraw_draws : (spendDraw s).draws = s.draws + 1 := rfl

@[simp] theorem getPos_putClip (c : ClipIx) (r : Clip) (q : PosIx) : getPos (putClip s c r) q = getPos s q := rfl
@[simp] theorem getPos_putStream (i : StreamIx) (r : Stream) (q : PosIx) : getPos (putStream s i r) q = getPos s q := rfl
@[simp] theorem getPos_putMem (m : List Host.Cell) (q : PosIx) : getPos (putMem s m) q = getPos s q := rfl
@[simp] theorem getPos_putCompaction (k : Compaction) (q : PosIx) : getPos (putCompaction s k) q = getPos s q := rfl
@[simp] theorem getPos_putEngine (e : Engine) (q : PosIx) : getPos (putEngine s e) q = getPos s q := rfl
@[simp] theorem getPos_putLink (l : Link) (q : PosIx) : getPos (putLink s l) q = getPos s q := rfl
@[simp] theorem getPos_putPorts (r : Ports) (q : PosIx) : getPos (putPorts s r) q = getPos s q := rfl
@[simp] theorem getPos_putPeriod (r : Period) (q : PosIx) : getPos (putPeriod s r) q = getPos s q := rfl
@[simp] theorem getPos_spendDraw (q : PosIx) : getPos (spendDraw s) q = getPos s q := rfl

@[simp] theorem getPos_putPos_self (q : PosIx) (r : Position) : getPos (putPos s q r) q = r := by
  simp [getPos, putPos]

theorem getPos_putPos_ne (p q : PosIx) (r : Position) (h : p ≠ q) : getPos (putPos s p r) q = getPos s q := by
  have h' : p.val ≠ q.val := fun e => h (Fin.ext e)
  simp [getPos, putPos, h']

theorem getPos_putPos (p q : PosIx) (r : Position) : getPos (putPos s p r) q = if p = q then r else getPos s q := by
  by_cases h : p = q
  · subst h; simp
  · simp [getPos_putPos_ne s p q r h, h]

@[simp] theorem getClip_putPos (p : PosIx) (r : Position) (q : ClipIx) : getClip (putPos s p r) q = getClip s q := rfl
@[simp] theorem getClip_putStream (i : StreamIx) (r : Stream) (q : ClipIx) : getClip (putStream s i r) q = getClip s q := rfl
@[simp] theorem getClip_putMem (m : List Host.Cell) (q : ClipIx) : getClip (putMem s m) q = getClip s q := rfl
@[simp] theorem getClip_putCompaction (k : Compaction) (q : ClipIx) : getClip (putCompaction s k) q = getClip s q := rfl
@[simp] theorem getClip_putEngine (e : Engine) (q : ClipIx) : getClip (putEngine s e) q = getClip s q := rfl
@[simp] theorem getClip_putLink (l : Link) (q : ClipIx) : getClip (putLink s l) q = getClip s q := rfl
@[simp] theorem getClip_putPorts (r : Ports) (q : ClipIx) : getClip (putPorts s r) q = getClip s q := rfl
@[simp] theorem getClip_putPeriod (r : Period) (q : ClipIx) : getClip (putPeriod s r) q = getClip s q := rfl
@[simp] theorem getClip_spendDraw (q : ClipIx) : getClip (spendDraw s) q = getClip s q := rfl

@[simp] theorem getClip_putClip_self (q : ClipIx) (r : Clip) : getClip (putClip s q r) q = r := by
  simp [getClip, putClip]

theorem getClip_putClip_ne (p q : ClipIx) (r : Clip) (h : p ≠ q) : getClip (putClip s p r) q = getClip s q := by
  have h' : p.val ≠ q.val := fun e => h (Fin.ext e)
  simp [getClip, putClip, h']

theorem getClip_putClip (p q : ClipIx) (r : Clip) : getClip (putClip s p r) q = if p = q then r else getClip s q := by
  by_cases h : p = q
  · subst h; simp
  · simp [getClip_putClip_ne s p q r h, h]

@[simp] theorem getStream_putPos (p : PosIx) (r : Position) (q : StreamIx) : getStream (putPos s p r) q = getStream s q := rfl
@[simp] theorem getStream_putClip (c : ClipIx) (r : Clip) (q : StreamIx) : getStream (putClip s c r) q = getStream s q := rfl
@[simp] theorem getStream_putMem (m : List Host.Cell) (q : StreamIx) : getStream (putMem s m) q = getStream s q := rfl
@[simp] theorem getStream_putCompaction (k : Compaction) (q : StreamIx) : getStream (putCompaction s k) q = getStream s q := rfl
@[simp] theorem getStream_putEngine (e : Engine) (q : StreamIx) : getStream (putEngine s e) q = getStream s q := rfl
@[simp] theorem getStream_putLink (l : Link) (q : StreamIx) : getStream (putLink s l) q = getStream s q := rfl
@[simp] theorem getStream_putPorts (r : Ports) (q : StreamIx) : getStream (putPorts s r) q = getStream s q := rfl
@[simp] theorem getStream_putPeriod (r : Period) (q : StreamIx) : getStream (putPeriod s r) q = getStream s q := rfl
@[simp] theorem getStream_spendDraw (q : StreamIx) : getStream (spendDraw s) q = getStream s q := rfl

@[simp] theorem getStream_putStream_self (q : StreamIx) (r : Stream) : getStream (putStream s q r) q = r := by
  simp [getStream, putStream]

theorem getStream_putStream_ne (p q : StreamIx) (r : Stream) (h : p ≠ q) : getStream (putStream s p r) q = getStream s q := by
  have h' : p.val ≠ q.val := fun e => h (Fin.ext e)
  simp [getStream, putStream, h']

theorem getStream_putStream (p q : StreamIx) (r : Stream) : getStream (putStream s p r) q = if p = q then r else getStream s q := by
  by_cases h : p = q
  · subst h; simp
  · simp [getStream_putStream_ne s p q r h, h]

@[simp] theorem putPos_getPos (p : PosIx) : putPos s p (getPos s p) = s := by simp [putPos, getPos]

@[simp] theorem putLink_link_eq : putLink s s.link = s := rfl

@[simp] theorem playerOf_withPlayer_self (r : Position) (w : PlayerId) (pl : Player) : playerOf (withPlayer r w pl) w = pl := by
  cases w <;> rfl

theorem playerOf_withPlayer_ne (r : Position) (v w : PlayerId) (pl : Player) (h : v ≠ w) :
    playerOf (withPlayer r v pl) w = playerOf r w := by
  cases v <;> cases w <;> first | rfl | exact absurd rfl h

@[simp] theorem getPlayer_putPlayer_self (p : PosIx) (w : PlayerId) (pl : Player) :
    getPlayer (putPlayer s p w pl) p w = pl := by
  simp [getPlayer, putPlayer]

theorem getPlayer_putPlayer_other (p : PosIx) (v w : PlayerId) (pl : Player) (h : v ≠ w) :
    getPlayer (putPlayer s p v pl) p w = getPlayer s p w := by
  simp [getPlayer, putPlayer, playerOf_withPlayer_ne _ _ _ _ h]

theorem getPlayer_putPlayer_ne (p q : PosIx) (v w : PlayerId) (pl : Player) (h : p ≠ q) :
    getPlayer (putPlayer s p v pl) q w = getPlayer s q w := by
  simp [getPlayer, putPlayer, getPos_putPos_ne s p q _ h]

end Sys2Proof.Machine
end

