-- ==== Sys2Proof/Laws/Link.lean ====
section
/-! SUPPORT. The Control Link: the fields a body gives back, what raising a report makes of the link, what the arrival of a frame
and the taking of commands can do. -/

namespace Sys2Proof.Machine

/-! ## The bytes of a body -/

/-- A two-byte number is read back from its bytes, as `simp` writes them. -/
@[simp] theorem bytes16_value (v : BitVec 16) : v.toNat >>> 8 % 256 * 256 + v.toNat % 256 = v.toNat := by
  have h := v.isLt
  rw [Nat.shiftRight_eq_div_pow]
  omega

/-- A four-byte number is read back from its bytes, as `simp` writes them. -/
@[simp] theorem bytes32_value (v : BitVec 32) :
    (v.toNat >>> 24 % 256 * 256 + v.toNat >>> 16 % 256) * 65536 + (v.toNat >>> 8 % 256 * 256 + v.toNat % 256) = v.toNat := by
  have h := v.isLt
  simp only [Nat.shiftRight_eq_div_pow]
  omega

/-- The fields of an item spec. -/
def itemFields (i : ItemSpec) : ItemFields :=
  ⟨i.sourceKind.toNat, i.sourceId.toNat, i.startOffset.toNat, i.loops.toNat, i.level.toNat, i.tag.toNat⟩

theorem itemAt_itemBytes (i : ItemSpec) : itemAt (itemBytes i) 0 = itemFields i := by
  simp [itemAt, itemBytes, itemFields, byteAt, u32At, u16At, bytes32]

theorem itemAt_play (a b : Byte) (i : ItemSpec) : itemAt (a :: b :: itemBytes i) 2 = itemFields i := by
  simp [itemAt, itemBytes, itemFields, byteAt, u32At, u16At, bytes32]

@[simp] theorem itemBytes_length (i : ItemSpec) : (itemBytes i).length = 9 := rfl

theorem optionalPart_none (n : Nat) (rest : List Byte) : optionalPart n (optionalBytes none ++ rest) = some (none, rest) := by
  simp [optionalPart, optionalBytes]

theorem optionalPart_some (n : Nat) (b rest : List Byte) (h : b.length = n) :
    optionalPart n (optionalBytes (some b) ++ rest) = some (some b, rest) := by
  subst h; simp [optionalPart, optionalBytes]

theorem optionalPart_map {α : Type} (n : Nat) (f : α → List Byte) (x : Option α) (rest : List Byte) (h : ∀ a, (f a).length = n) :
    optionalPart n (optionalBytes (x.map f) ++ rest) = some (x.map f, rest) := by
  cases x with
  | none => exact optionalPart_none n rest
  | some a => exact optionalPart_some n (f a) rest (h a)

/-- The parts of an offer are read back from its body. -/
theorem offerAt_offerBytes (w n : Option ItemSpec) (h : Option (BitVec 16)) :
    offerAt (offerBytes w n h) = some ⟨w.map itemFields, n.map itemFields, h.map BitVec.toNat⟩ := by
  have hh := optionalPart_map 2 bytes16 h [] (fun _ => rfl)
  rw [List.append_nil] at hh
  rw [offerAt, offerBytes, List.append_assoc, optionalPart_map 9 itemBytes w _ (fun _ => rfl)]
  simp only [optionalPart_map 9 itemBytes n _ (fun _ => rfl), hh, Option.map_map]
  cases w <;> cases n <;> cases h <;> simp [itemAt_itemBytes, u16At, byteAt, bytes16]

/-! ## Raising a report (R178 to R180) -/

/-- One kind and source. -/
theorem sameReport_iff (b c : ReportBody) : sameReport b c = true ↔ reportKind c = reportKind b ∧ reportSource c = reportSource b := by
  rw [sameReport, Bool.and_eq_true, beq_iff_eq, beq_iff_eq, @eq_comm _ (reportKind b), @eq_comm _ (reportSource b)]

/-- Where no report of its kind and source is pending, nothing is coalesced. -/
theorem coalesce_none {b : ReportBody} {l : List Message} (h : ∀ x ∈ reportsOf l, sameReport b x = false) : coalesce b l = none := by
  induction l with
  | nil => rfl
  | cons m rest ih =>
    cases m with
    | reply r => simp [coalesce, ih h]
    | report c n =>
      have hc := h c (List.mem_cons_self ..)
      simp [coalesce, hc, ih fun x hx => h x (List.mem_cons_of_mem _ hx)]

/-- The first report of its kind and source is replaced in its place, and counts one more. -/
theorem coalesce_some {b c : ReportBody} {n : Nat} {before after : List Message} (hc : sameReport b c = true)
    (h : ∀ x ∈ reportsOf before, sameReport b x = false) :
    coalesce b (before ++ .report c n :: after) = some (before ++ .report b (min (n + 1) 255) :: after) := by
  induction before with
  | nil => simp [coalesce, hc]
  | cons m rest ih =>
    cases m with
    | reply r => simp [coalesce, ih h]
    | report d k =>
      have hd := h d (List.mem_cons_self ..)
      simp [coalesce, hd, ih fun x hx => h x (List.mem_cons_of_mem _ hx)]

/-- What a report raised makes of the link. -/
theorem raise_raises (b : ReportBody) (s : State) : Raises b s.link (raise b s).link := by
  have hf : ∀ x, ¬(reportKind x = reportKind b ∧ reportSource x = reportSource b) → sameReport b x = false := fun x hx => by
    rw [← Bool.not_eq_true, sameReport_iff]; exact hx
  refine ⟨fun before c n after ho hc hb => ?_, fun hb => ?_⟩
  · have hb' := fun x hx => hf x (hb x hx)
    rw [raise, ho, coalesce_some ((sameReport_iff b c).mpr hc) hb']
    refine ⟨rfl, ?_⟩
    simp only [putLink_link]
    congr 1
    funext r
    cases before with
    | nil => simp [noteCoalesced, headTakes, (sameReport_iff b c).mpr hc]
    | cons m rest =>
      cases m with
      | reply q => simp [noteCoalesced, headTakes]
      | report d k => simp [noteCoalesced, headTakes, hb' d (List.mem_cons_self ..)]
  · rw [raise, coalesce_none fun x hx => hf x (hb x hx)]
    exact ⟨rfl, rfl⟩

/-- A report raised leaves the attention line asserted (R178). -/
theorem attention_raise (b : ReportBody) (s : State) : attention (raise b s) = true := by
  unfold raise
  split
  · rename_i out h
    cases hl : s.link.outbound with
    | nil => rw [hl] at h; cases h
    | cons m rest =>
      rw [hl] at h
      cases m with
      | reply q =>
        simp only [coalesce, Option.map_eq_some_iff] at h
        obtain ⟨x, -, rfl⟩ := h
        rfl
      | report c n =>
        simp only [coalesce] at h
        split at h
        · cases h; rfl
        · simp only [Option.map_eq_some_iff] at h
          obtain ⟨x, -, rfl⟩ := h
          rfl
  · simp [attention]

/-- A reply handed over leaves the attention line asserted (R178). -/
@[simp] theorem attention_sendReply (r : Reply) (s : State) : attention (sendReply r s) = true := by simp [attention, sendReply]

/-! ## Taking commands (R175, R177) -/

/-- Nothing is taken where nothing waits, or there is no reply space. -/
theorem drainAll_idle {s : State} (h : s.link.inbound = [] ∨ 8 ≤ repliesWaiting s.link.outbound) : drainAll s = s := by
  unfold drainAll
  rcases h with h | h
  · rw [h]; rfl
  · cases hi : s.link.inbound with
    | nil => rfl
    | cons f rest => simp [drain, hi, Nat.not_lt.mpr h]

/-- A frame that arrives while the link takes frames at once is taken. -/
theorem writeFrame_takes {f : Frame} {s : State} (h : Accepts s) (hk : f.kind ≠ 0x04) (hb : f.body.length ≤ 248) :
    writeFrame f s = takeCommand f s := by
  obtain ⟨h1, h2, h3⟩ := h
  have hs : putLink s { s.link with inbound := [] } = s := by rw [← h1]; rfl
  have ha : arrive f s = putLink s { s.link with inbound := [f] } := by simp [arrive, h1, h2]
  rw [writeFrame, if_neg (by omega), if_neg hk, ha]
  simp only [drainAll, putLink_link, List.length_singleton]
  simp only [drain, putLink_link, h3, if_pos]
  show takeCommand f (putLink s { s.link with inbound := [] }) = _
  rw [hs]

/-- A frame that the latch or a full queue discards. -/
theorem writeFrame_overruns {f : Frame} {s : State} (h : s.link.latch = true ∨ 8 ≤ s.link.inbound.length)
    (hk : f.kind ≠ 0x04) (hb : f.body.length ≤ 248) : writeFrame f s = drainAll (overrun s) := by
  rw [writeFrame, if_neg (by omega), if_neg hk, arrive, if_pos h]

/-- A known command of the right size is handed to its unit. -/
theorem takeCommand_known {f : Frame} {s : State} (c : Command) (hk : commandOfKind f.kind.toNat = some c)
    (hb : bodyFits c f.body = true) :
    takeCommand f s =
      sendReply ⟨f.kind ||| 0x80, f.src, f.tag, (perform c f.src.toNat f.body s).2.1, (perform c f.src.toNat f.body s).2.2⟩
        (perform c f.src.toNat f.body s).1 := by
  simp [takeCommand, respond, hk, hb, replyTo, replyKind]

/-- The position that a source byte names. -/
theorem sourceByte_toNat (p : PosIx) : (sourceByte p).toNat = p.val := by
  have := p.isLt
  simp [sourceByte]; omega

/-- A position command that the part takes outside standby. -/
theorem onPosition_awake {s : State} (h : s.ports.standby = false) (p : PosIx) (act : PosIx → Answer) :
    onPosition s (sourceByte p).toNat act = act p := by
  rw [sourceByte_toNat]
  simp [onPosition, h]

/-- A position command is answered by its action, ASLEEP or BAD_SOURCE. -/
theorem onPosition_cases (s : State) (src : Nat) (act : PosIx → Answer) :
    (∃ p : PosIx, src = p.val ∧ s.ports.standby = false ∧ onPosition s src act = act p) ∨
    (src < 16 ∧ s.ports.standby = true ∧ onPosition s src act = refuse s .asleep) ∨
    (16 ≤ src ∧ onPosition s src act = refuse s .badSource) := by
  by_cases h : src < 16
  · cases hs : s.ports.standby
    · exact .inl ⟨⟨src, h⟩, rfl, rfl, by simp [onPosition, h, hs]⟩
    · exact .inr (.inl ⟨h, rfl, by simp [onPosition, h, hs]⟩)
  · exact .inr (.inr ⟨by omega, by simp [onPosition, h]⟩)

/-- A device command is answered by its action or BAD_SOURCE. -/
theorem onDevice_cases (s : State) (src : Nat) (act : Answer) :
    (src = 255 ∧ onDevice s src act = act) ∨ (src ≠ 255 ∧ onDevice s src act = refuse s .badSource) := by
  by_cases h : src = 255
  · exact .inl ⟨h, by simp [onDevice, h]⟩
  · exact .inr ⟨h, by simp [onDevice, h]⟩

end Sys2Proof.Machine
end

