-- ==== Sys2Proof/Laws/Commands.lean ====
section
/-! SUPPORT. What each command row does where the link takes its frame at once: its unit's answer and the reply (R173, R177). -/

namespace Sys2Proof.Machine

/-- A state with the reply that an answer gives. -/
def answered (kind src tag : Byte) (a : Answer) : State := sendReply ⟨kind, src, tag, a.2.1, a.2.2⟩ a.1

@[simp] theorem answered_refuse (kind src tag : Byte) (s : State) (r : Result) :
    answered kind src tag (refuse s r) = sendReply ⟨kind, src, tag, r, []⟩ s := rfl

@[simp] theorem answered_taken (kind src tag : Byte) (s : State) :
    answered kind src tag (taken s) = sendReply ⟨kind, src, tag, .ok, []⟩ s := rfl

theorem okOrClamped_ne (P : Prop) [Decidable P] : okOrClamped (decide (¬P)) = if P then .ok else .clamped := by
  by_cases h : P <;> simp [okOrClamped, h]

/-- A frame of a known command and the right size, taken at once. -/
theorem frame_answered {s : State} (h : Accepts s) (c : Command) (kind src tag : Byte) (body : List Byte)
    (hk : commandOfKind kind.toNat = some c) (hf : bodyFits c body = true) (hb : body.length ≤ 248) :
    writeFrame ⟨kind, src, tag, body⟩ s = answered (kind ||| 0x80) src tag (perform c src.toNat body s) := by
  have h4 : kind ≠ 4 := by
    intro e
    rw [e] at hk
    simp [commandOfKind] at hk
  rw [writeFrame_takes h h4 hb, takeCommand_known c hk hf]
  rfl

/-- The size of an offer's body. -/
theorem offerBytes_length (w n : Option ItemSpec) (h : Option (BitVec 16)) : (offerBytes w n h).length ≤ 23 := by
  cases w <;> cases n <;> cases h <;> simp [offerBytes, optionalBytes, bytes16]

/-- The size of a list of two-byte numbers. -/
theorem bytes16_list_length (l : List (BitVec 16)) : (l.flatMap bytes16).length = 2 * l.length := by
  induction l with
  | nil => rfl
  | cons v rest ih => simp [List.flatMap_cons, ih, bytes16]; omega

variable {s : State}

theorem exec_resetDevice (h : Accepts s) (src tag erase : Byte) :
    exec (.resetDevice src tag erase) s =
      .next (answered 0x81 src tag (perform .reset src.toNat [0, erase] s)) :=
  congrArg Host.Outcome.next
    (frame_answered h .reset 0x01 src tag [0, erase] rfl rfl (by simp))

theorem exec_resetPosition (h : Accepts s) (src tag erase : Byte) :
    exec (.resetPosition src tag erase) s =
      .next (answered 0x81 src tag (perform .reset src.toNat [1, erase] s)) :=
  congrArg Host.Outcome.next
    (frame_answered h .reset 0x01 src tag [1, erase] rfl rfl (by simp))

theorem exec_sleep (h : Accepts s) (src tag : Byte) :
    exec (.sleep src tag) s =
      .next (answered 0x82 src tag (perform .sleep src.toNat [] s)) :=
  congrArg Host.Outcome.next
    (frame_answered h .sleep 0x02 src tag [] rfl rfl (by simp))

theorem exec_wake (h : Accepts s) (src tag : Byte) :
    exec (.wake src tag) s =
      .next (answered 0x83 src tag (perform .wake src.toNat [] s)) :=
  congrArg Host.Outcome.next
    (frame_answered h .wake 0x03 src tag [] rfl rfl (by simp))

theorem exec_portSet (h : Accepts s) (src tag port role : Byte) (slots : List Byte) (hl : slots.length = 16) :
    exec (.portSet src tag port role slots) s =
      .next (answered 0x85 src tag (perform .portSet src.toNat (port :: role :: slots) s)) :=
  congrArg Host.Outcome.next
    (frame_answered h .portSet 0x05 src tag (port :: role :: slots) rfl (by simp [bodyFits, hl]) (by simp [hl]))

theorem exec_portStatus (h : Accepts s) (src tag : Byte) :
    exec (.portStatus src tag) s =
      .next (answered 0x86 src tag (perform .portStatus src.toNat [] s)) :=
  congrArg Host.Outcome.next
    (frame_answered h .portStatus 0x06 src tag [] rfl rfl (by simp))

theorem exec_setParam (h : Accepts s) (src tag id : Byte) (value : BitVec 16) :
    exec (.setParam src tag id value) s =
      .next (answered 0x88 src tag (perform .setParam src.toNat (id :: bytes16 value) s)) :=
  congrArg Host.Outcome.next
    (frame_answered h .setParam 0x08 src tag (id :: bytes16 value) rfl rfl (by simp [bytes16]))

theorem exec_getParam (h : Accepts s) (src tag id : Byte) :
    exec (.getParam src tag id) s =
      .next (answered 0x89 src tag (perform .getParam src.toNat [id] s)) :=
  congrArg Host.Outcome.next
    (frame_answered h .getParam 0x09 src tag [id] rfl rfl (by simp))

theorem exec_posOpen (h : Accepts s) (src tag : Byte) :
    exec (.posOpen src tag) s =
      .next (answered 0x90 src tag (perform .posOpen src.toNat [] s)) :=
  congrArg Host.Outcome.next
    (frame_answered h .posOpen 0x10 src tag [] rfl rfl (by simp))

theorem exec_posClose (h : Accepts s) (src tag : Byte) :
    exec (.posClose src tag) s =
      .next (answered 0x91 src tag (perform .posClose src.toNat [] s)) :=
  congrArg Host.Outcome.next
    (frame_answered h .posClose 0x11 src tag [] rfl rfl (by simp))

theorem exec_callOffer (h : Accepts s) (src tag : Byte) (whisper net : Option ItemSpec) (hint : Option (BitVec 16)) :
    exec (.callOffer src tag whisper net hint) s =
      .next (answered 0x92 src tag (perform .callOffer src.toNat (offerBytes whisper net hint) s)) :=
  congrArg Host.Outcome.next
    (frame_answered h .callOffer 0x12 src tag (offerBytes whisper net hint)
      rfl
      (by simp [bodyFits, offerAt_offerBytes]) (by have := offerBytes_length whisper net hint; omega))

theorem exec_callConnect (h : Accepts s) (src tag : Byte) :
    exec (.callConnect src tag) s =
      .next (answered 0x93 src tag (perform .callConnect src.toNat [] s)) :=
  congrArg Host.Outcome.next
    (frame_answered h .callConnect 0x13 src tag [] rfl rfl (by simp))

theorem exec_callHold (h : Accepts s) (src tag : Byte) (item : ItemSpec) :
    exec (.callHold src tag item) s =
      .next (answered 0x94 src tag (perform .callHold src.toNat (itemBytes item) s)) :=
  congrArg Host.Outcome.next
    (frame_answered h .callHold 0x14 src tag (itemBytes item) rfl rfl (by simp))

theorem exec_callClear (h : Accepts s) (src tag : Byte) :
    exec (.callClear src tag) s =
      .next (answered 0x95 src tag (perform .callClear src.toNat [] s)) :=
  congrArg Host.Outcome.next
    (frame_answered h .callClear 0x15 src tag [] rfl rfl (by simp))

theorem exec_mute (h : Accepts s) (src tag value : Byte) :
    exec (.mute src tag value) s =
      .next (answered 0x96 src tag (perform .mute src.toNat [value] s)) :=
  congrArg Host.Outcome.next
    (frame_answered h .mute 0x16 src tag [value] rfl rfl (by simp))

theorem exec_posStatus (h : Accepts s) (src tag : Byte) :
    exec (.posStatus src tag) s =
      .next (answered 0x97 src tag (perform .posStatus src.toNat [] s)) :=
  congrArg Host.Outcome.next
    (frame_answered h .posStatus 0x17 src tag [] rfl rfl (by simp))

theorem exec_ecMode (h : Accepts s) (src tag value : Byte) :
    exec (.ecMode src tag value) s =
      .next (answered 0x98 src tag (perform .ecMode src.toNat [value] s)) :=
  congrArg Host.Outcome.next
    (frame_answered h .ecMode 0x18 src tag [value] rfl rfl (by simp))

theorem exec_ecFreeze (h : Accepts s) (src tag value : Byte) :
    exec (.ecFreeze src tag value) s =
      .next (answered 0x99 src tag (perform .ecFreeze src.toNat [value] s)) :=
  congrArg Host.Outcome.next
    (frame_answered h .ecFreeze 0x19 src tag [value] rfl rfl (by simp))

theorem exec_search (h : Accepts s) (src tag value : Byte) :
    exec (.search src tag value) s =
      .next (answered 0x9A src tag (perform .search src.toNat [value] s)) :=
  congrArg Host.Outcome.next
    (frame_answered h .search 0x1A src tag [value] rfl rfl (by simp))

theorem exec_windowSet (h : Accepts s) (src tag : Byte) (lag : BitVec 16) :
    exec (.windowSet src tag lag) s =
      .next (answered 0x9B src tag (perform .windowSet src.toNat (bytes16 lag) s)) :=
  congrArg Host.Outcome.next
    (frame_answered h .windowSet 0x1B src tag (bytes16 lag) rfl rfl (by simp [bytes16]))

theorem exec_ecStatus (h : Accepts s) (src tag : Byte) :
    exec (.ecStatus src tag) s =
      .next (answered 0x9C src tag (perform .ecStatus src.toNat [] s)) :=
  congrArg Host.Outcome.next
    (frame_answered h .ecStatus 0x1C src tag [] rfl rfl (by simp))

theorem exec_playNow (h : Accepts s) (src tag player : Byte) (item : ItemSpec) :
    exec (.playNow src tag player item) s =
      .next (answered 0xA0 src tag (perform .play src.toNat (player :: 0 :: itemBytes item) s)) :=
  congrArg Host.Outcome.next
    (frame_answered h .play 0x20 src tag (player :: 0 :: itemBytes item) rfl rfl (by simp))

theorem exec_playInterrupt (h : Accepts s) (src tag player : Byte) (item : ItemSpec) :
    exec (.playInterrupt src tag player item) s =
      .next (answered 0xA0 src tag (perform .play src.toNat (player :: 1 :: itemBytes item) s)) :=
  congrArg Host.Outcome.next
    (frame_answered h .play 0x20 src tag (player :: 1 :: itemBytes item) rfl rfl (by simp))

theorem exec_playNext (h : Accepts s) (src tag player : Byte) (item : ItemSpec) :
    exec (.playNext src tag player item) s =
      .next (answered 0xA0 src tag (perform .play src.toNat (player :: 2 :: itemBytes item) s)) :=
  congrArg Host.Outcome.next
    (frame_answered h .play 0x20 src tag (player :: 2 :: itemBytes item) rfl rfl (by simp))

theorem exec_playOnly (h : Accepts s) (src tag player : Byte) (item : ItemSpec) :
    exec (.playOnly src tag player item) s =
      .next (answered 0xA0 src tag (perform .play src.toNat (player :: 3 :: itemBytes item) s)) :=
  congrArg Host.Outcome.next
    (frame_answered h .play 0x20 src tag (player :: 3 :: itemBytes item) rfl rfl (by simp))

theorem exec_stopCurrent (h : Accepts s) (src tag player : Byte) :
    exec (.stopCurrent src tag player) s =
      .next (answered 0xA1 src tag (perform .stop src.toNat [player, 0] s)) :=
  congrArg Host.Outcome.next
    (frame_answered h .stop 0x21 src tag [player, 0] rfl rfl (by simp))

theorem exec_stopAll (h : Accepts s) (src tag player : Byte) :
    exec (.stopAll src tag player) s =
      .next (answered 0xA1 src tag (perform .stop src.toNat [player, 1] s)) :=
  congrArg Host.Outcome.next
    (frame_answered h .stop 0x21 src tag [player, 1] rfl rfl (by simp))

theorem exec_playerStatus (h : Accepts s) (src tag : Byte) :
    exec (.playerStatus src tag) s =
      .next (answered 0xA2 src tag (perform .playerStatus src.toNat [] s)) :=
  congrArg Host.Outcome.next
    (frame_answered h .playerStatus 0x22 src tag [] rfl rfl (by simp))

theorem exec_toneStart (h : Accepts s) (src tag : Byte) (frequency : BitVec 16) (level : Byte)
    (period onTime : BitVec 16) (bursts route : Byte) :
    exec (.toneStart src tag frequency level period onTime bursts route) s =
      .next (answered 0xA4 src tag
        (perform .toneStart src.toNat (bytes16 frequency ++ [level] ++ bytes16 period ++ bytes16 onTime ++ [bursts, route]) s)) :=
  congrArg Host.Outcome.next
    (frame_answered h .toneStart 0x24 src tag
      (bytes16 frequency ++ [level] ++ bytes16 period ++ bytes16 onTime ++ [bursts, route])
      rfl rfl (by simp [bytes16]))

theorem exec_toneStop (h : Accepts s) (src tag : Byte) :
    exec (.toneStop src tag) s =
      .next (answered 0xA5 src tag (perform .toneStop src.toNat [] s)) :=
  congrArg Host.Outcome.next
    (frame_answered h .toneStop 0x25 src tag [] rfl rfl (by simp))

theorem exec_clipAlloc (h : Accepts s) (src tag clip format : Byte) (capacity : BitVec 32) :
    exec (.clipAlloc src tag clip format capacity) s =
      .next (answered 0xA8 src tag (perform .clipAlloc src.toNat (clip :: format :: bytes32 capacity) s)) :=
  congrArg Host.Outcome.next
    (frame_answered h .clipAlloc 0x28 src tag (clip :: format :: bytes32 capacity) rfl rfl (by simp [bytes32]))

theorem exec_clipWrite (h : Accepts s) (src tag clip : Byte) (data : List Byte) (hl : data.length ≤ 240) :
    exec (.clipWrite src tag clip data) s =
      .next (answered 0xA9 src tag (perform .clipWrite src.toNat (clip :: data) s)) :=
  congrArg Host.Outcome.next
    (frame_answered h .clipWrite 0x29 src tag (clip :: data) rfl (by simp [bodyFits]; omega) (by simp; omega))

theorem exec_clipEnd (h : Accepts s) (src tag clip : Byte) :
    exec (.clipEnd src tag clip) s =
      .next (answered 0xAA src tag (perform .clipEnd src.toNat [clip] s)) :=
  congrArg Host.Outcome.next
    (frame_answered h .clipEnd 0x2A src tag [clip] rfl rfl (by simp))

theorem exec_clipFree (h : Accepts s) (src tag clip : Byte) :
    exec (.clipFree src tag clip) s =
      .next (answered 0xAB src tag (perform .clipFree src.toNat [clip] s)) :=
  congrArg Host.Outcome.next
    (frame_answered h .clipFree 0x2B src tag [clip] rfl rfl (by simp))

theorem exec_clipInfo (h : Accepts s) (src tag clip : Byte) :
    exec (.clipInfo src tag clip) s =
      .next (answered 0xAC src tag (perform .clipInfo src.toNat [clip] s)) :=
  congrArg Host.Outcome.next
    (frame_answered h .clipInfo 0x2C src tag [clip] rfl rfl (by simp))

theorem exec_storeCompact (h : Accepts s) (src tag : Byte) :
    exec (.storeCompact src tag) s =
      .next (answered 0xAD src tag (perform .storeCompact src.toNat [] s)) :=
  congrArg Host.Outcome.next
    (frame_answered h .storeCompact 0x2D src tag [] rfl rfl (by simp))

theorem exec_expandLoad (h : Accepts s) (src tag start : Byte) (entries : List (BitVec 16))
    (h1 : 1 ≤ entries.length) (hl : entries.length ≤ 120) :
    exec (.expandLoad src tag start entries) s =
      .next (answered 0xAE src tag (perform .expandLoad src.toNat (start :: entries.flatMap bytes16) s)) :=
  congrArg Host.Outcome.next
    (frame_answered h .expandLoad 0x2E src tag (start :: entries.flatMap bytes16)
      rfl
      (by simp only [bodyFits, List.length_cons, bytes16_list_length]; simp; omega)
      (by simp only [List.length_cons, bytes16_list_length]; omega))

theorem exec_streamOpen (h : Accepts s) (src tag stream format : Byte) (halfSize : BitVec 16) :
    exec (.streamOpen src tag stream format halfSize) s =
      .next (answered 0xB0 src tag (perform .streamOpen src.toNat (stream :: format :: bytes16 halfSize) s)) :=
  congrArg Host.Outcome.next
    (frame_answered h .streamOpen 0x30 src tag (stream :: format :: bytes16 halfSize) rfl rfl (by simp [bytes16]))

theorem exec_streamFill (h : Accepts s) (src tag stream half last : Byte) (data : List Byte) (hl : data.length ≤ 240) :
    exec (.streamFill src tag stream half last data) s =
      .next (answered 0xB1 src tag (perform .streamFill src.toNat (stream :: half :: last :: data) s)) :=
  congrArg Host.Outcome.next
    (frame_answered h .streamFill 0x31 src tag (stream :: half :: last :: data) rfl (by simp [bodyFits]; omega) (by simp; omega))

theorem exec_streamStart (h : Accepts s) (src tag stream : Byte) :
    exec (.streamStart src tag stream) s =
      .next (answered 0xB2 src tag (perform .streamStart src.toNat [stream] s)) :=
  congrArg Host.Outcome.next
    (frame_answered h .streamStart 0x32 src tag [stream] rfl rfl (by simp))

theorem exec_streamStop (h : Accepts s) (src tag stream : Byte) :
    exec (.streamStop src tag stream) s =
      .next (answered 0xB3 src tag (perform .streamStop src.toNat [stream] s)) :=
  congrArg Host.Outcome.next
    (frame_answered h .streamStop 0x33 src tag [stream] rfl rfl (by simp))

theorem exec_streamClose (h : Accepts s) (src tag stream : Byte) :
    exec (.streamClose src tag stream) s =
      .next (answered 0xB4 src tag (perform .streamClose src.toNat [stream] s)) :=
  congrArg Host.Outcome.next
    (frame_answered h .streamClose 0x34 src tag [stream] rfl rfl (by simp))

theorem exec_streamStatus (h : Accepts s) (src tag stream : Byte) :
    exec (.streamStatus src tag stream) s =
      .next (answered 0xB5 src tag (perform .streamStatus src.toNat [stream] s)) :=
  congrArg Host.Outcome.next
    (frame_answered h .streamStatus 0x35 src tag [stream] rfl rfl (by simp))

end Sys2Proof.Machine
end

