-- ==== Sys2Proof/Laws/Memory.lean ====
section
/-! SUPPORT. The store's bytes: what is read back after a write, and that every operation keeps the canonical form. -/

namespace Sys2Proof.Machine

/-! ## One byte -/

/-- Every entry of an insertion is the new one or an old one. -/
theorem mem_insertByte {m : List Host.Cell} {a : Nat} {v : Byte} {c : Host.Cell} (h : c ∈ insertByte m a v) :
    (c = (a, v) ∧ v ≠ 0) ∨ c ∈ m := by
  induction m with
  | nil =>
    simp only [insertByte] at h
    split at h
    · exact .inr h
    · exact .inl ⟨List.mem_singleton.mp h, ‹_›⟩
  | cons x rest ih =>
    obtain ⟨b, w⟩ := x
    simp only [insertByte] at h
    split at h
    · split at h
      · exact .inr h
      · rcases List.mem_cons.mp h with h | h
        · exact .inl ⟨h, ‹_›⟩
        · exact .inr h
    · split at h
      · split at h
        · exact .inr (List.mem_cons_of_mem _ h)
        · rcases List.mem_cons.mp h with h | h
          · exact .inl ⟨h, ‹_›⟩
          · exact .inr (List.mem_cons_of_mem _ h)
      · rcases List.mem_cons.mp h with h | h
        · exact .inr (h ▸ List.mem_cons_self)
        · rcases ih h with h | h
          · exact .inl h
          · exact .inr (List.mem_cons_of_mem _ h)

/-- The addresses of an insertion stay strictly rising. -/
theorem insertByte_sorted {m : List Host.Cell} (a : Nat) (v : Byte) (h : m.Pairwise (fun x y => x.1 < y.1)) :
    (insertByte m a v).Pairwise (fun x y => x.1 < y.1) := by
  induction m with
  | nil => simp only [insertByte]; split <;> simp
  | cons x rest ih =>
    obtain ⟨b, w⟩ := x
    have hr := List.pairwise_cons.mp h
    simp only [insertByte]
    split
    · split
      · exact h
      · refine List.pairwise_cons.mpr ⟨fun y hy => ?_, h⟩
        rcases List.mem_cons.mp hy with hy | hy
        · subst hy; assumption
        · exact Nat.lt_trans ‹a < b› (hr.1 y hy)
    · split
      · subst a
        split
        · exact hr.2
        · exact List.pairwise_cons.mpr ⟨fun y hy => hr.1 y hy, hr.2⟩
      · refine List.pairwise_cons.mpr ⟨fun y hy => ?_, ih hr.2⟩
        rcases mem_insertByte hy with ⟨hy, -⟩ | hy
        · subst hy; show b < a; omega
        · exact hr.1 y hy

/-- A byte written keeps the canonical form. -/
theorem writeByte_wf {m : List Host.Cell} (a : Nat) (v : Byte) (h : Memory.wf m) : Memory.wf (writeByte m a v) := by
  unfold writeByte
  split
  · refine ⟨insertByte_sorted a v h.1, fun c hc => ?_⟩
    rcases mem_insertByte hc with ⟨rfl, hv⟩ | hc
    · exact ⟨‹_›, hv⟩
    · exact h.2 c hc
  · exact h

/-- An address below every entry reads 0. -/
theorem readByte_below {m : List Host.Cell} {a : Nat} (h : ∀ c ∈ m, a < c.1) : readByte m a = 0 := by
  induction m with
  | nil => rfl
  | cons x rest ih =>
    obtain ⟨b, w⟩ := x
    have hb : a < b := h _ List.mem_cons_self
    rw [readByte, if_neg (by omega)]
    exact ih fun c hc => h c (List.mem_cons_of_mem _ hc)

/-- Reading after an insertion. -/
theorem readByte_insertByte {m : List Host.Cell} (a i : Nat) (v : Byte) (h : m.Pairwise (fun x y => x.1 < y.1)) :
    readByte (insertByte m a v) i = if i = a then v else readByte m i := by
  induction m with
  | nil =>
    simp only [insertByte]
    by_cases hi : i = a
    · subst hi; split <;> simp_all [readByte]
    · rw [if_neg hi]; split
      · rfl
      · simp only [readByte]; exact if_neg fun e => hi (Eq.symm e)
  | cons x rest ih =>
    obtain ⟨b, w⟩ := x
    have hr := List.pairwise_cons.mp h
    simp only [insertByte]
    split
    · have hab : a < b := ‹_›
      split
      · subst v
        by_cases hi : i = a
        · subst hi
          rw [if_pos rfl]
          exact readByte_below fun c hc => by
            rcases List.mem_cons.mp hc with hc | hc
            · subst hc; exact hab
            · exact Nat.lt_trans hab (hr.1 c hc)
        · rw [if_neg hi]
      · simp only [readByte]
        by_cases hi : i = a
        · subst hi; simp
        · rw [if_neg (fun e => hi e.symm), if_neg hi]
    · split
      · subst a
        split
        · subst v
          by_cases hi : i = b
          · subst hi
            rw [if_pos rfl]
            exact readByte_below fun c hc => hr.1 c hc
          · rw [if_neg hi, readByte, if_neg (fun e => hi e.symm)]
        · simp only [readByte]
          by_cases hi : i = b
          · subst hi; simp
          · rw [if_neg (fun e => hi e.symm), if_neg hi, if_neg (fun e => hi e.symm)]
      · simp only [readByte]
        rw [ih hr.2]
        by_cases hb : b = i
        · subst hb
          simp [show b ≠ a by omega]
        · simp [hb]

/-- Reading after a write. -/
theorem readByte_writeByte {m : List Host.Cell} (a i : Nat) (v : Byte) (h : Memory.wf m) :
    readByte (writeByte m a v) i = if i = a ∧ a < storeBytes then v else readByte m i := by
  unfold writeByte
  split
  · rw [readByte_insertByte a i v h.1]; simp [*]
  · simp [*]

/-- Nothing outside the store is listed. -/
theorem readByte_outside {m : List Host.Cell} (a : Nat) (h : Memory.wf m) (ha : storeBytes ≤ a) : readByte m a = 0 := by
  have h2 : ∀ c ∈ m, c.1 < a := fun c hc => Nat.lt_of_lt_of_le (h.2 c hc).1 ha
  clear h ha
  induction m with
  | nil => rfl
  | cons x rest ih =>
    have hx := h2 x List.mem_cons_self
    rw [readByte, if_neg (by omega)]
    exact ih fun c hc => h2 c (List.mem_cons_of_mem _ hc)

/-! ## Runs of bytes -/

/-- Bytes written keep the canonical form. -/
theorem writeBytes_wf {m : List Host.Cell} (a : Nat) (bs : List Byte) (h : Memory.wf m) : Memory.wf (writeBytes m a bs) := by
  induction bs generalizing m a with
  | nil => exact h
  | cons v rest ih => exact ih (a + 1) (writeByte_wf a v h)

/-- Reading outside a run of bytes written. -/
theorem readByte_writeBytes_outside {m : List Host.Cell} (a i : Nat) (bs : List Byte) (h : Memory.wf m)
    (hi : i < a ∨ a + bs.length ≤ i) : readByte (writeBytes m a bs) i = readByte m i := by
  induction bs generalizing m a with
  | nil => rfl
  | cons v rest ih =>
    simp only [List.length_cons] at hi
    rw [writeBytes, ih (a + 1) (writeByte_wf a v h) (by omega), readByte_writeByte a i v h, if_neg (by omega)]

/-- Copied bytes keep the canonical form. -/
theorem copyBytes_wf (n src dst : Nat) {m : List Host.Cell} (h : Memory.wf m) : Memory.wf (copyBytes n src dst m) := by
  induction n generalizing src dst m with
  | zero => exact h
  | succ n ih => exact ih (src + 1) (dst + 1) (writeByte_wf dst _ h)

/-- Bytes copied downwards within the store read at the destination as they read at the source before; every other byte is as before
(R118). -/
theorem readByte_copyBytes (n src dst a : Nat) {m : List Host.Cell} (h : Memory.wf m) (hd : dst < src) (hn : dst + n ≤ storeBytes) :
    readByte (copyBytes n src dst m) a = if dst ≤ a ∧ a < dst + n then readByte m (src + (a - dst)) else readByte m a := by
  induction n generalizing src dst m with
  | zero => rw [copyBytes, if_neg (by omega)]
  | succ n ih =>
    rw [copyBytes, ih (src + 1) (dst + 1) (writeByte_wf dst _ h) (by omega) (by omega),
      readByte_writeByte _ _ _ h, readByte_writeByte _ _ _ h]
    by_cases h1 : a = dst
    · subst h1
      rw [if_neg (by omega), if_pos ⟨rfl, by omega⟩, if_pos (by omega), Nat.sub_self, Nat.add_zero]
    · by_cases h2 : dst + 1 ≤ a ∧ a < dst + 1 + n
      · rw [if_pos h2, if_neg (by omega), if_pos (by omega)]
        congr 1
        omega
      · rw [if_neg h2, if_neg (by omega), if_neg (by omega)]

/-- The samples of a PACK12 clip keep the canonical form. -/
theorem packSample_wf (x : Clip × List Host.Cell) (v : Int) (h : Memory.wf x.2) : Memory.wf (packSample x v).2 := by
  unfold packSample
  split
  · exact h
  · exact writeBytes_wf _ _ h

/-- The samples a CLIP-WRITE accepts keep the canonical form. -/
theorem writeSamples_wf (n : Nat) (data : List Byte) (c : Clip) {m : List Host.Cell} (h : Memory.wf m) :
    Memory.wf (writeSamples n data c m).2 := by
  unfold writeSamples
  split
  · exact writeBytes_wf _ _ h
  · exact writeBytes_wf _ _ h
  · generalize (samplesOfBytes data).take n = l
    have : ∀ x : Clip × List Host.Cell, Memory.wf x.2 → Memory.wf (l.foldl packSample x).2 := by
      induction l with
      | nil => exact fun _ hx => hx
      | cons v rest ih => exact fun x hx => ih _ (packSample_wf x v hx)
    exact this (c, m) h

/-- The state after power-on lists nothing. -/
theorem reset_mem_wf : Memory.wf State.reset.store.mem := by
  simp [Memory.wf, State.reset, powerOnState, storeAtPowerOn]

end Sys2Proof.Machine
end

