-- ==== Sys2Proof/Laws/Ops.lean ====
section
/-! SUPPORT. What each shared operation can do, said once: reports and replies, free orders, the bare form of a state, and the
players' operations. -/

namespace Sys2Proof.Machine

/-! ## Reports and replies (R178, R179) -/

/-- A coalesced report is in the queue. -/
theorem coalesce_mem {b : ReportBody} : ∀ {l out : List Message}, coalesce b l = some out → ∃ n, Message.report b n ∈ out
  | [], _, h => by cases h
  | .reply r :: rest, out, h => by
    simp only [coalesce, Option.map_eq_some_iff] at h
    obtain ⟨a, h1, rfl⟩ := h
    obtain ⟨n, hn⟩ := coalesce_mem h1
    exact ⟨n, List.mem_cons_of_mem _ hn⟩
  | .report c k :: rest, out, h => by
    simp only [coalesce] at h
    split at h
    · cases h; exact ⟨_, List.mem_cons_self⟩
    · simp only [Option.map_eq_some_iff] at h
      obtain ⟨a, h1, rfl⟩ := h
      obtain ⟨n, hn⟩ := coalesce_mem h1
      exact ⟨n, List.mem_cons_of_mem _ hn⟩

/-- Coalescing keeps the replies. -/
theorem coalesce_replies {b : ReportBody} : ∀ {l out : List Message}, coalesce b l = some out →
    repliesWaiting out = repliesWaiting l
  | [], _, h => by cases h
  | .reply r :: rest, out, h => by
    simp only [coalesce, Option.map_eq_some_iff] at h
    obtain ⟨a, h1, rfl⟩ := h
    simp [repliesWaiting, coalesce_replies h1]
  | .report c k :: rest, out, h => by
    simp only [coalesce] at h
    split at h
    · cases h; rfl
    · simp only [Option.map_eq_some_iff] at h
      obtain ⟨a, h1, rfl⟩ := h
      simp [repliesWaiting, coalesce_replies h1]

theorem repliesWaiting_append (l m : List Message) : repliesWaiting (l ++ m) = repliesWaiting l + repliesWaiting m := by
  induction l with
  | nil => simp [repliesWaiting]
  | cons x rest ih =>
    cases x <;> simp only [List.cons_append, repliesWaiting, ih]
    omega

/-- A raised report changes the outbound queue and the read in progress, and nothing else. -/
theorem raise_cases (b : ReportBody) (s : State) :
    ∃ out reading, raise b s = putLink s { s.link with outbound := out, reading := reading } ∧
      (∃ n, Message.report b n ∈ out) ∧ repliesWaiting out = repliesWaiting s.link.outbound := by
  unfold raise
  split
  · rename_i out h
    exact ⟨out, _, rfl, coalesce_mem h, coalesce_replies h⟩
  · exact ⟨_, s.link.reading, rfl, ⟨1, by simp⟩, by simp [repliesWaiting_append, repliesWaiting]⟩

@[simp] theorem raise_pending (b : ReportBody) (s : State) : (raise b s).pending = s.pending := by unfold raise; split <;> rfl
@[simp] theorem raise_positions (b : ReportBody) (s : State) : (raise b s).positions = s.positions := by
  unfold raise; split <;> rfl
@[simp] theorem raise_engine (b : ReportBody) (s : State) : (raise b s).engine = s.engine := by unfold raise; split <;> rfl
@[simp] theorem raise_store (b : ReportBody) (s : State) : (raise b s).store = s.store := by unfold raise; split <;> rfl
@[simp] theorem raise_streams (b : ReportBody) (s : State) : (raise b s).streams = s.streams := by unfold raise; split <;> rfl
@[simp] theorem raise_ports (b : ReportBody) (s : State) : (raise b s).ports = s.ports := by unfold raise; split <;> rfl
@[simp] theorem raise_period (b : ReportBody) (s : State) : (raise b s).period = s.period := by unfold raise; split <;> rfl
@[simp] theorem raise_device (b : ReportBody) (s : State) : (raise b s).device = s.device := by unfold raise; split <;> rfl
@[simp] theorem raise_draws (b : ReportBody) (s : State) : (raise b s).draws = s.draws := by unfold raise; split <;> rfl
@[simp] theorem raise_inbound (b : ReportBody) (s : State) : (raise b s).link.inbound = s.link.inbound := by
  unfold raise; split <;> rfl
@[simp] theorem raise_latch (b : ReportBody) (s : State) : (raise b s).link.latch = s.link.latch := by
  unfold raise; split <;> rfl
@[simp] theorem raise_replies (b : ReportBody) (s : State) :
    repliesWaiting (raise b s).link.outbound = repliesWaiting s.link.outbound := by
  obtain ⟨out, reading, h, -, hr⟩ := raise_cases b s
  rw [h]; exact hr
@[simp] theorem getPos_raise (b : ReportBody) (s : State) (p : PosIx) : getPos (raise b s) p = getPos s p := by
  simp [getPos]
@[simp] theorem getClip_raise (b : ReportBody) (s : State) (c : ClipIx) : getClip (raise b s) c = getClip s c := by
  simp [getClip]
@[simp] theorem getStream_raise (b : ReportBody) (s : State) (i : StreamIx) : getStream (raise b s) i = getStream s i := by
  simp [getStream]
@[simp] theorem getPlayer_raise (b : ReportBody) (s : State) (p : PosIx) (w : PlayerId) :
    getPlayer (raise b s) p w = getPlayer s p w := by
  simp [getPlayer]

/-- A raised report is in the outbound queue. -/
theorem raise_mem (b : ReportBody) (s : State) : ∃ n, Message.report b n ∈ (raise b s).link.outbound := by
  obtain ⟨out, reading, h, hm, -⟩ := raise_cases b s
  rw [h]; exact hm

/-! ## The bare form of a state -/

@[simp] theorem bare_raise (b : ReportBody) (s : State) : bare (raise b s) = bare s := by unfold raise; split <;> rfl

@[simp] theorem bare_raiseAll (bs : List ReportBody) (s : State) : bare (raiseAll bs s) = bare s := by
  induction bs generalizing s with
  | nil => rfl
  | cons b rest ih => exact (ih (raise b s)).trans (bare_raise b s)

@[simp] theorem bare_spendDraw (s : State) : bare (spendDraw s) = bare s := rfl

theorem bare_putPos {s t : State} (h : bare s = bare t) (p : PosIx) (r : Position) : bare (putPos s p r) = bare (putPos t p r) := by
  simp only [bare, State.mk.injEq] at h ⊢
  simp_all [putPos]

/-- States of one bare form agree on every position. -/
theorem getPos_of_bare {s t : State} (h : bare s = bare t) (p : PosIx) : getPos s p = getPos t p := by
  have hp : s.positions = t.positions := by
    have := congrArg State.positions h
    exact this
  simp [getPos, hp]

@[simp] theorem bare_clipEnters (src : Source) (s : State) : bare (clipEnters src s) = bare s := by
  cases src with
  | stream i => rfl
  | clip c =>
    simp only [clipEnters, bare, putClip, getClip, State.mk.injEq, Store.mk.injEq, true_and, and_true]
    ext j hj
    all_goals simp only [Vector.getElem_map, Vector.getElem_set]; split <;> simp_all

@[simp] theorem bare_clipLeaves (src : Source) (s : State) : bare (clipLeaves src s) = bare s := by
  cases src with
  | stream i => rfl
  | clip c =>
    simp only [clipLeaves, bare, putClip, getClip, State.mk.injEq, Store.mk.injEq, true_and, and_true]
    ext j hj
    all_goals simp only [Vector.getElem_map, Vector.getElem_set]; split <;> simp_all

@[simp] theorem bare_listens (src : Source) (s : State) : bare (listens src s) = bare s := by
  cases src with
  | clip c => rfl
  | stream i =>
    simp only [listens, bare, putStream, getStream, State.mk.injEq, true_and, and_true]
    ext j hj
    all_goals simp only [Vector.getElem_map, Vector.getElem_set]; split <;> simp_all

@[simp] theorem bare_unlistens (src : Source) (s : State) : bare (unlistens src s) = bare s := by
  cases src with
  | clip c => rfl
  | stream i =>
    simp only [unlistens, bare, putStream, getStream, State.mk.injEq, true_and, and_true]
    ext j hj
    all_goals simp only [Vector.getElem_map, Vector.getElem_set]; split <;> simp_all

/-! ## Free orders (log entry 5) -/

theorem putIn_perm {α : Type} (i : Nat) (x : α) (l : List α) : (putIn i x l).Perm (x :: l) := by
  unfold putIn
  exact List.perm_middle.trans (by rw [List.take_append_drop])

/-- A free order is a rearrangement. -/
theorem freeOrder_perm {α : Type} (draw : Nat) (l : List α) : (freeOrder draw l).Perm l := by
  induction l with
  | nil => exact .nil
  | cons x rest ih =>
    simp only [freeOrder]
    split
    · rename_i h
      rw [h] at ih
      rw [List.nil_perm.mp ih]
    · rename_i y ys h
      rw [h] at ih
      exact (putIn_perm _ _ _).trans (ih.cons x)

/-- What every act keeps, acts in a free order keep. -/
theorem inFreeOrder_keeps {P : State → Prop} (acts : List (State → State)) (s : State) (hs : P s)
    (h : ∀ act ∈ acts, ∀ t, P t → P (act t)) (hd : ∀ t, P t → P (spendDraw t)) : P (inFreeOrder acts s) := by
  refine hd _ ?_
  have hm : ∀ act ∈ freeOrder s.draws acts, ∀ t, P t → P (act t) :=
    fun act ha => h act ((freeOrder_perm s.draws acts).mem_iff.mp ha)
  generalize freeOrder s.draws acts = l at hm
  clear h
  induction l generalizing s with
  | nil => exact hs
  | cons a rest ih =>
    exact ih (a s) (hm a List.mem_cons_self s hs) fun act ha => hm act (List.mem_cons_of_mem _ ha)

end Sys2Proof.Machine
end

