-- ==== Sys2Proof/Laws/Players.lean ====
section
/-! SUPPORT. What each operation of the players does to the player it is for: everything else keeps its bare form. -/

namespace Sys2Proof.Machine

variable {s t : State} (p : PosIx) (w : PlayerId)

theorem getPlayer_of_bare (h : bare s = bare t) : getPlayer s p w = getPlayer t p w := by
  simp [getPlayer, getPos_of_bare h]

theorem bare_putPlayer (h : bare s = bare t) (pl : Player) : bare (putPlayer s p w pl) = bare (putPlayer t p w pl) := by
  rw [putPlayer, putPlayer, getPos_of_bare h]
  exact bare_putPos h p _

@[simp] theorem putPlayer_putPlayer (s : State) (a b : Player) : putPlayer (putPlayer s p w a) p w b = putPlayer s p w b := by
  cases w <;> simp [putPlayer, putPos, getPos, withPlayer]

@[simp] theorem putPlayer_getPlayer (s : State) : putPlayer s p w (getPlayer s p w) = s := by
  cases w <;> exact putPos_getPos s p

@[simp] theorem bare_reportItem (ev : ItemEvent) (reason : LeaveReason) (it : Item) (offset : Nat) (s : State) :
    bare (reportItem p w ev reason it offset s) = bare s := bare_raise _ _

/-- The queued items that are dropped leave the queue. -/
theorem bare_dropQueued (reason : LeaveReason) (sel : Item → Bool) (l kept : List Item) (s : State)
    (h : (getPlayer s p w).queue = kept ++ l) :
    bare (dropQueued p w reason sel kept l s) =
      bare (putPlayer s p w { getPlayer s p w with queue := kept ++ l.filter fun it => !sel it }) := by
  induction l generalizing kept s with
  | nil =>
    rw [dropQueued, List.filter_nil, ← h]
    exact (congrArg bare (putPlayer_getPlayer p w s)).symm
  | cons it rest ih =>
    rw [dropQueued]
    cases hs : sel it
    · rw [if_neg (by simp), ih (kept ++ [it]) s (by simp [h])]
      simp [hs]
    · simp only [if_true]
      have hb : ∀ X : State, X = reportItem p w .itemDropped reason it 0 (clipLeaves it.source
          (putPlayer s p w { getPlayer s p w with queue := kept ++ rest })) →
          bare X = bare (putPlayer s p w { getPlayer s p w with queue := kept ++ rest }) := by
        rintro _ rfl; simp
      have hg := getPlayer_of_bare p w (hb _ rfl)
      rw [getPlayer_putPlayer_self] at hg
      rw [ih kept _ (by rw [hg])]
      rw [bare_putPlayer p w (hb _ rfl), hg]
      simp [hs]

/-- The stacked items that are dropped leave the stack. -/
theorem bare_dropStacked (reason : LeaveReason) (sel : Item → Bool) (l kept : List Item) (s : State)
    (h : (getPlayer s p w).stack = kept ++ l) :
    bare (dropStacked p w reason sel kept l s) =
      bare (putPlayer s p w { getPlayer s p w with stack := kept ++ l.filter fun it => !sel it }) := by
  induction l generalizing kept s with
  | nil =>
    rw [dropStacked, List.filter_nil, ← h]
    exact (congrArg bare (putPlayer_getPlayer p w s)).symm
  | cons it rest ih =>
    rw [dropStacked]
    cases hs : sel it
    · rw [if_neg (by simp), ih (kept ++ [it]) s (by simp [h])]
      simp [hs]
    · simp only [if_true]
      have hb : ∀ X : State, X = reportItem p w .itemDropped reason it it.readOffset (clipLeaves it.source
          (putPlayer s p w { getPlayer s p w with stack := kept ++ rest })) →
          bare X = bare (putPlayer s p w { getPlayer s p w with stack := kept ++ rest }) := by
        rintro _ rfl; simp
      have hg := getPlayer_of_bare p w (hb _ rfl)
      rw [getPlayer_putPlayer_self] at hg
      rw [ih kept _ (by rw [hg])]
      rw [bare_putPlayer p w (hb _ rfl), hg]
      simp [hs]

/-- Both lists lose the items that are dropped. -/
theorem bare_dropLists (reason : LeaveReason) (sel : Item → Bool) (s : State) :
    bare (dropLists p w reason sel s) =
      bare (putPlayer s p w { getPlayer s p w with
        stack := (getPlayer s p w).stack.filter fun it => !sel it
        queue := (getPlayer s p w).queue.filter fun it => !sel it }) := by
  have hq := bare_dropQueued p w reason sel (getPlayer s p w).queue [] s rfl
  have hg := getPlayer_of_bare p w hq
  rw [getPlayer_putPlayer_self] at hg
  rw [dropLists]
  simp only
  rw [bare_dropStacked p w reason sel _ [] _ rfl, bare_putPlayer p w hq, hg]
  simp

/-- The current item's leaving by a command brings its successor. -/
theorem bare_endCurrent (reason : LeaveReason) (s : State) :
    bare (endCurrent p w reason s) =
      bare (if (getPlayer s p w).current.isSome then putPlayer s p w (succession (getPlayer s p w)) else s) := by
  unfold endCurrent
  cases h : (getPlayer s p w).current with
  | none => simp
  | some it =>
    simp only [bare_reportItem, Option.isSome_some, if_true]
    have hl : ∀ (pl : Player) (x : State), bare (listensCurrent pl x) = bare x := by
      intro pl x; unfold listensCurrent; split <;> simp
    rw [hl]
    exact bare_putPlayer p w (by simp) _

/-- A cleared player is IDLE with empty lists. -/
theorem bare_clearPlayer (reason : LeaveReason) (s : State)
    (h : (getPlayer s p w).current = none → (getPlayer s p w).stack = [] ∧ (getPlayer s p w).queue = []) :
    bare (clearPlayer p w reason s) = bare (putPlayer s p w idlePlayer) := by
  have hd := bare_dropLists p w reason (fun _ => true) s
  have hg := getPlayer_of_bare p w hd
  rw [getPlayer_putPlayer_self] at hg
  rw [clearPlayer, bare_endCurrent, hg]
  simp only [Bool.not_true, List.filter_false]
  cases hc : (getPlayer s p w).current with
  | none =>
    obtain ⟨h1, h2⟩ := h hc
    simp only [Option.isSome_none, Bool.false_eq_true, if_false]
    rw [hd, idlePlayer]
    simp [hc]
  | some it =>
    simp only [Option.isSome_some, if_true, succession]
    rw [bare_putPlayer p w hd]
    simp [idlePlayer]

/-- An item entering the current place. -/
theorem bare_becomeCurrent (it : Item) (s : State) :
    bare (becomeCurrent p w it s) = bare (putPlayer s p w { getPlayer s p w with current := some it }) := by
  simp [becomeCurrent]

/-- Mode NOW. -/
theorem bare_playNowItem (it : Item) (s : State) :
    bare (playNowItem p w it s) = bare (putPlayer s p w { getPlayer s p w with current := some it }) := by
  unfold playNowItem
  split
  · exact bare_becomeCurrent p w it s
  · rename_i old h
    rw [bare_reportItem, bare_becomeCurrent]
    have hb : bare (clipLeaves old.source (unlistens old.source s)) = bare s := by simp
    rw [getPlayer_of_bare p w hb]
    exact bare_putPlayer p w hb _

/-- Mode ONLY. -/
theorem bare_playOnlyItem (it : Item) (s : State) :
    bare (playOnlyItem p w it s) = bare (putPlayer s p w ⟨some it, [], []⟩) := by
  have hd := bare_dropLists p w .flushed (fun _ => true) s
  have hg := getPlayer_of_bare p w hd
  rw [getPlayer_putPlayer_self] at hg
  rw [playOnlyItem, bare_playNowItem, hg, bare_putPlayer p w hd]
  simp

/-- Mode NEXT on a queue with room. -/
theorem bare_playNextItem (it : Item) (s : State) :
    bare (playNextItem p w it s) =
      bare (putPlayer s p w (if (getPlayer s p w).current.isSome then
          { getPlayer s p w with queue := (getPlayer s p w).queue ++ [it] }
        else { getPlayer s p w with current := some it })) := by
  unfold playNextItem
  cases h : (getPlayer s p w).current with
  | none => exact bare_becomeCurrent p w it s
  | some old => simp [h]

/-- Mode INTERRUPT: the current item goes on the stack, whose bottom item leaves where it was full. -/
theorem bare_playInterruptItem (it : Item) (s : State) :
    bare (playInterruptItem p w it s) =
      bare (putPlayer s p w (match (getPlayer s p w).current with
        | none => { getPlayer s p w with current := some it }
        | some old => { getPlayer s p w with
            current := some it
            stack := old ::
              if 2 ≤ (getPlayer s p w).stack.length then (getPlayer s p w).stack.dropLast else (getPlayer s p w).stack })) := by
  unfold playInterruptItem
  cases h : (getPlayer s p w).current with
  | none => exact bare_becomeCurrent p w it s
  | some old =>
    simp only
    have hr : bare (if 2 ≤ (getPlayer s p w).stack.length then dropBottom p w s else s) =
        bare (putPlayer s p w { getPlayer s p w with
          stack := if 2 ≤ (getPlayer s p w).stack.length then (getPlayer s p w).stack.dropLast
            else (getPlayer s p w).stack }) := by
      split
      · rename_i h2
        unfold dropBottom
        cases hl : (getPlayer s p w).stack.getLast? with
        | none => rw [List.getLast?_eq_none_iff] at hl; rw [hl] at h2; simp at h2
        | some x => simp
      · exact (congrArg bare (putPlayer_getPlayer p w s)).symm
    generalize (if 2 ≤ (getPlayer s p w).stack.length then dropBottom p w s else s) = x at hr
    have hg := getPlayer_of_bare p w hr
    rw [getPlayer_putPlayer_self] at hg
    rw [bare_becomeCurrent, hg]
    have hu : ∀ y : State, bare (unlistens old.source y) = bare y := fun y => by simp
    rw [bare_putPlayer p w (hu _), getPlayer_of_bare p w (hu _), getPlayer_putPlayer_self, putPlayer_putPlayer,
      bare_putPlayer p w hr]
    simp [h]

end Sys2Proof.Machine
end

