-- ==== Sys2Proof/Laws/Slice.lean ====
section
/-! SUPPORT. What the stages of a slice do, once for each: stage 1 is StageOne, stage 4 is StageFour. What the transmit buffer's operations
and the cancellation of searches do. -/

namespace Sys2Proof.Machine

/-! ## Stage 1 -/

/-- A move towards a target. -/
theorem suppressionMove_eq (want applied : Nat) :
    suppressionMove want applied =
      if want < applied then max want (applied - 4) else if applied < want then applied + 1 else applied := by
  unfold suppressionMove
  split
  · rfl
  · split <;> omega

/-- The boost step leaves the floor, the VAD, its hangover and the suppression. -/
theorem boostStep_eq (t : PosParams) (x : Suppressor) :
    boostStep t x =
      { x with
        target := if t.boostRefresh ≤ x.refresh + 1 then boostTarget t x.floor.level else x.target
        boost := stepTowards x.boost (if t.boostRefresh ≤ x.refresh + 1 then boostTarget t x.floor.level else x.target)
        refresh := if t.boostRefresh ≤ x.refresh + 1 then 0 else x.refresh + 1 } := by
  by_cases h : t.boostRefresh ≤ x.refresh + 1 <;> simp [boostStep, slewBoost, countRefresh, boostRefreshDue, refreshBoost, h]

/-- The VAD step touches the VAD and its hangover alone. -/
theorem vadStep_eq (t : PosParams) (ratio : Nat) (x : Suppressor) :
    vadStep t ratio x =
      { x with
        vad := decide (t.vadT ≤ ratio ∨ 1 < x.hangover)
        hangover := if t.vadT ≤ ratio then t.vadHang else x.hangover - 1 } := by
  by_cases h : t.vadT ≤ ratio <;> simp [vadStep, h]

/-- Everything stage 1 can do. -/
theorem suppressorStage_does (t : PosParams) (received : Bool) (v : List Int) (x : Suppressor) :
    StageOne t received (levelIndex v) x (suppressorStage t received v x) := by
  cases received
  · rfl
  · simp only [StageOne, suppressorStage, receivedSlice, boostStep_eq, vadStep_eq, suppressionStep, suppressionMove_eq]
    rfl

/-! ## Stage 4 -/

/-- The reference samples under the taps, tap by tap (R57). -/
theorem tapsAt_eq (h : List Int) (d j : Nat) (hh : h.length = 2112) (hd : d ≤ 1792) (hj : j < 64) :
    tapsAt h d j = (List.range 256).map fun k => refSample h j (d + k) := by
  apply List.ext_getElem
  · simp [tapsAt, hh]; omega
  · intro k h1 h2
    have hk : k < 256 := by simpa using h2
    have hlen : (List.take 256 (List.drop (1793 + j - d) h)).length = 256 := by simp [hh]; omega
    simp only [tapsAt, List.getElem_reverse, List.getElem_take, List.getElem_drop, List.getElem_map, List.getElem_range, refSample,
      hlen]
    rw [List.getD_eq_getElem _ _ (by omega)]
    congr 1
    omega

/-- An entry of a list given by a function of the place. -/
theorem getD_map_range (f : Nat → Int) (n k : Nat) (hk : k < n) : ((List.range n).map f).getD k 0 = f k := by
  rw [List.getD_eq_getElem _ _ (by rw [List.length_map, List.length_range]; exact hk)]
  simp

/-- The sum of products with the taps (R57). -/
theorem dot_taps (c : List Int) (f : Nat → Int) (hc : c.length = 256) :
    dot c ((List.range 256).map f) = tapSum fun k => c.getD k 0 * f k := by
  unfold dot tapSum
  congr 1
  apply List.ext_getElem
  · simp [hc]
  · intro k h1 h2
    simp only [List.getElem_zipWith, List.getElem_map, List.getElem_range]
    rw [List.getD_eq_getElem _ _ (by simp at h2; omega)]

/-- The update of every coefficient, tap by tap (R58). -/
theorem updateCoeffs_eq (mu e : Int) (c : List Int) (f : Nat → Int) (hc : c.length = 256) :
    updateCoeffs mu e c ((List.range 256).map f) =
      (List.range 256).map fun k => updateCoeff mu e (tapSum fun i => f i * f i) (c.getD k 0) (f k) := by
  have hp : dot ((List.range 256).map f) ((List.range 256).map f) = tapSum fun i => f i * f i := by
    rw [dot_taps _ _ (by simp)]
    exact congrArg List.sum (List.map_congr_left fun k hk => by rw [getD_map_range _ _ _ (List.mem_range.1 hk)])
  unfold updateCoeffs
  rw [hp]
  apply List.ext_getElem
  · simp [hc]
  · intro k h1 h2
    simp only [List.getElem_zipWith, List.getElem_map, List.getElem_range]
    rw [List.getD_eq_getElem _ _ (by simp at h2; omega)]

/-- What the samples of a slice from sample j on leave (R56 part 2), in functions of the sample. -/
theorem cancelSamples_does (mu : Int) (adapting : Bool) (h : List Int) (d : Nat) (hh : h.length = 2112) (hd : d ≤ 1792) :
    ∀ (ys : List Int) (j : Nat) (c : List Int), c.length = 256 → j + ys.length = 64 →
      ∃ (co : Nat → Nat → Int) (est err : Nat → Int),
        (∀ k, k < 256 → co j k = c.getD k 0) ∧
        (∀ i, j ≤ i → i < 64 →
          est i = max (-32768) (min ((tapSum (fun k => co i k * refSample h i (d + k)) + 536870912) / 1073741824) 32767) ∧
          err i = max (-32768) (min (ys.getD (i - j) 0 - est i) 32767) ∧
          ∀ k, k < 256 → co (i + 1) k =
            if adapting then
              max (-2147483648)
                (min (co i k + (mu * err i * refSample h i (d + k) * 4194304).tdiv
                  (tapSum (fun x => refSample h i (d + x) * refSample h i (d + x)) + 1048576)) 2147483647)
            else co i k) ∧
        cancelSamples mu adapting h d j ys c =
          ((List.range' j ys.length).map est, (List.range' j ys.length).map err, (List.range 256).map (co 64)) := by
  intro ys
  induction ys with
  | nil =>
    intro j c hc hj
    refine ⟨fun _ k => c.getD k 0, fun _ => 0, fun _ => 0, fun _ _ => rfl, fun i h1 h2 => ?_, ?_⟩
    · simp at hj; omega
    · simp only [cancelSamples, List.length_nil, List.range'_zero, List.map_nil, Prod.mk.injEq, true_and]
      apply List.ext_getElem
      · simp [hc]
      · intro k h1 h2
        simp only [List.getElem_map, List.getElem_range]
        rw [List.getD_eq_getElem _ _ h1]
  | cons y ys ih =>
    intro j c hc hj
    have hj' : j < 64 := by simp at hj; omega
    have ht := tapsAt_eq h d j hh hd hj'
    let e0 := estimate c (tapsAt h d j)
    let r0 := saturate (y - e0)
    let c1 := if adapting then updateCoeffs mu r0 c (tapsAt h d j) else c
    have hc1 : c1.length = 256 := by
      simp only [c1]
      split
      · rw [ht, updateCoeffs_eq _ _ _ _ hc]; simp
      · exact hc
    obtain ⟨co, est, err, h1, h2, h3⟩ := ih (j + 1) c1 hc1 (by simp at hj; omega)
    refine ⟨fun i k => if i = j then c.getD k 0 else co i k, fun i => if i = j then e0 else est i,
      fun i => if i = j then r0 else err i, fun k _ => by simp, fun i hi hi' => ?_, ?_⟩
    · rcases Nat.eq_or_lt_of_le hi with rfl | hlt
      · refine ⟨?_, ?_, fun k hk => ?_⟩
        · simp only [if_true, e0, estimate]
          rw [ht, dot_taps _ _ hc]
          rfl
        · simp [r0, saturate, clampInt]
        · have hne : j + 1 ≠ j := by omega
          simp only [if_true, if_neg hne, h1 k hk, c1]
          split
          · rw [ht, updateCoeffs_eq _ _ _ _ hc, getD_map_range _ _ _ hk]
            simp only [updateCoeff, clampInt]
          · rfl
      · have hne : i ≠ j := by omega
        have hne' : i + 1 ≠ j := by omega
        obtain ⟨a, b, g⟩ := h2 i hlt hi'
        have hs : i - j = (i - (j + 1)) + 1 := by omega
        simp only [if_neg hne, if_neg hne']
        refine ⟨a, ?_, g⟩
        rw [hs, List.getD_cons_succ]
        exact b
    · have hm (f : Nat → Int) (x : Int) :
          (List.range' j (ys.length + 1)).map (fun i => if i = j then x else f i) =
            x :: (List.range' (j + 1) ys.length).map f := by
        rw [List.range'_succ, List.map_cons, if_pos rfl]
        congr 1
        apply List.map_congr_left
        intro i hi
        have := List.mem_range'_1.1 hi
        exact if_neg (by omega)
      have h64 : ¬(64 = j) := by omega
      simp only [cancelSamples, List.length_cons, hm, if_neg h64]
      have h3' : cancelSamples mu adapting h d (j + 1) ys
          (if adapting = true then updateCoeffs mu (saturate (y - estimate c (tapsAt h d j))) c (tapsAt h d j) else c) = _ := h3
      rw [h3']

/-- The research counter at the end of a slice (R68). -/
theorem finishResearch_eq (t : PosParams) (c : Canceller) (x : CancellerSlice)
    (hs : c.state = .tracking → x.canceller.state = .tracking) (hc : x.canceller.research = c.research)
    (hr : x.researchRequest = false) : finishResearch t (decide (c.state = .tracking)) x = researched t c x := by
  unfold finishResearch researched researchStep
  by_cases h : c.state = .tracking
  · by_cases h0 : t.ecResearch = 0
    · simp [h, hs h, h0, ← hr]
    · by_cases h1 : t.ecResearch * 250 ≤ c.research + 1 <;> simp [h, hs h, h0, h1, hc]
  · simp [h]

/-- The 319 samples that enter a tap in a slice (R60). -/
theorem tapSpan_eq (h : List Int) (d : Nat) (hh : h.length = 2112) (hd : d ≤ 1792) :
    tapSpan h d = (List.range 319).map fun i => h.getD (1793 - d + i) 0 := by
  apply List.ext_getElem
  · simp [tapSpan, hh]; omega
  · intro k h1 h2
    have hk : k < 319 := by simpa using h2
    simp only [tapSpan, List.getElem_take, List.getElem_drop, List.getElem_map, List.getElem_range]
    rw [List.getD_eq_getElem _ _ (by omega)]

/-- The divergence test in one form (R66). -/
theorem divergenceStep_eq (lest ly : Nat) (c : Canceller) :
    divergenceStep lest ly c =
      if ly + 8 ≤ lest ∧ 8 ≤ c.divergence + 1 then ({ zeroedCanceller c with state := .training }, true)
      else ({ c with divergence := if ly + 8 ≤ lest then c.divergence + 1 else 0 }, false) := by
  unfold divergenceStep
  by_cases hl : ly + 8 ≤ lest <;> by_cases h8 : 8 ≤ c.divergence + 1 <;> simp [hl, h8]

/-- The convergence test in one form (R65). -/
theorem convergenceStep_eq (conv : Nat) (c : Canceller) :
    convergenceStep conv c =
      if c.erle < conv then ({ c with convergence := 0 }, false)
      else if c.convergence + 1 < 25 then ({ c with convergence := c.convergence + 1 }, false)
      else ({ zeroCounters c with state := .tracking }, true) := by
  unfold convergenceStep
  by_cases h1 : c.erle < conv
  · simp [h1, Nat.not_le.2 h1]
  · by_cases h2 : c.convergence + 1 < 25
    · simp only [if_pos (Nat.not_lt.1 h1), if_neg (Nat.not_le.2 h2), if_neg h1, if_pos h2]
    · simp only [if_pos (Nat.not_lt.1 h1), if_pos (Nat.not_lt.1 h2), if_neg h1, if_neg h2]

/-- The loss test in one form (R67). -/
theorem lossStep_eq (lossLevel : Nat) (c : Canceller) :
    lossStep lossLevel c =
      ({ c with loss := if c.erle < lossLevel ∧ c.loss + 1 < 250 then c.loss + 1 else 0 },
        decide (c.erle < lossLevel ∧ 250 ≤ c.loss + 1)) := by
  unfold lossStep
  by_cases h1 : c.erle < lossLevel
  · by_cases h2 : c.loss + 1 < 250
    · simp [h1, h2, Nat.not_le.2 h2]
    · have h2' : 250 ≤ c.loss + 1 := by omega
      simp [h1, h2, h2']
  · simp [h1]

/-- Everything the counters of an adapting slice can do (R62, R65 to R67), with the research counter at its end (R68). -/
theorem adaptingCounters_does (t : PosParams) (ly le lest : Nat) (caller : List Int) (c : Canceller) (hang : Nat)
    (coeffs : List Int) (floor : Tracker) (noise : BitVec 16) :
    finishResearch t (decide (c.state = .tracking))
        (adaptingCounters t ly le lest caller { c with hangover := hang, coeffs := coeffs, floor := floor, noise := noise }) =
      (let loud := decide (ly + 8 ≤ lest)
       let erle := stepTowards c.erle (min (ly - le) 60)
       let base : Canceller := { c with hangover := hang, coeffs := coeffs, floor := floor, noise := noise }
       let moved : Canceller := { base with erle := erle, divergence := if loud = true then c.divergence + 1 else 0 }
       if loud = true ∧ 8 ≤ c.divergence + 1 then
         ⟨{ base with
             state := .training, coeffs := List.replicate 256 0, erle := 0, hangover := 0, convergence := 0, divergence := 0
             loss := 0, research := 0 }, caller, some .diverged, false, false⟩
       else if c.state = .training then
         (if erle < t.ecConv then ⟨{ moved with convergence := 0 }, caller, none, false, false⟩
          else if c.convergence + 1 < 25 then
            ⟨{ moved with convergence := c.convergence + 1 }, caller, none, false, false⟩
          else
            ⟨{ moved with state := .tracking, convergence := 0, divergence := 0, loss := 0, research := 0 }, caller,
              some .converged, false, false⟩)
       else
         researched t c
           ⟨{ moved with loss := if erle < t.ecLoss ∧ c.loss + 1 < 250 then c.loss + 1 else 0 }, caller, none,
             decide (erle < t.ecLoss ∧ 250 ≤ c.loss + 1 ∧ t.ecAutoSearch = 1), false⟩) := by
  unfold adaptingCounters
  simp only [divergenceStep_eq, convergenceStep_eq, lossStep_eq, decide_eq_true_eq]
  by_cases hbad : ly + 8 ≤ lest ∧ 8 ≤ c.divergence + 1
  · simp only [if_pos hbad, if_true, finishResearch]
    simp [zeroedCanceller, zeroCounters, zeroCoeffs, -List.reduceReplicate]
  · simp only [if_neg hbad, Bool.false_eq_true, if_false]
    have hE : erleStep ly le c.erle = stepTowards c.erle (min (ly - le) 60) := rfl
    by_cases ht : c.state = .training
    · simp only [if_pos ht, finishResearch, hE]
      by_cases h1 : stepTowards c.erle (min (ly - le) 60) < t.ecConv
      · simp [h1, ht]
      · by_cases h2 : c.convergence + 1 < 25
        · simp [h1, h2, ht]
        · simp [h1, h2, ht, zeroCounters]
    · simp only [if_neg ht]
      rw [finishResearch_eq t c]
      · congr 2
        simp only [hE]
        by_cases ha : t.ecAutoSearch = 1 <;> simp [ha]
      · exact fun h => h
      · rfl
      · rfl

/-- The double-talk test in one form (R60). -/
theorem doubleTalk_eq (ymax xmax : Nat) : doubleTalk ymax xmax = decide (0 < xmax ∧ xmax ≤ 2 * ymax) := by simp [doubleTalk]

/-- The condition shared by adapting and the NLP in one form (R61, R72). -/
theorem quietReference_eq (active detected : Bool) (hang : Nat) :
    quietReference active detected hang = decide (active = true ∧ detected = false ∧ hang = 0) := by
  cases active <;> cases detected <;> cases hang <;> simp [quietReference]

/-- Everything stage 4 can do. -/
theorem cancellerStage_does (t : PosParams) (locked active : Bool) (ys : List Int) (c : Canceller)
    (hh : c.history.length = 2112) (hcoeffs : c.coeffs.length = 256) (hd : c.window ≤ 1792) (hy : ys.length = 64) :
    StageFour t locked active ys c (cancellerStage t locked active ys c) := by
  unfold StageFour cancellerStage
  by_cases hc : cancelling c.state = true
  · cases locked
    · simp only [hc, Bool.true_eq_false, if_true, if_false, Bool.false_eq_true]
      exact finishResearch_eq t c _ (fun h => h) rfl rfl
    · simp only [hc, Bool.true_eq_false, if_true, if_false]
      have hz : ((if c.state = .training then t.ecMuTrain else t.ecMuTrack : Nat) : Int) =
          if c.state = .training then (t.ecMuTrain : Int) else t.ecMuTrack := by split <;> rfl
      have hr : List.range' 0 64 = List.range 64 := List.range_eq_range'.symm
      unfold cancelSlice
      simp only [hz, tapSpan_eq _ _ hh hd, doubleTalk_eq, quietReference_eq, doubleTalkHangover]
      generalize decide (0 < peakMagnitude _ ∧ peakMagnitude _ ≤ 2 * peakMagnitude ys) = talk
      generalize (if talk = true then t.ecDtHang else c.hangover - 1) = hang
      generalize decide (active = true ∧ talk = false ∧ hang = 0) = quiet
      obtain ⟨co, est, err, h1, h2, h3⟩ := cancelSamples_does
        (if c.state = .training then (t.ecMuTrain : Int) else t.ecMuTrack) (quiet && !c.freeze) c.history c.window hh hd ys 0 c.coeffs
        hcoeffs (by omega)
      rw [hy, hr] at h3
      refine ⟨co, est, err, h1, fun j hj => h2 j (Nat.zero_le j) hj, ?_⟩
      rw [h3]
      generalize (quiet && !c.freeze) = adapting
      cases adapting
      · simp only [if_true, Bool.false_eq_true, if_false]
        rw [finishResearch_eq t c _ (fun h => h) rfl rfl]
        simp only [Bool.and_eq_true, decide_eq_true_eq]
      · simp only [if_true, Bool.true_eq_false, if_false]
        rw [adaptingCounters_does]
        simp only [Bool.and_eq_true, decide_eq_true_eq]
  · have hf : cancelling c.state = false := by simpa using hc
    simp [hf]

/-! ## The transmit buffer (R166) -/

/-- The ports after the head of the transmit buffer is taken. -/
def tookTx (r : Ports) : Ports :=
  { r with
    tx := r.tx.drop 1, pdout := r.tx.headD silentBlock
    slips := { r.slips with txUnder := if r.tx = [] then bump16 r.slips.txUnder else r.slips.txUnder } }

/-- Everything a taking from the transmit buffer can do. -/
theorem takeTx_does (s : State) :
    takeTx s = (putPorts s (tookTx s.ports), if s.ports.tx = [] then [slipReport (tookTx s.ports)] else []) := by
  unfold takeTx tookTx
  cases h : s.ports.tx <;> simp [h]

/-- Everything the begin of the groups can do. -/
theorem beginGroups_does (s : State) :
    beginGroups s =
      if groupsToBegin s.ports then
        let r := tookTx { s.ports with grouping := true }
        raiseAll (if s.ports.tx = [] then [slipReport r] else []) (putPorts s r)
      else s := by
  unfold beginGroups
  split
  · rw [takeTx_does]
    rfl
  · rfl

/-- Once the groups have begun, they do not begin again. -/
theorem beginGroups_again (s : State) (h : groupsToBegin s.ports = false) : beginGroups s = s := by simp [beginGroups, h]

/-! ## A stream's new record in the middle of a period (R148) -/

@[simp] theorem keepSlice_slice (old new : Stream) : (keepSlice old new).slice = old.slice := rfl
@[simp] theorem keepSlice_sounding (old new : Stream) : (keepSlice old new).sounding = old.sounding := rfl
@[simp] theorem keepSlice_state (old new : Stream) : (keepSlice old new).state = new.state := rfl
@[simp] theorem keepSlice_listeners (old new : Stream) : (keepSlice old new).listeners = new.listeners := rfl
@[simp] theorem keepSlice_half0 (old new : Stream) : (keepSlice old new).half0 = new.half0 := rfl
@[simp] theorem keepSlice_half1 (old new : Stream) : (keepSlice old new).half1 = new.half1 := rfl

/-! ## Cancellation (R96) -/

/-- What the start of the head makes of the engine depends on the engine and the window starts alone. -/
theorem startHead_engine {s t : State} (he : s.engine = t.engine)
    (hw : ∀ q, (getPos s q).canceller.window = (getPos t q).canceller.window) : (startHead s).engine = (startHead t).engine := by
  unfold startHead
  rw [he]
  cases t.engine.inFlight with
  | some f => exact he
  | none =>
    cases t.engine.queue with
    | nil => exact he
    | cons e rest =>
      simp [startEntry, hw e.position]

@[simp] theorem dropSearches_positions (p : PosIx) (s : State) : (dropSearches p s).positions = s.positions := by
  unfold dropSearches
  split <;> rfl

/-- The engine after a cancellation. -/
theorem cancelSearches_engine (p : PosIx) (s : State) : (cancelSearches p s).engine = cancelledEngine s p := by
  unfold cancelSearches cancelledEngine
  cases heldFields s p with
  | none => rfl
  | some f =>
    refine startHead_engine (by simp [keepOutcome]) fun q => ?_
    simp only [getPos_raise, keepOutcome]
    by_cases hq : q = p
    · subst hq; simp [getPos]
    · have : p.val ≠ q.val := fun h => hq (Fin.ext h.symm)
      simp [getPos, putPos, this]

end Sys2Proof.Machine
end

