-- ==== Sys2Proof/Laws/Units.lean ====
section
/-! SUPPORT. What the players, the tones and the streams do in a slice or a fixing, once for each: a player's run is PlayerInSlice, a tone's
samples with its cadence are ToneInSlice, a fixing is StreamFixing. -/

namespace Sys2Proof.Machine

/-! ## Players (R131 to R133) -/

/-- A succession is what R133 says. -/
theorem succession_succeeds (pl : Player) (it : Item) (h : pl.current = some it) : Succeeds pl (succession pl) := by
  obtain ⟨c, stack, queue⟩ := pl
  refine ⟨fun i rest hq => ?_, fun i rest hq hs => ?_, fun hq hs => ?_⟩ <;> simp_all [succession]

theorem decodedSample_eq (s : State) (c : ClipIx) (offset : Nat) :
    clipSample s c offset = decodedSample s (getClip s c) offset := by
  unfold clipSample decodedSample readSample
  cases (getClip s c).format <;> rfl

/-- The run of a player after n samples of a slice. -/
def runAfter (s : State) (gain : Item → Int) (r : PlayRun) (n : Nat) : PlayRun := (playSamples s gain n 0 r).2

/-- One more sample is played at the end. -/
theorem playSamples_last (s : State) (gain : Item → Int) :
    ∀ (n k : Nat) (r : PlayRun),
      playSamples s gain (n + 1) k r =
        ((playSamples s gain n k r).1 ++ [(playSample s gain (k + n) (playSamples s gain n k r).2).1],
          (playSample s gain (k + n) (playSamples s gain n k r).2).2) := by
  intro n
  induction n with
  | zero => intro k r; simp [playSamples]
  | succ n ih =>
    intro k r
    have h := ih (k + 1) (playSample s gain k r).2
    rw [playSamples, h, playSamples]
    simp [Nat.add_assoc, Nat.add_comm 1 n]

/-- The samples of a slice are those of its steps. -/
theorem playSamples_eq (s : State) (gain : Item → Int) (r : PlayRun) (n : Nat) :
    (playSamples s gain n 0 r).1 = (List.range n).map fun k => (playSample s gain k (runAfter s gain r k)).1 := by
  induction n with
  | zero => rfl
  | succ n ih => rw [playSamples_last, List.range_succ, List.map_append, ← ih]; simp [runAfter]

/-- What one sample does to the player and its output (R131, R133). -/
theorem playSample_does (s : State) (gain : Item → Int) (k : Nat) (r : PlayRun) :
    PlaysSample s gain k r.player (playSample s gain k r).2.player (playSample s gain k r).1 := by
  unfold PlaysSample
  unfold playSample
  cases hc : r.player.current with
  | none => exact ⟨rfl, rfl⟩
  | some it =>
    obtain ⟨source, start, loops, level, tag, offset, passes⟩ := it
    cases source with
    | stream i => exact ⟨rfl, rfl⟩
    | clip c =>
      refine ⟨congrArg (scale · _) (decodedSample_eq s c offset), ?_⟩
      simp only [advanceClip]
      split
      · rfl
      · unfold passEnds
        split
        · rename_i h0; simp [h0]
        · split
          · rfl
          · exact succession_succeeds _ _ hc

/-- Everything a player can do in a slice. -/
theorem playSamples_does (s : State) (gain : Item → Int) (r : PlayRun) :
    PlayerInSlice s gain (fun k => (runAfter s gain r k).player) (fun k => ((playSamples s gain 64 0 r).1).getD k 0) := by
  intro k hk
  have hx : ((playSamples s gain 64 0 r).1).getD k 0 = (playSample s gain k (runAfter s gain r k)).1 := by
    rw [playSamples_eq, List.getD_eq_getElem _ _ (by simpa using hk)]
    simp
  have hn : runAfter s gain r (k + 1) = (playSample s gain k (runAfter s gain r k)).2 := by
    simp [runAfter, playSamples_last]
  simp only [hx, hn]
  exact playSample_does s gain k (runAfter s gain r k)

/-! ## Tones (R158, R159) -/

/-- The phase before sample k of an on-time slice (R158). -/
def phaseBefore (increment phase : Nat) : Nat → Nat
  | 0 => phase
  | k + 1 => (phaseBefore increment phase k + increment) % 65536

theorem phaseBefore_shift (increment phase : Nat) (k : Nat) :
    phaseBefore increment ((phase + increment) % 65536) k = phaseBefore increment phase (k + 1) := by
  induction k with
  | zero => rfl
  | succ k ih => rw [phaseBefore, ih, ← phaseBefore]

theorem toneSamples_eq (increment level : Nat) :
    ∀ (n phase : Nat),
      toneSamples increment level n phase =
        ((List.range n).map fun k => scale (sineEntry (phaseBefore increment phase k / 256)) (-(level : Int)),
          phaseBefore increment phase n) := by
  intro n
  induction n with
  | zero => intro phase; rfl
  | succ n ih =>
    intro phase
    rw [toneSamples, ih, List.range_succ_eq_map, phaseBefore_shift]
    simp [phaseBefore_shift, Function.comp_def, phaseBefore]

/-- Everything a tone unit can do in a slice. -/
theorem toneSlice_does (t : Tone) :
    ToneInSlice t (cadenceStep (toneSlice t).2).1 (cadenceStep (toneSlice t).2).2 fun k => (toneSlice t).1.getD k 0 := by
  by_cases hr : t.running = true
  · by_cases hc : t.cycle < t.onTime
    · have ho : onTimeSlice t = true := by simp [onTimeSlice, hr, hc]
      refine ⟨phaseBefore t.increment t.phase, rfl, fun k hk => ⟨fun _ => ⟨?_, rfl⟩, fun h => absurd ⟨hr, hc⟩ h⟩, by simp [hr], ?_⟩
      · simp only [toneSlice, if_pos ho, toneSamples_eq]
        exact getD_map_range _ _ _ hk
      · simp only [toneSlice, if_pos ho, toneSamples_eq, cadenceStep, hr, if_true, burstCompletes, newCycle, stoppedTone]
        refine fun _ => ⟨fun h => ?_, fun h1 h2 => ?_, fun h1 h2 => ?_⟩
        · by_cases hb : 0 < t.bursts ∧ min (t.burstCount + 1) 255 = t.bursts <;> simp [h, hb]
        · simp only [if_neg h1, if_pos h2, and_self]
        · simp only [if_neg h1, if_neg h2, and_self]
    · have ho : onTimeSlice t = false := by simp [onTimeSlice, hc]
      refine ⟨fun _ => t.phase, rfl, fun k hk => ⟨fun h => absurd h.2 hc, fun _ => ⟨?_, rfl⟩⟩, by simp [hr], ?_⟩
      · simp [toneSlice, ho, -List.reduceReplicate]
      · simp only [toneSlice, ho, Bool.false_eq_true, if_false, cadenceStep, hr, if_true, burstCompletes, newCycle, stoppedTone]
        refine fun _ => ⟨fun h => ?_, fun h1 h2 => ?_, fun h1 h2 => ?_⟩
        · by_cases hb : 0 < t.bursts ∧ min (t.burstCount + 1) 255 = t.bursts <;> simp [h, hb]
        · simp only [if_neg h1, if_pos h2, and_self]
        · simp only [if_neg h1, if_neg h2, and_self]
  · have ho : onTimeSlice t = false := by simp [onTimeSlice, hr]
    refine ⟨fun _ => t.phase, rfl, fun k hk => ⟨fun h => absurd h.1 hr, fun _ => ⟨?_, rfl⟩⟩, fun _ => ?_, fun h => absurd h hr⟩
    · simp [toneSlice, ho, -List.reduceReplicate]
    · simp [toneSlice, ho, cadenceStep, hr]

/-! ## Streams (R148 to R151) -/

theorem halfOf_withHalf (r : Stream) (h i : Fin 2) (x : Half) :
    halfOf (withHalf r h x) i = if i = h then x else halfOf r i := by
  fin_cases h <;> fin_cases i <;> simp [halfOf, withHalf]

@[simp] theorem halfOf_leftHalf (r : Stream) (i : Fin 2) :
    halfOf (leftHalf r) i = if i = r.readHalf then ⟨.empty, 0, 0⟩ else halfOf r i := halfOf_withHalf r r.readHalf i _

/-- A stream that leaves its half has left it whatever its read offset was. -/
theorem leftHalf_offset (r : Stream) (n : Nat) : leftHalf { r with readOffset := n } = leftHalf r := by
  unfold leftHalf withHalf
  split <;> rfl

/-- At most the half of the read position is PLAYING (R143). -/
def PlaysThere (r : Stream) : Prop := ∀ h, (halfOf r h).state = .playing → h = r.readHalf

/-- No half is PLAYING. -/
def PlaysNone (r : Stream) : Prop := ∀ h, (halfOf r h).state ≠ .playing

theorem playsNone_leftHalf {r : Stream} (h : PlaysThere r) : PlaysNone (leftHalf r) := by
  intro i
  rw [halfOf_leftHalf]
  split
  · simp
  · exact fun hi => absurd (h i hi) ‹_›

/-- How many halves are FULL. -/
def fullHalves (r : Stream) : Nat := ((List.finRange 2).filter fun h => decide ((halfOf r h).state = .full)).length

theorem fullHalves_le (r : Stream) : fullHalves r ≤ 2 := List.length_filter_le _ _

theorem fullHalves_leftHalf (r : Stream) (h : (halfOf r r.readHalf).state = .full) : fullHalves (leftHalf r) < fullHalves r := by
  have h2 : List.finRange 2 = [0, 1] := rfl
  obtain h0 | h1 : r.readHalf = 0 ∨ r.readHalf = 1 := by have := r.readHalf.isLt; omega
  · rw [h0] at h
    cases hd : decide ((halfOf r 1).state = .full) <;> simp [fullHalves, h2, h0, h, hd]
  · rw [h1] at h
    cases hd : decide ((halfOf r 0).state = .full) <;> simp [fullHalves, h2, h1, h, hd]

/-- Everything an entry attempt can do. -/
theorem enterHalf_does :
    ∀ (fuel : Nat) (x : FixRun), PlaysNone x.stream → fullHalves x.stream < fuel →
      ∃ more, EntryAttempt x.stream more (enterHalf fuel x).stream ∧ (enterHalf fuel x).events = x.events ++ more ∧
        PlaysThere (enterHalf fuel x).stream := by
  intro fuel
  induction fuel with
  | zero => intro x _ h; omega
  | succ fuel ih =>
    intro x hp hf
    have hthere : PlaysThere x.stream := fun h hh => absurd hh (hp h)
    unfold enterHalf
    cases hs : (halfOf x.stream x.stream.readHalf).state with
    | playing => exact absurd hs (hp _)
    | full =>
      by_cases hv : 0 < (halfOf x.stream x.stream.readHalf).valid
      · simp only [hs, if_pos hv]
        refine ⟨_, .enters x.stream hs hv, ?_, fun h hh => ?_⟩
        · split <;> simp
        · by_contra hne
          have hh' : (halfOf (withHalf x.stream x.stream.readHalf
            { halfOf x.stream x.stream.readHalf with state := .playing }) h).state = .playing := hh
          rw [halfOf_withHalf, if_neg (show h ≠ x.stream.readHalf by
            intro he; exact hne (he.trans (by unfold withHalf; split <;> rfl)))] at hh'
          exact hp h hh'
      · simp only [hs, if_neg hv]
        obtain ⟨more, h1, h2, h3⟩ := ih (leaveHalf x) (playsNone_leftHalf hthere)
          (Nat.lt_of_lt_of_le (fullHalves_leftHalf x.stream hs) (Nat.le_of_lt_succ hf))
        exact ⟨_, .passes x.stream _ more hs (Nat.eq_zero_of_not_pos hv) h1, by rw [h2]; simp [leaveHalf], h3⟩
    | empty =>
      simp only [hs]
      exact ⟨_, .waits x.stream (.inl hs), by split <;> simp_all, fun h hh => absurd hh (hp h)⟩
    | filling =>
      simp only [hs]
      exact ⟨_, .waits x.stream (.inr hs), by split <;> simp_all, fun h hh => absurd hh (hp h)⟩

theorem storedValue_eq (m : List Host.Cell) (r : Stream) : storedValue m r = valueAt m r := by
  unfold storedValue valueAt
  cases r.format <;> simp

/-- Everything one value of a fixing can do (R149, R150). -/
theorem fixSample_does (m : List Host.Cell) (x : FixRun) (hp : PlaysThere x.stream) :
    PlaysThere (fixSample m x).2.stream ∧
      ((halfOf x.stream x.stream.readHalf).state ≠ .playing → fixSample m x = (.silence, x)) ∧
      ((halfOf x.stream x.stream.readHalf).state = .playing →
        (fixSample m x).1 = valueAt m x.stream ∧
        (x.stream.readOffset + 1 < (halfOf x.stream x.stream.readHalf).valid →
          (fixSample m x).2 = { x with stream := { x.stream with readOffset := x.stream.readOffset + 1 } }) ∧
        ((halfOf x.stream x.stream.readHalf).valid ≤ x.stream.readOffset + 1 →
          ∃ more, EntryAttempt (leftHalf x.stream) more (fixSample m x).2.stream ∧
            (fixSample m x).2.events = x.events ++ (.halfEmpty, x.stream.readHalf) :: more)) := by
  unfold fixSample
  by_cases hs : (halfOf x.stream x.stream.readHalf).state = .playing
  · simp only [if_pos hs]
    by_cases hv : (halfOf x.stream x.stream.readHalf).valid ≤ x.stream.readOffset + 1
    · simp only [if_pos hv]
      let moved : FixRun := { x with stream := { x.stream with readOffset := x.stream.readOffset + 1 } }
      have hl : (leaveHalf moved).stream = leftHalf x.stream := leftHalf_offset x.stream _
      obtain ⟨more, h1, h2, h3⟩ := enterHalf_does 3 (leaveHalf moved) (by rw [hl]; exact playsNone_leftHalf hp)
        (Nat.lt_succ_of_le (fullHalves_le _))
      refine ⟨h3, fun h => absurd hs h, fun _ => ⟨storedValue_eq m _, fun h => absurd hv (by omega), fun _ => ⟨more, hl ▸ h1, ?_⟩⟩⟩
      rw [h2]
      simp [leaveHalf, moved]
    · simp only [if_neg hv]
      exact ⟨hp, fun h => absurd hs h, fun _ => ⟨storedValue_eq m _, fun _ => trivial, fun h => absurd h hv⟩⟩
  · simp only [if_neg hs]
    exact ⟨hp, fun _ => trivial, fun h => absurd h hs⟩

/-- The fixing after n values. -/
def fixAfter (m : List Host.Cell) (x : FixRun) (n : Nat) : FixRun := (fixSamples m n x).2

/-- One more value is fixed at the end. -/
theorem fixSamples_last (m : List Host.Cell) :
    ∀ (n : Nat) (x : FixRun),
      fixSamples m (n + 1) x =
        ((fixSamples m n x).1 ++ [(fixSample m (fixAfter m x n)).1], (fixSample m (fixAfter m x n)).2) := by
  intro n
  induction n with
  | zero => intro x; rfl
  | succ n ih =>
    intro x
    rw [fixSamples, ih (fixSample m x).2, fixSamples]
    rfl

theorem fixSamples_eq (m : List Host.Cell) (x : FixRun) (n : Nat) :
    (fixSamples m n x).1 = (List.range n).map fun k => (fixSample m (fixAfter m x k)).1 := by
  induction n with
  | zero => rfl
  | succ n ih => rw [fixSamples_last, List.range_succ, List.map_append, ← ih]; rfl

theorem playsThere_fixAfter (m : List Host.Cell) (x : FixRun) (hp : PlaysThere x.stream) (n : Nat) :
    PlaysThere (fixAfter m x n).stream := by
  induction n with
  | zero => exact hp
  | succ n ih =>
    have : fixAfter m x (n + 1) = (fixSample m (fixAfter m x n)).2 := by simp [fixAfter, fixSamples_last]
    rw [this]
    exact (fixSample_does m _ ih).1

/-- The events recorded before each value of a fixing and after the last. -/
def recordedBefore (m : List Host.Cell) (x : FixRun) : Nat → List (StreamEvent × Fin 2)
  | 0 => x.events
  | k + 1 => (fixAfter m x (k + 1)).events.drop (fixAfter m x k).events.length

/-- Everything a fixing can do. -/
theorem fixStream_does (m : List Host.Cell) (r : Stream) (hr : StreamOk r) :
    StreamFixing m r (fixStream m r).stream (fixStream m r).events := by
  refine ⟨fun h => ?_, fun h => ?_⟩
  · rw [fixStream, if_neg h]
    exact ⟨rfl, rfl⟩
  · let x := beginFixing r
    have hp : PlaysThere r := hr.2.2.1
    have hbegin : ((halfOf r r.readHalf).state = .playing → x = ⟨r, []⟩) ∧
        ((halfOf r r.readHalf).state ≠ .playing → EntryAttempt r x.events x.stream) ∧ PlaysThere x.stream := by
      by_cases hs : (halfOf r r.readHalf).state = .playing
      · have : x = ⟨r, []⟩ := if_pos hs
        exact ⟨fun _ => this, fun h => absurd hs h, by rw [this]; exact hp⟩
      · have hx : x = enterHalf 3 ⟨r, []⟩ := if_neg hs
        obtain ⟨more, h1, h2, h3⟩ := enterHalf_does 3 ⟨r, []⟩ (fun i hi => hs ((hp i hi) ▸ hi)) (Nat.lt_succ_of_le (fullHalves_le _))
        rw [← hx] at h1 h2 h3
        exact ⟨fun h => absurd h hs, fun _ => by rw [h2]; exact h1, h3⟩
    have hn (k : Nat) : fixAfter m x (k + 1) = (fixSample m (fixAfter m x k)).2 := by simp [fixAfter, fixSamples_last]
    have hout : fixStream m r =
        { stream := { (fixAfter m x 64).stream with
            slice := (fixSamples m 64 x).1, sounding := !(fixAfter m x 64).stream.underrun }
          events := (fixAfter m x 64).events } := by
      simp only [fixStream, if_pos h, fixAfter, x]
    have hslice (k : Nat) (hk : k < 64) : (fixSamples m 64 x).1.getD k .silence = (fixSample m (fixAfter m x k)).1 := by
      rw [fixSamples_eq, List.getD_eq_getElem _ _ (by simpa using hk)]
      simp
    have hstep (k : Nat) : ∃ more, (fixAfter m x (k + 1)).events = (fixAfter m x k).events ++ more := by
      rw [hn]
      obtain ⟨-, h1, h2⟩ := fixSample_does m (fixAfter m x k) (playsThere_fixAfter m x hbegin.2.2 k)
      by_cases hs : (halfOf (fixAfter m x k).stream (fixAfter m x k).stream.readHalf).state = .playing
      · obtain ⟨-, h3, h4⟩ := h2 hs
        rcases Nat.lt_or_ge ((fixAfter m x k).stream.readOffset + 1)
          (halfOf (fixAfter m x k).stream (fixAfter m x k).stream.readHalf).valid with hv | hv
        · exact ⟨[], by rw [h3 hv]; simp⟩
        · obtain ⟨more, -, h5⟩ := h4 hv
          exact ⟨_, h5⟩
      · exact ⟨[], by rw [h1 hs]; simp⟩
    rw [hout]
    refine ⟨fun k => (fixAfter m x k).stream, recordedBefore m x, fun hs => ?_, hbegin.2.1, fun k hk => ?_, by rw [fixSamples_eq]; simp, rfl, ?_⟩
    · have := hbegin.1 hs
      exact ⟨congrArg FixRun.stream this, congrArg FixRun.events this⟩
    · obtain ⟨-, h1, h2⟩ := fixSample_does m (fixAfter m x k) (playsThere_fixAfter m x hbegin.2.2 k)
      refine ⟨fun hs => ?_, fun hs => ?_⟩
      · simp only [hslice k hk, hn, h1 hs, recordedBefore, List.drop_length, and_self]
      · obtain ⟨h3, h4, h5⟩ := h2 hs
        refine ⟨by simp only [hslice k hk, h3], fun hv => ?_, fun hv => ?_⟩
        · simp only [hn, h4 hv, recordedBefore, List.drop_length, and_self]
        · obtain ⟨more, h6, h7⟩ := h5 hv
          exact ⟨more, by simp only [hn]; exact h6, by simp only [recordedBefore, hn, h7, List.drop_left]⟩
    · have hall (n : Nat) : (fixAfter m x n).events = (List.range (n + 1)).flatMap (recordedBefore m x) := by
        induction n with
        | zero => simp [recordedBefore, fixAfter, fixSamples]
        | succ n ih =>
          rw [List.range_succ, List.flatMap_append, ← ih]
          obtain ⟨more, hm⟩ := hstep n
          simp [recordedBefore, hm]
      dsimp only
      rw [hall 64]

end Sys2Proof.Machine
end

