-- ==== Sys2Proof/WellFormed.lean ====
section
/-! DEFINITION. Which commands can be sent: what a frame can carry (R173, R174), and what an event can bring. A command with a
value that the part answers with a refusal is well formed. -/

namespace Sys2Proof

/-- A frame's body holds at most 248 bytes (Table 11-1). -/
def Frame.fits (f : Frame) : Bool := decide (f.body.length ≤ 248)

/-- A complete frame that is not LINK-CLEAR (R175). -/
def Frame.arrives (f : Frame) : Bool := f.fits && f.kind != 0x04

/-- A frame whose KIND is no command kind (R177). -/
def Frame.unknown (f : Frame) : Bool := f.arrives && (Machine.commandOfKind f.kind.toNat).isNone

/-- A LEN byte and the bytes that followed it make a frame error (R174). -/
def errorFrame (len : Byte) (followed : Nat) : Bool :=
  decide (len.toNat < 3) || decide (251 < len.toNat) || decide (followed < len.toNat)

/-- Well-formed commands. -/
def Instr.wellFormed : Instr → Bool
  | .powerOn => true
  | .resetPin => true
  | .frameArrival f => f.arrives
  | .frameError len followed => errorFrame len followed
  | .read _ => true
  | .linkClear _ _ body => decide (body.length ≤ 248)
  | .badKind f => f.unknown
  | .resetDevice _ _ _ => true
  | .resetPosition _ _ _ => true
  | .sleep _ _ => true
  | .wake _ _ => true
  | .portSet _ _ _ _ slots => decide (slots.length = 16)
  | .portStatus _ _ => true
  | .setParam _ _ _ _ => true
  | .getParam _ _ _ => true
  | .posOpen _ _ => true
  | .posClose _ _ => true
  | .callOffer _ _ _ _ _ => true
  | .callConnect _ _ => true
  | .callHold _ _ _ => true
  | .callClear _ _ => true
  | .mute _ _ _ => true
  | .posStatus _ _ => true
  | .ecMode _ _ _ => true
  | .ecFreeze _ _ _ => true
  | .search _ _ _ => true
  | .windowSet _ _ _ => true
  | .ecStatus _ _ => true
  | .playNow _ _ _ _ => true
  | .playInterrupt _ _ _ _ => true
  | .playNext _ _ _ _ => true
  | .playOnly _ _ _ _ => true
  | .stopCurrent _ _ _ => true
  | .stopAll _ _ _ => true
  | .playerStatus _ _ => true
  | .toneStart _ _ _ _ _ _ _ _ => true
  | .toneStop _ _ => true
  | .clipAlloc _ _ _ _ _ => true
  | .clipWrite _ _ _ data => decide (data.length ≤ 240)
  | .clipEnd _ _ _ => true
  | .clipFree _ _ _ => true
  | .clipInfo _ _ _ => true
  | .storeCompact _ _ => true
  | .expandLoad _ _ _ entries => decide (1 ≤ entries.length) && decide (entries.length ≤ 120)
  | .streamOpen _ _ _ _ _ => true
  | .streamFill _ _ _ _ _ data => decide (data.length ≤ 240)
  | .streamStart _ _ _ => true
  | .streamStop _ _ _ => true
  | .streamClose _ _ _ => true
  | .streamStatus _ _ _ => true
  | .slicePeriod _ _ _ => true
  | .positionSlice _ => true
  | .floorTrackerRise _ _ level => decide (level ≤ 120)
  | .vadHangoverExpiry _ ratio => decide (ratio ≤ 120)
  | .boostRefresh _ => true
  | .doubleTalkHangoverExpiry _ ymax xmax => decide (ymax ≤ 32768) && decide (xmax ≤ 32768)
  | .converged _ => true
  | .diverged _ estimateLevel returnLevel => decide (estimateLevel ≤ 120) && decide (returnLevel ≤ 120)
  | .lossOfErle _ => true
  | .researchPeriodExpiry _ => true
  | .searchStart => true
  | .searchCompletes => true
  | .timedOut => true
  | .passEnd _ _ => true
  | .burstComplete _ => true
  | .newCycle _ => true
  | .halfEmpty _ => true
  | .turn => true
  | .moveCompletes => true
  | .frameSync _ distance => decide (0 < distance)
  | .missingSync _ => true
  | .positionPortGroup _ => true

end Sys2Proof
end

