-- ==== Sys2Proof/Tests/Slice0.lean ====
section
/-! SUPPORT. Tests: what well-formedness refuses, worked figures of spec/, single steps, and for each statement with hypotheses a
state and operands that meet them, clause by clause (`test_met_<statement>`). Every expected figure is from the rule or worked case
named beside it. -/

namespace Sys2Proof.Tests

open Sys2Proof Sys2Proof.Machine

-- One test after the other: many kernel evaluations at once each hold a thread and its stack.
set_option Elab.async false

/-! ## Well-formedness refuses -/

theorem test_refuses_long_frame : (Instr.frameArrival ⟨0x10, 0, 0, List.replicate 249 0⟩).wellFormed = false := by
  decide +kernel
theorem test_refuses_arrival_of_linkClear : (Instr.frameArrival ⟨0x04, 0, 0, []⟩).wellFormed = false := by decide
theorem test_refuses_frameError_of_a_whole_frame : (Instr.frameError 3 3).wellFormed = false := by decide
theorem test_refuses_long_linkClear : (Instr.linkClear 0 0 (List.replicate 249 0)).wellFormed = false := by
  decide +kernel
theorem test_refuses_badKind_of_a_known_kind : (Instr.badKind ⟨0x10, 0, 0, []⟩).wellFormed = false := by decide
theorem test_refuses_badKind_of_a_long_frame : (Instr.badKind ⟨0x07, 0, 0, List.replicate 249 0⟩).wellFormed = false := by
  decide +kernel
theorem test_refuses_portSet_of_15_slots : (Instr.portSet 0xFF 0 0 0 (List.replicate 15 0)).wellFormed = false := by decide
theorem test_refuses_clipWrite_of_241_bytes : (Instr.clipWrite 0xFF 0 0 (List.replicate 241 0)).wellFormed = false := by
  decide +kernel
theorem test_refuses_expandLoad_of_nothing : (Instr.expandLoad 0xFF 0 0 []).wellFormed = false := by decide
theorem test_refuses_expandLoad_of_121 : (Instr.expandLoad 0xFF 0 0 (List.replicate 121 0)).wellFormed = false := by
  decide +kernel
theorem test_refuses_streamFill_of_241_bytes :
    (Instr.streamFill 0xFF 0 0 0 0 (List.replicate 241 0)).wellFormed = false := by
  decide +kernel
theorem test_refuses_rise_above_120 : (Instr.floorTrackerRise 0 .microphone 121).wellFormed = false := by decide
theorem test_refuses_ratio_above_120 : (Instr.vadHangoverExpiry 0 121).wellFormed = false := by decide
theorem test_refuses_ymax_above_full_scale : (Instr.doubleTalkHangoverExpiry 0 32769 0).wellFormed = false := by decide
theorem test_refuses_xmax_above_full_scale : (Instr.doubleTalkHangoverExpiry 0 0 32769).wellFormed = false := by decide
theorem test_refuses_estimate_above_120 : (Instr.diverged 0 121 0).wellFormed = false := by decide
theorem test_refuses_return_above_120 : (Instr.diverged 0 0 121).wellFormed = false := by decide
theorem test_refuses_sync_at_distance_0 : (Instr.frameSync .network 0).wellFormed = false := by decide

/-- The table gives no row any bits. -/
theorem test_no_word_spells_a_command : decodeTableWord 8 0x10 = none := by decide

/-- A frame as R173 lays it out: POS-OPEN is KIND 0x10 with an empty body. -/
theorem test_kind_of_posOpen : commandOfKind 0x10 = some .posOpen ∧ bodyFits .posOpen [] = true := by decide
theorem test_every_kind_is_found : ∀ c : Command, commandOfKind (kindOf c).toNat = some c := by intro c; cases c <;> decide

/-! ## Worked figures -/

/-- Table 2-2. -/
theorem test_scale :
    scale 1000 (-8) = 501 ∧ scale (-1000) (-8) = -501 ∧ scale 32767 (-63) = 142 ∧ scale (-32768) (-63) = -142 ∧
      scale 20000 8 = 39905 ∧ scale (-32768) 0 = -32768 := by decide

/-- The network-transmit case of chapter 1: 4000 by TX_ATT 8, with a tone of 3000. -/
theorem test_transmit : networkTransmit [scale 4000 (-8)] [0] [3000] = [5005] ∧ networkTransmit [0] [-31000] [-3000] = [-32768] := by
  decide

/-- The earpiece case of chapter 1: boost 8, VOLUME 4, inner sum 8000, side-tone 16 of 1200. -/
theorem test_earpiece : earpieceSlice 8 4 [8000] (sideTone 16 [1200]) = [11601] ∧ earpieceSlice 8 0 [20000] [0] = [32767] := by decide

/-- Table 2-3. -/
theorem test_level :
    levelIndex (List.replicate 64 1) = 0 ∧ levelIndex (List.replicate 64 2) = 8 ∧ levelIndex (List.replicate 64 1000) = 79 ∧
      levelIndex (List.replicate 64 32767) = 119 ∧ levelIndex (List.replicate 64 (-32768)) = 120 := by decide

/-- Table 2-4, slices 4, 5 and 8. -/
theorem test_tracker :
    trackerStep 3 85 ⟨79, 2⟩ = ⟨80, 0⟩ ∧ trackerStep 3 70 ⟨80, 0⟩ = ⟨70, 0⟩ ∧ trackerStep 3 71 ⟨70, 2⟩ = ⟨71, 0⟩ := by decide

/-- Tables 2-5 and 2-6. -/
theorem test_curves :
    curveFalling (suppressionCurve defaultPosParams) 16 7 0 = 10 ∧ curveFalling (suppressionCurve defaultPosParams) 16 10 0 = 5 ∧
      curveFalling (suppressionCurve defaultPosParams) 16 14 0 = 0 ∧ boostTarget defaultPosParams 56 = 0 ∧
      boostTarget defaultPosParams 64 = 8 ∧ boostTarget defaultPosParams 90 = 20 := by decide

/-- Table 3-2, slice 5: F_m 60 at count 14, hangover 3, A_a 4. -/
theorem test_suppressor :
    let x := receivedSlice { defaultPosParams with vadHang := 3 } 66 ⟨⟨60, 14⟩, true, 3, 4, 0, 0, 0⟩
    (x.floor, x.vad, x.hangover, x.applied) = (⟨60, 15⟩, true, 2, 5) := by decide

/-- A history of zeros but for the three samples of the worked case of chapter 4, D being 0. -/
def clicks : List Int := List.replicate 2048 0 ++ [1000, 1000] ++ List.replicate 61 0 ++ [-2400]

/-- Table 4-1: the errors of samples n0 and n0 + 1, and h_0 and h_1 after them. -/
theorem test_two_updates :
    (cancelSamples 64 true clicks 0 0 [500, 500] zeroCoeffs).2.1 = [500, 439] ∧
      (cancelSamples 64 true clicks 0 0 [500, 500] zeroCoeffs).2.2 = 104172723 :: 38655150 :: List.replicate 254 0 := by decide +kernel

/-- The suppressed slice of chapter 4: the generator at 0x0001, F_c 79. -/
theorem test_comfort_noise : ((noiseRun 3 1).1.map (comfortSample 79)) = [-558, 660, 330] := by decide

/-- Table 4-3, slices 2 and 3. -/
theorem test_erle : erleStep 60 33 19 = 20 ∧ doubleTalkHangover 32 true 0 = 32 ∧ doubleTalkHangover 32 false 32 = 31 := by decide

/-- The completed SHORT search of chapter 5: its span, and D_new for a peak at 566. -/
theorem test_search_span : searchSpan .short 496 = (432, 815) ∧ windowForPeak 566 = 528 := by decide

/-- R93: the smallest lag of the largest magnitude, and the ratio test at equality. -/
theorem test_peak :
    peakLag 1 4 [9, 1, -6, 6, 5, 9] = 2 ∧ peakFound 2 0 3 [8, 0, 4, 4] = true ∧ peakFound 2 0 3 [7, 1, 4, 4] = false ∧
      peakFound 2 0 3 [0, 0, 0, 0] = false := by decide

/-- Table 6-6's conversions. -/
theorem test_pack12 : [1000, -1000, 32767, 8, -9].map pack12 = [63, -62, 2047, 1, -1] := by decide

/-- Clip 20 of Table 6-6 decodes to 1008 and −992 (its first pair is 63 and −62). -/
theorem test_pair_decodes :
    readPack12 (writeBytes [] 512 (pairBytes 63 (-62))) 512 0 * 16 = 1008 ∧
      readPack12 (writeBytes [] 512 (pairBytes 63 (-62))) 512 1 * 16 = -992 := by decide

/-- The ducking case of chapter 7: level 4, DUCK 8, and level 60. -/
theorem test_ducking : scale 1008 (-4) = 714 ∧ scale 1008 (-12) = 358 ∧ scale 1008 (-63) = 4 := by decide

/-- The first samples of a burst of 1400 Hz at level 8 (chapter 9). -/
theorem test_burst_samples :
    phaseIncrement 1400 = 5734 ∧ (toneSamples 5734 8 3 0).1 = [0, 4222, 7242] ∧ (toneSamples 5734 8 64 0).2 = 39296 := by decide

/-- A stream of LIN16 halves of 320 samples (Table 8-3). -/
def fedStream (a b : Half) (half : Fin 2) (offset : Nat) (underrun : Bool) : Stream :=
  { openedStream .lin16 320 600 with
    state := .running, half0 := a, half1 := b, readHalf := half, readOffset := offset, underrun := underrun }

/-- Table 8-3: the ring takes 6 pages. -/
theorem test_ring : ringPages .lin16 320 = 6 := by decide

/-- Table 8-4, periods 5, 8 and 10: the events and the read positions. -/
theorem test_fixing :
    let five := fixStream [] (fedStream ⟨.playing, 300, 300⟩ ⟨.full, 200, 200⟩ 0 256 false)
    let eight := fixStream [] (fedStream ⟨.filling, 240, 0⟩ ⟨.playing, 200, 200⟩ 1 148 false)
    let ten := fixStream [] (fedStream ⟨.full, 280, 280⟩ ⟨.filling, 9, 0⟩ 0 0 true)
    (five.events, five.stream.readHalf, five.stream.readOffset) = ([(.halfEmpty, 0)], 1, 20) ∧
      (eight.events, eight.stream.readHalf, eight.stream.underrun) = ([(.halfEmpty, 1), (.underrun, 0)], 0, true) ∧
      (ten.events, ten.stream.readOffset, ten.stream.underrun) = ([(.resumed, 0)], 64, false) := by decide +kernel

/-! ## Small states -/

/-- The state an answer leaves. -/
def left (i : Instr) (s : State) : Option State :=
  match exec i s with
  | .next t => some t
  | .fault _ => none
  | .refused _ => none

/-- The record of position 0 changed. -/
def with0 (f : Position → Position) (s : State) : State := putPos s 0 (f (getPos s 0))

/-- Position 0 in a call state, its canceller TRAINING. -/
def inCall (c : CallState) (s : State) : State :=
  with0 (fun r => { r with call := c, canceller := { r.canceller with state := .training } }) s

/-- Position 0 logged on. -/
def ready : State := with0 (fun r => { r with call := .ready }) State.reset

/-- A READY clip of 100 samples, 1 page at page 0. -/
def clip100 : Clip := ⟨.ready, .lin16, 128, 100, 0, 1, none, 0, none⟩

/-- Clip 3 is READY, and stream 1 OPEN with halves of 256 samples at pages 1 to 4. -/
def stocked (s : State) : State := putStream (putClip s 3 clip100) 1 (openedStream .lin16 256 1)

/-- PLAY's item for clip 3 from sample 0, one loop, tag 9. -/
def clipSpec : ItemSpec := ⟨0, 3, 0, 1, 0, 9⟩

/-- PLAY's item for stream 1, tag 8. -/
def streamSpec : ItemSpec := ⟨1, 1, 0, 1, 0, 8⟩

/-- The held item of `clipSpec`. -/
def clipItem : Item := ⟨.clip 3, 0, 1, 0, 9, 0, 1⟩

/-- The held item of `streamSpec`. -/
def streamItem : Item := ⟨.stream 1, 0, 1, 0, 8, 0, 1⟩

/-- Position 0 CONNECTED, with clip 3 and stream 1 at hand. -/
def talking : State := stocked (inCall .connected State.reset)

/-- Clip 3 in a state, with a length. -/
def clipAs (st : ClipState) (n : Nat) : State := putClip talking 3 { clip100 with state := st, length := n }

/-- The players of position 0 replaced. -/
def playing (net agent : Player) (s : State) : State := with0 (fun r => { r with net := net, agent := agent }) s

/-- Position 0 in ANNOUNCE, its AGENT player at its last item. -/
def whispering : State := playing idlePlayer ⟨some clipItem, [], []⟩ (stocked (inCall .announce State.reset))

/-- In standby. -/
def asleep : State := putPorts State.reset (sleepingPorts State.reset.ports)

/-- A slice period in progress, both ports delivering, and position 0 with its slice to process. -/
def inPeriod (s : State) : State :=
  with0 (fun r => { r with sliceDue := true }) (putPeriod s { noPeriod with active := true, netLocked := true, micReceived := true })

/-- A reply to POS-STATUS. -/
def someReply : Message := .reply ⟨0x97, 0, 0, .badState, []⟩

/-- n replies wait to be read. -/
def unread (n : Nat) (s : State) : State := putLink s { s.link with outbound := List.replicate n someReply }

/-- POS-STATUS for position 0. -/
def statusFrame : Frame := ⟨0x17, 0, 0, []⟩

/-- Frames wait in the inbound queue. -/
def waiting (n : Nat) (s : State) : State := putLink s { s.link with inbound := List.replicate n statusFrame }

/-- A read transaction of the head message is in progress. -/
def reading (s : State) : State := putLink s { s.link with reading := some ⟨[4, 0x97, 0, 0, 0x20], true, 0, false⟩ }

/-- Compaction runs. -/
def compacting (s : State) : State := putCompaction s { compactionIdle with running := true }

/-- Both ports are LOCKED slaves, and the Position Port counts its groups. -/
def slaves (s : State) : State :=
  putPorts s { s.ports with
    position := ⟨.slave, .locked, 3, identityMap, .slave⟩, network := ⟨.slave, .locked, 3, identityMap, .slave⟩, grouping := true }

/-- The Position Port has just locked: its centring slices wait, and its first group has not begun. -/
def justLocked : State :=
  putPorts State.reset (centredBuffers { State.reset.ports with position := ⟨.slave, .locked, 3, identityMap, .slave⟩ })

/-- Sixteen slots of one word each that is not 0. -/
def noisy : AudioBlock := Vector.replicate 16 (Vector.replicate 64 7)

/-! ## Single steps -/

/-- R4. -/
theorem test_posOpen_step :
    (left (.posOpen 0 7) State.reset).map (fun t => ((getPos t 0).call, t.link.outbound.drop 1)) =
      some (.ready, [.reply ⟨0x90, 0, 7, .ok, []⟩]) := by decide

/-- Table 1-3: the other position commands are refused on a VACANT position. -/
theorem test_vacant_refuses :
    (left (.callConnect 0 7) State.reset).map (fun t => t.link.outbound.drop 1) = some [.reply ⟨0x93, 0, 7, .badState, []⟩] := by decide

/-- R34: at knees 4, 8 and 16, NS_K1 written with 20 is stored as 8. -/
theorem test_knee_clamped :
    (left (.setParam 0 7 3 20) State.reset).map (fun t => ((getPos t 0).params.nsK1, t.link.outbound.drop 1)) =
      some (8, [.reply ⟨0x88, 0, 7, .clamped, [byteField 3, .num 2 8]⟩]) := by decide

/-- Table 3-3, slice 625: the refresh of a floor of 64. -/
theorem test_refresh_reports :
    (left (.boostRefresh 0) (inPeriod (with0 (fun r => { r with suppressor := ⟨⟨64, 0⟩, false, 0, 0, 0, 0, 624⟩ }) ready))).map
      (fun t => t.link.outbound.drop 1) = some [.report (.level 0 8 0 1 64) 1] := by decide

/-- Chapter 9's alert: the third burst of three completes, the unit stops. -/
theorem test_third_burst :
    (left (.burstComplete 0) (with0 (fun r => { r with tone := ⟨true, .ear, 1802, 4, 50, 25, 3, 0, 24, 2⟩ }) ready)).map
      (fun t => ((getPos t 0).tone.running, t.link.outbound.drop 1)) =
      some (false, [.report (.tone 0 .completed .ear 3 3) 1]) := by decide

/-- Table 5-8, step 4: a host's SHORT merges into the follow-up of the position in flight; the queue length is 2. -/
theorem test_search_follow_up :
    (left (.search 0 7 0) (putEngine talking
      { talking.engine with
        inFlight := some ⟨⟨0, ⟨.long, .host, false⟩⟩, 0, 2047, 5, 5⟩, followUp := some ⟨.short, .auto, false⟩
        queue := [⟨3, ⟨.long, .host, false⟩⟩, ⟨12, ⟨.long, .auto, false⟩⟩] })).map
      (fun t => (t.engine.followUp, t.link.outbound.drop 1)) =
      some (some ⟨.short, .host, false⟩, [.reply ⟨0x9A, 0, 7, .ok, [byteField 3, byteField 2]⟩]) := by decide

/-- Table 6-6: the write of 8, −9, 100, 200 to clip 20, whose pending sample is 2047. -/
theorem test_clip_write_clamped :
    (left (.clipWrite 0xFF 7 20 [0, 8, 0xFF, 0xF7, 0, 100, 0, 200])
      (putClip State.reset 20 ⟨.uploading, .pack12, 5, 2, 600, 1, some 2047, 0, none⟩)).map
      (fun t => ((getClip t 20).length, (getClip t 20).pending, t.link.outbound.drop 1)) =
      some (4, some (-1), [.reply ⟨0xA9, 0xFF, 7, .clamped, [byteField 2, .num 3 4, byteField 1]⟩]) := by decide

/-- Clips 3 and 7, the ring of stream 1, and clip 12 of Table 6-8. -/
def tableStore : State :=
  putStream
    (putClip (putClip (putClip State.reset 3 ⟨.ready, .lin16, 1600, 1600, 0, 13, none, 0, none⟩)
      7 ⟨.ready, .lin16, 16000, 16000, 40, 125, none, 0, none⟩) 12 ⟨.ready, .lin16, 1600, 1600, 229, 13, none, 1, none⟩)
    1 (openedStream .lin16 4096 165)

/-- Table 6-9: the turn of clip 7 finds page 13. -/
theorem test_turn_moves_clip_7 :
    (left .turn (putCompaction tableStore ⟨true, some 0, none, 0, 1, 0⟩)).map
      (fun t => ((getClip t 7).state, t.store.compaction)) =
      some (.moving, ⟨true, some 40, some ⟨7, 40, 13, 125, 0⟩, 1, 1, 0⟩) := by decide

/-- Table 7-4, step 5: the bottom item of a full stack is dropped. -/
theorem test_stack_overflow :
    (left (.playInterrupt 0 7 0 { clipSpec with tag := 5 })
      (playing ⟨some streamItem, [{ clipItem with tag := 3 }, { clipItem with tag := 1 }], []⟩ idlePlayer
        (putClip talking 3 { clip100 with refCount := 2 }))).map
      (fun t => ((getPos t 0).net.stack.map Item.tag, (getPos t 0).net.current.map Item.tag, (getClip t 3).refCount)) =
      some ([8, 3], some 5, 2) := by decide

/-- Table 10-1: the fourth sync locks the port and gives both buffers their centring slice. -/
theorem test_fourth_sync :
    (left (.frameSync .position 256)
      (putPorts State.reset { State.reset.ports with position := ⟨.slave, .syncing, 3, identityMap, .slave⟩ })).map
      (fun t => (t.ports.position.state, t.ports.rx.length, t.ports.tx.length)) = some (.locked, 1, 1) := by decide

/-- R166, Table 10-1: the frame after the lock begins the first group, which takes the centring slice; the group then completes and joins
the receive buffer. -/
theorem test_first_group :
    (left (.frameSync .position 256) justLocked).map (fun t => (t.ports.grouping, t.ports.rx.length, t.ports.tx.length, t.ports.slips)) =
        some (true, 1, 0, ⟨0, 0, 0, 0⟩) ∧
      (left (.positionPortGroup noisy) justLocked).map (fun t => (t.ports.rx, t.ports.slips.txUnder)) =
        some ([⟨false, silentBlock⟩, ⟨true, noisy⟩], 1) := by decide +kernel

/-- R148: the slice already fixed stands for the whole period, through a STREAM-CLOSE and a STREAM-OPEN. -/
theorem test_fixed_slice_stands :
    ((left (.streamClose 0xFF 7 1) (putStream talking 1 { getStream talking 1 with slice := List.replicate 64 (.sample 5) })).bind
      (left (.streamOpen 0xFF 8 1 0 256))).map (fun t => ((getStream t 1).state, (getStream t 1).slice)) =
      some (.opened, List.replicate 64 (.sample 5)) := by decide +kernel

/-- R68: a loss and a research request of one slice are one entry. -/
theorem test_one_request :
    (let c : CancellerSlice := ⟨(getPos talking 0).canceller, [], none, true, true⟩
     let s := sliceRequests 0 { stages 0 talking with canceller := c } talking
     (s.engine.inFlight.map InFlight.entry, s.engine.followUp, s.engine.queue)) =
      (some ⟨0, ⟨.short, .auto, false⟩⟩, none, []) := by decide +kernel

/-- R163: the reply carries the role and the map. -/
theorem test_portSet_reply :
    (left (.portSet 0xFF 7 1 0 ((List.range 16).map (BitVec.ofNat 8))) State.reset).map (fun t => t.link.outbound.drop 1) =
      some [.reply ⟨0x85, 0xFF, 7, .ok, byteField 0 :: (List.range 16).map byteField⟩] := by decide +kernel

/-- R172, R174: a write of POS-OPEN for position 2 with a byte after it, a write that ends in its frame, a read, and a transaction of
another type; SDO in each. -/
theorem test_transactions :
    rowsOfTransaction [0x5A, 3, 0x10, 2, 9, 0xEE] = [.frameArrival ⟨0x10, 2, 9, []⟩] ∧
      rowsOfTransaction [0x5A, 3, 0x04, 2, 9] = [.linkClear 2 9 []] ∧ rowsOfTransaction [0x5A, 3, 0x10, 2] = [.frameError 3 2] ∧
      rowsOfTransaction [0xC3, 0, 0] = [.read .start, .read (.selHigh 2)] ∧ rowsOfTransaction [0x5B, 3, 0x10, 2, 9] = [] ∧
      sdoBytes (unread 1 ready) [0xC3, 0, 0, 0, 0, 0, 0] = [0, 4, 0x97, 0, 0, 0x20, 0] ∧
      sdoBytes (unread 1 ready) [0x5A, 3, 0x10] = [0, 0, 0] := by decide +kernel

/-- Table 11-5, F17: the latch is set with a count of 1, and one OVERRUN report waits behind the replies. -/
theorem test_overrun :
    (left (.frameArrival statusFrame) (waiting 8 (unread 8 State.reset))).map
      (fun t => (t.link.latch, t.link.discards, t.link.inbound.length, t.link.outbound.drop 8)) =
      some (true, 1, 8, [.report (.link .overrun true 8 1 0) 1]) := by decide

/-- Table 11-5: reading R1 whole lets F9 be taken; reading 4 of its 5 bytes does not. -/
theorem test_read_takes_the_next :
    (left (.read (.selHigh 5)) (reading (waiting 8 (unread 8 State.reset)))).map (fun t => t.link.inbound.length) = some 7 ∧
      (left (.read (.selHigh 4)) (reading (waiting 8 (unread 8 State.reset)))).map (fun t => t.link.inbound.length) = some 8 := by
  decide

/-- Table 11-5, LINK-CLEAR: the pending LINK report keeps its place behind the replies and shows CLEARED with repeat 4. -/
theorem test_coalesce_keeps_its_place :
    let s := putLink State.reset { State.reset.link with
      latch := true, discards := 3, outbound := [someReply, .report (.link .overrun true 7 3 0) 3, someReply] }
    (left (.linkClear 0 0 []) s).map (fun t => t.link.outbound) =
      some [someReply, .report (.link .cleared false 0 3 0) 4, someReply] := by decide

/-- R179: the repeat count stops at 255. R180: a read of the head entry counts what is coalesced into it, and a read of another entry
does not. -/
theorem test_coalesce_during_a_read :
    (let s := reading (putLink State.reset { State.reset.link with outbound := [.report (.link .powerOn false 0 0 0) 255, someReply] })
     (left (.frameError 2 2) s).map (fun t => (t.link.outbound.length, t.link.outbound.head?, t.link.reading.map Reading.coalesced)) =
       some (2, some (.report (.link .frameError false 0 0 1) 255), some 1)) ∧
      (let s := reading (putLink State.reset { State.reset.link with outbound := [someReply, .report (.link .powerOn false 0 0 0) 1] })
       (left (.frameError 2 2) s).map (fun t => (t.link.outbound.drop 1, t.link.reading.map Reading.coalesced)) =
         some ([.report (.link .frameError false 0 0 1) 2], some 0)) := by decide

/-- R178: ATTN is asserted after power-on, deasserted by the read that removes the last message, asserted after a device reset. -/
theorem test_attention :
    attention State.reset = true ∧ (left (.read (.selHigh 5)) (reading (unread 1 ready))).map attention = some false ∧
      (left (.resetDevice 0xFF 0 0) (unread 0 ready)).map attention = some true := by decide +kernel

/-- R164, Table 10-4: after power-on the Network Port's clocks are inputs and the Position Port drives its own; in standby they are held
low, also where SLAVE is stored there, which takes effect at WAKE (R163); behind a LOCKED slave Network Port a master follows it. -/
theorem test_clock_pins :
    let slots : List Byte := (List.range 16).map (BitVec.ofNat 8)
    (clockPins State.reset.ports .network, clockPins State.reset.ports .position) = (.inputs, .driven .internal) ∧
      (clockPins asleep.ports .network, clockPins asleep.ports .position) = (.inputs, .heldLow) ∧
      (left (.portSet 0xFF 0 1 1 slots) asleep).map (fun t => (t.ports.position.role, clockPins t.ports .position)) =
        some (.slave, .heldLow) ∧
      ((left (.portSet 0xFF 0 1 1 slots) asleep).bind (left (.wake 0xFF 0))).map (fun t => clockPins t.ports .position) = some .inputs ∧
      (left (.frameSync .network 256) (putPorts State.reset (setSync .network .syncing 3 State.reset.ports))).map
        (fun t => clockPins t.ports .position) = some (.driven .network) := by decide +kernel

/-! ## Hypotheses met -/

/-- A part at work: position 0 in a call with both players, a tone and a search, position 1 waiting for a search, a move in progress,
a slave Position Port, eight unread replies with a frame behind them, and two commands waiting. -/
def lively : State :=
  let item : Item := { clipItem with readOffset := 40 }
  let busy (r : Position) : Position :=
    { r with
      call := .connected, net := ⟨some item, [streamItem], [clipItem]⟩, agent := ⟨some streamItem, [], []⟩
      canceller := { r.canceller with state := .tracking, window := 496, erle := 23 }
      tone := ⟨true, .both, 5734, 8, 2500, 50, 0, 0, 12, 3⟩, sliceDue := true }
  let s := putPos (putPos State.reset 0 (busy (getPos State.reset 0))) 1
    { getPos State.reset 1 with
      call := .held, canceller := { (getPos State.reset 1).canceller with state := .training } }
  let stored := putStream
    (putClip (putClip s 3 { clip100 with refCount := 2 }) 5 ⟨.moving, .lin16, 256, 256, 9, 2, none, 0, some .ready⟩)
    1 { openedStream .lin16 256 1 with state := .running, listeners := 1, half0 := ⟨.playing, 200, 200⟩, readOffset := 64 }
  { stored with
    pending := [.posOpen 2 0, .turn]
    link := { stored.link with inbound := [statusFrame], outbound := List.replicate 8 someReply }
    engine := ⟨some ⟨⟨0, ⟨.long, .host, false⟩⟩, 0, 2047, 5, 9⟩, some ⟨.short, .auto, false⟩, [⟨1, ⟨.short, .auto, false⟩⟩],
      List.replicate 2048 0⟩
    store := { stored.store with mem := [(0, 1), (524287, 255)], compaction := ⟨true, some 9, some ⟨5, 9, 6, 2, 1⟩, 1, 0, 1⟩ }
    ports := { stored.ports with
      position := ⟨.slave, .locked, 3, identityMap, .slave⟩, rx := [⟨true, silentBlock⟩], tx := [silentBlock] }
    period := { noPeriod with active := true } }

/-- A step of `lively` answers a next state. -/
theorem test_lively_steps : ∃ t, step lively = .next t := ⟨_, rfl⟩

theorem test_met_StepTakesTheFrontCommand :
    lively.pending = .posOpen 2 0 :: [.turn] ∧ State.reset.pending = [] := by decide

theorem test_met_StepKeepsMemoryCanonical : Memory.wf lively.store.mem ∧ ∃ t, step lively = .next t :=
  ⟨by decide, test_lively_steps⟩

theorem test_met_StepKeepsTheLinkQueues : LinkOk lively.link ∧ ∃ t, step lively = .next t :=
  ⟨by unfold LinkOk; decide, test_lively_steps⟩

theorem test_lively_players : ∀ p, PlayersOk (getPos lively p) := by unfold PlayersOk PlayerOk; decide +kernel

theorem test_met_StepKeepsThePlayers : (∀ p, PlayersOk (getPos lively p)) ∧ ∃ t, step lively = .next t :=
  ⟨test_lively_players, test_lively_steps⟩

theorem test_met_StepKeepsTheTones : (∀ p, ToneOk (getPos lively p)) ∧ ∃ t, step lively = .next t :=
  ⟨by unfold ToneOk; decide +kernel, test_lively_steps⟩

theorem test_lively_cancellers : ∀ p, CancellerOk (getPos lively p) := by
  unfold CancellerOk TrackerOk HistoryOk CoeffsOk CancellerCountsOk; decide +kernel

theorem test_lively_defaults : ∀ p, (getPos lively p).params = defaultPosParams := by decide +kernel

theorem test_lively_params : ∀ p, ParamsOk (getPos lively p).params := by
  intro p
  rw [test_lively_defaults p]
  exact ⟨by intro q; cases q <;> decide, by decide⟩

theorem test_met_StepKeepsTheCancellers :
    (∀ p, ParamsOk (getPos lively p).params) ∧ (∀ p, CancellerOk (getPos lively p)) ∧ ∃ t, step lively = .next t :=
  ⟨test_lively_params, test_lively_cancellers, test_lively_steps⟩

theorem test_met_StepKeepsTheParameters :
    (∀ p, ParamsOk (getPos lively p).params) ∧ DeviceOk lively.device ∧ ∃ t, step lively = .next t :=
  ⟨test_lively_params, by unfold DeviceOk; decide, test_lively_steps⟩

theorem test_met_StepKeepsTheSuppressors :
    (∀ p, ParamsOk (getPos lively p).params) ∧ (∀ p, SuppressorOk (getPos lively p).suppressor) ∧
      ∃ t, step lively = .next t :=
  ⟨test_lively_params, by unfold SuppressorOk TrackerOk; decide +kernel, test_lively_steps⟩

/-- The accumulators after power-on are in range. -/
theorem test_zero_accumulators : AccumulatorsOk (List.replicate 2048 0) := by unfold AccumulatorsOk; decide +kernel

theorem test_lively_engine : EngineOk lively := by
  refine ⟨test_zero_accumulators, by decide, by decide, by decide, ?_⟩
  intro f h
  cases h
  unfold InFlightOk
  decide

theorem test_met_StepKeepsTheEngine :
    DeviceOk lively.device ∧ (∀ p, CancellerOk (getPos lively p)) ∧ EngineOk lively ∧ ∃ t, step lively = .next t :=
  ⟨by unfold DeviceOk; decide, test_lively_cancellers, test_lively_engine, test_lively_steps⟩

theorem test_met_StepKeepsTheListenerCounts : ListenersOk lively ∧ ∃ t, step lively = .next t :=
  ⟨by unfold ListenersOk; decide +kernel, test_lively_steps⟩

theorem test_lively_move : MoveOk lively := by
  refine ⟨fun m h => ?_, fun c h => ⟨_, rfl, ?_⟩⟩
  · cases h
    decide
  · revert c
    decide +kernel

theorem test_met_StepKeepsTheReferenceCounts : MoveOk lively ∧ CountsOk lively ∧ ∃ t, step lively = .next t :=
  ⟨test_lively_move, by unfold CountsOk; decide +kernel, test_lively_steps⟩

theorem test_met_StepKeepsTheStore :
    (∀ c, ClipOk (getClip lively c)) ∧ SpaceOk lively ∧ MoveOk lively ∧ ∃ t, step lively = .next t :=
  ⟨by unfold ClipOk; decide +kernel, by unfold SpaceOk apart; decide +kernel, test_lively_move, test_lively_steps⟩

theorem test_met_StepKeepsTheStreams : (∀ i, StreamOk (getStream lively i)) ∧ ∃ t, step lively = .next t :=
  ⟨by unfold StreamOk; decide +kernel, test_lively_steps⟩

theorem test_lively_ports : PortsOk lively.ports := by unfold PortsOk PortOk; decide +kernel

theorem test_met_StepKeepsThePortsAndStandby : PortsOk lively.ports ∧ StandbyOk lively ∧ ∃ t, step lively = .next t :=
  ⟨test_lively_ports, by unfold StandbyOk; decide, test_lively_steps⟩

/-- Standby itself meets the invariants of the ports and of standby. -/
theorem test_asleep_is_well : PortsOk asleep.ports ∧ StandbyOk asleep := by
  unfold PortsOk PortOk StandbyOk; decide +kernel

/-! ### The Control Link -/

theorem test_met_FrameArrivalJoinsOrOverruns :
    (statusFrame.kind ≠ 0x04 ∧ statusFrame.body.length ≤ 248) ∧
      (let s := waiting 8 (unread 8 State.reset)
       8 ≤ repliesWaiting s.link.outbound ∧ 8 ≤ s.link.inbound.length) ∧
      (let s := putLink State.reset { State.reset.link with latch := true }
       s.link.inbound = [] ∧ s.link.latch = true) ∧
      (let s := waiting 7 (unread 8 State.reset)
       s.link.latch = false ∧ s.link.inbound.length < 8 ∧ 8 ≤ repliesWaiting s.link.outbound) ∧ Accepts State.reset := by
  unfold Accepts; decide

theorem test_met_FrameErrorIsCounted :
    (2 : Byte).toNat < 3 ∧ 251 < (252 : Byte).toNat ∧ 250 < (251 : Byte).toNat ∧
      (3 ≤ (251 : Byte).toNat ∧ (251 : Byte).toNat ≤ 251 ∧ (251 : Byte).toNat ≤ 251) ∧ [(0 : Byte), 0].length < (3 : Byte).toNat ∧
      (0x5B : Byte) ≠ 0x5A ∧ (0x5B : Byte) ≠ 0xC3 := by decide

theorem test_met_LinkClearClearsTheLatch : (List.replicate 248 (0 : Byte)).length ≤ 248 := by decide +kernel

/-- A LINK report pending at the head and behind a reply, none pending, and reads of a head entry, of the single 0, and of one that a
device reset emptied away. -/
theorem test_met_LinkClearClearsTheLatch_queue :
    let pending : Message := .report (.link .powerOn false 0 0 0) 255
    State.reset.link.outbound = [] ++ .report (.link .powerOn false 0 0 0) 1 :: [] ∧
      (putLink ready { ready.link with outbound := [someReply, pending] }).link.outbound = [someReply] ++ pending :: [] ∧
      (∀ x ∈ reportsOf [someReply], reportKind x ≠ 0x68) ∧ (∀ x ∈ reportsOf (unread 1 ready).link.outbound, reportKind x ≠ 0x68) ∧
      ready.link.reading = none ∧ (∃ r, (reading ready).link.reading = some r ∧ r.present = true ∧ r.emptied = false) ∧
      (∃ r, (left (.read .start) (unread 0 ready)).bind (fun t => t.link.reading) = some r ∧ r.present = false) ∧
      ∃ r, (left (.resetDevice 0xFF 0 0) (reading ready)).bind (fun t => t.link.reading) = some r ∧ r.emptied = true :=
  ⟨rfl, rfl, by decide, by decide, rfl, ⟨_, rfl, rfl, rfl⟩, ⟨⟨[0], false, 0, false⟩, by decide +kernel, rfl⟩,
    ⟨⟨[4, 0x97, 0, 0, 0x20], true, 0, true⟩, by decide +kernel, rfl⟩⟩

theorem test_met_ReadShiftsOutTheHead :
    (let r : Reading := ⟨[0], false, 0, false⟩
     (putLink ready { ready.link with reading := some r }).link.reading = some r ∧ r.present = false) ∧
      (let r : Reading := ⟨[0], true, 0, true⟩
       (putLink ready { ready.link with reading := some r }).link.reading = some r ∧ r.emptied = true) ∧
      (∃ r, (reading (unread 1 ready)).link.reading = some r ∧ 4 < r.bytes.length) ∧
      (∃ r, (reading ready).link.reading = some r ∧ r.present = true ∧ r.emptied = false ∧ r.bytes.length ≤ 5 ∧
        (reading ready).link.outbound = .report (.link .powerOn false 0 0 0) 1 :: [] ∧ (reading ready).link.inbound = []) ∧
      ∃ r, (reading (unread 1 ready)).link.reading = some r ∧ r.present = true ∧ r.emptied = false ∧ r.bytes.length ≤ 5 ∧
        (reading (unread 1 ready)).link.outbound = someReply :: [] ∧ r.coalesced = 0 ∧
        (reading (unread 1 ready)).link.inbound = [] :=
  ⟨by decide, by decide, ⟨_, rfl, by decide⟩, ⟨_, rfl, rfl, rfl, by decide, rfl, rfl⟩, ⟨_, rfl, rfl, rfl, by decide, rfl, rfl, rfl⟩⟩

theorem test_met_ReplyReadTakesTheNextCommand :
    let s := reading (waiting 1 (unread 8 State.reset))
    ∃ r, s.link.reading = some r ∧ r.present = true ∧ r.emptied = false ∧ r.coalesced = 0 ∧ r.bytes.length ≤ 5 ∧
      s.link.outbound = someReply :: List.replicate 7 someReply ∧ repliesWaiting (List.replicate 7 someReply) = 7 ∧
      s.link.inbound = [statusFrame] :=
  ⟨_, rfl, rfl, rfl, rfl, by decide, rfl, rfl, rfl⟩

theorem test_met_TheLinkChecksKindAndSize :
    Accepts State.reset ∧ commandOfKind 0x07 = none ∧ commandOfKind 0x10 = some .posOpen ∧ bodyFits .posOpen [0] = false ∧
      commandOfKind 0x29 = some .clipWrite ∧ bodyFits .clipWrite [] = false := by unfold Accepts; decide

theorem test_met_CommandsCheckTheirSource :
    Accepts State.reset ∧ Accepts asleep ∧ commandOfKind 0x10 = some .posOpen ∧ bodyFits .posOpen [] = true ∧
      16 ≤ (16 : Byte).toNat ∧ (15 : Byte).toNat < 16 ∧ asleep.ports.standby = true ∧ commandOfKind 0x02 = some .sleep ∧
      bodyFits .sleep [] = true ∧ (0xFE : Byte) ≠ 0xFF := by unfold Accepts; decide

/-! ### Resets, standby, ports and parameters -/

/-- A move of clip 5 of 2 pages in progress, from page 9 to a page below. -/
def moving (dest : Nat) : State :=
  putCompaction (putClip State.reset 5 ⟨.moving, .lin16, 256, 256, 9, 2, none, 0, some .ready⟩)
    ⟨true, some 9, some ⟨5, 9, dest, 2, 1⟩, 1, 0, 0⟩

/-- That move to page 7 with its pages copied. -/
def copied : State := putCompaction (moving 7) ⟨true, some 9, some ⟨5, 9, 7, 2, 2⟩, 1, 0, 0⟩

theorem test_met_DeviceResetRestoresTheUnits :
    Awake State.reset ∧ Awake (moving 8) ∧ Awake (moving 7) ∧
      (∃ m, (moving 8).store.compaction.move = some m ∧ m.clip = 5 ∧ m.source < m.dest + m.pages) ∧
      (∃ m, (moving 7).store.compaction.move = some m ∧ m.clip = 5 ∧ m.dest + m.pages ≤ m.source) ∧
      1 < (2 : Byte).toNat ∧ (1 : Byte).toNat ≤ 1 ∧ (0 : Byte) ≠ 0xFF ∧ Accepts asleep ∧ asleep.ports.standby = true :=
  ⟨by unfold Awake Accepts; decide, by unfold Awake Accepts; decide, by unfold Awake Accepts; decide,
    ⟨_, rfl, rfl, by decide⟩, ⟨_, rfl, rfl, by decide⟩, by decide, by decide, by decide, by unfold Accepts; decide, rfl⟩

theorem test_met_PositionResetRestoresThePosition :
    Awake talking ∧ PlayersOk (getPos talking 0) ∧ ToneOk (getPos talking 0) ∧ EngineOk talking ∧ (1 : Byte).toNat ≤ 1 ∧
      1 < (2 : Byte).toNat ∧ 16 ≤ (16 : Byte).toNat ∧ Accepts asleep ∧ asleep.ports.standby = true := by
  refine ⟨?_, ?_, ?_, ⟨test_zero_accumulators, ?_, ?_, ?_, ?_⟩, ?_⟩
  · unfold Awake Accepts; decide
  · unfold PlayersOk PlayerOk; decide
  · unfold ToneOk; decide
  · decide
  · decide
  · decide
  · intro f h; cases h
  · unfold Accepts; decide

theorem test_met_SleepAndWakeSwitchStandby :
    (Awake ready ∧ allVacant ready = false) ∧
      (Awake State.reset ∧ allVacant State.reset = true ∧ State.reset.store.compaction.running = false ∧
        noStreamRunning State.reset = true) ∧ Accepts asleep ∧ asleep.ports.standby = true := by
  unfold Awake Accepts; decide +kernel

theorem test_met_PortSetStoresRoleAndMap :
    (Accepts State.reset ∧ identityMap.toList.Nodup ∧ allVacant State.reset = true) ∧
      (portOf State.reset.ports .position).role = .master ∧ (portOf State.reset.ports .position).role ≠ .slave ∧
      (allVacant asleep = true ∧ asleep.ports.standby = true ∧ Accepts asleep) ∧
      (List.replicate 16 (15 : Byte)).length = 16 ∧ ¬(List.replicate 16 (15 : Byte)).Nodup ∧ 1 < (2 : Byte).toNat ∧
      (let slots : List Byte := (List.range 16).map (BitVec.ofNat 8)
       slots.length = 16 ∧ (∀ x ∈ slots, x.toNat < 16) ∧ slots.Nodup) ∧ Accepts ready ∧ allVacant ready = false := by
  unfold Accepts; decide +kernel

theorem test_met_PortSetStoresRoleAndMap_pins :
    (Accepts State.reset ∧ allVacant State.reset = true ∧ PortsOk State.reset.ports) ∧
      Accepts asleep ∧ allVacant asleep = true ∧ PortsOk asleep.ports :=
  ⟨by unfold Accepts PortsOk PortOk; decide +kernel, by unfold Accepts; decide, by decide +kernel, test_asleep_is_well.1⟩

theorem test_met_QueriesChangeNothing :
    Accepts State.reset ∧ State.reset.ports.standby = false ∧ Accepts asleep ∧ asleep.ports.standby = true ∧
      64 ≤ (64 : Byte).toNat ∧ 4 ≤ (4 : Byte).toNat := by unfold Accepts; decide

theorem test_met_SetParamStoresTheClampedValue :
    Accepts State.reset ∧ paramOfId 0x03 = some (.position .nsK1) ∧ (∃ q, paramOfId 0x28 = some (.device q)) ∧
      paramOfId 0x00 = none ∧ 16 ≤ (16 : Byte).toNat ∧ (0 : Byte) ≠ 0xFF :=
  ⟨by unfold Accepts; decide, rfl, ⟨_, rfl⟩, rfl, by decide, by decide⟩

/-! ### Positions, canceller and search -/

theorem test_met_PosOpenAndMute :
    (Awake State.reset ∧ (getPos State.reset 0).call = .vacant) ∧ (Awake ready ∧ (getPos ready 0).call ≠ .vacant) ∧
      1 < (2 : Byte).toNat := by unfold Awake Accepts; decide

theorem test_names_clip : Names clipSpec (.clip 3) := by unfold Names clipByte; decide
theorem test_names_stream : Names streamSpec (.stream 1) := by unfold Names streamByte; decide

theorem test_can_play_clip (s : State) (h : getClip s 3 = clip100) : CanPlay s clipSpec (.clip 3) := by
  refine ⟨by decide, test_names_clip, ?_⟩
  change (getClip s 3).state = .ready ∧ 0 < (getClip s 3).length
  rw [h]; decide

theorem test_can_play_stream (s : State) (h : (getStream s 1).state = .opened) : CanPlay s streamSpec (.stream 1) := by
  refine ⟨by decide, test_names_stream, ?_⟩
  change (getStream s 1).state ≠ .closed
  rw [h]; decide

/-- The last sample of the clip at the lowest level is playable too. -/
theorem test_can_play_last_sample : CanPlay talking { clipSpec with startOffset := 99, level := 63 } (.clip 3) :=
  ⟨by decide, test_names_clip, by unfold Playable; decide⟩

theorem test_met_CallOfferPresentsACall :
    (Awake State.reset ∧ (getPos State.reset 0).call ≠ .ready) ∧
      (Awake (stocked ready) ∧ (getPos (stocked ready) 0).call = .ready ∧
        (∀ x ∈ some (clipSpec, Source.clip 3), CanPlay (stocked ready) x.1 x.2) ∧
        ∀ x ∈ some (streamSpec, Source.stream 1), CanPlay (stocked ready) x.1 x.2) := by
  refine ⟨by unfold Awake Accepts; decide, by unfold Awake Accepts; decide, rfl, ?_, ?_⟩
  · intro x h
    cases h
    exact test_can_play_clip _ (by decide)
  · intro x h
    cases h
    exact test_can_play_stream _ (by decide)

/-- An item that names a clip that is FREE, one whose level is out of range, and a stream that is CLOSED. -/
theorem test_refused_items :
    RefusedWith (stocked ready) { clipSpec with sourceId := 4 } .notReady ∧
      RefusedWith (stocked ready) { clipSpec with level := 64 } .badValue ∧
      RefusedWith (stocked ready) { streamSpec with sourceId := 2 } .notReady ∧
      RefusedWith (stocked ready) { clipSpec with startOffset := 100 } .badValue :=
  ⟨.inr ⟨by decide, .inr ⟨4, by unfold Names clipByte; decide, by decide⟩⟩, .inl (by decide),
    .inr ⟨by decide, .inl ⟨2, by unfold Names streamByte; decide, by decide⟩⟩,
    .inr ⟨by decide, .inr ⟨3, by unfold Names clipByte; decide, by decide⟩⟩⟩

theorem test_refused_items_of_clips :
    RefusedWith (clipAs .moving 100) clipSpec .storeBusy ∧ RefusedWith (clipAs .damaged 100) clipSpec .damaged ∧
      RefusedWith (clipAs .ready 0) clipSpec .empty :=
  ⟨.inr ⟨by decide, .inr ⟨3, test_names_clip, by decide⟩⟩, .inr ⟨by decide, .inr ⟨3, test_names_clip, by decide⟩⟩,
    .inr ⟨by decide, .inr ⟨3, test_names_clip, by decide⟩⟩⟩

theorem test_met_CallOfferPresentsACall_refusals :
    (∀ x ∈ some clipSpec, ∃ src, CanPlay (stocked ready) x src) ∧ Awake (inCall .held talking) ∧
      RefusedWith (inCall .held talking) { clipSpec with level := 64 } .badValue :=
  ⟨fun x h => by cases h; exact ⟨_, test_can_play_clip _ (by decide)⟩, by unfold Awake Accepts; decide, .inl (by decide)⟩

/-- R5, R115: the whisper's clip is FREE and the NET item's level out of range; the whisper's code is answered (log entry 27). -/
theorem test_offer_refuses_the_whisper_first :
    (left (.callOffer 0 7 (some { clipSpec with sourceId := 4 }) (some { clipSpec with level := 64 }) none) (stocked ready)).map
      (fun t => t.link.outbound.drop 1) = some [.reply ⟨0x92, 0, 7, .notReady, []⟩] := by decide +kernel

theorem test_met_CallConnectAndHold :
    (Awake whispering ∧ PlayersOk (getPos whispering 0) ∧ (getPos whispering 0).call = .announce) ∧
      (Awake (inCall .held talking) ∧ PlayersOk (getPos (inCall .held talking) 0) ∧
        (getPos (inCall .held talking) 0).call = .held) ∧
      (Awake talking ∧ PlayersOk (getPos talking 0) ∧ (getPos talking 0).call = .connected) ∧
      (Awake ready ∧ PlayersOk (getPos ready 0) ∧ (getPos ready 0).call = .ready) := by
  refine ⟨⟨?_, ?_, ?_⟩, ⟨?_, ?_, ?_⟩, ⟨?_, ?_, ?_⟩, ?_, ?_, ?_⟩ <;>
  first | decide | (unfold Awake Accepts; decide) | (unfold PlayersOk PlayerOk; decide)

theorem test_met_CallConnectAndHold_items :
    CanPlay (inCall .held talking) clipSpec (.clip 3) ∧ CanPlay talking streamSpec (.stream 1) :=
  ⟨test_can_play_clip _ (by decide), test_can_play_stream _ (by decide)⟩

theorem test_talking_engine : EngineOk talking := ⟨test_zero_accumulators, by decide, by decide, by decide, fun f h => by cases h⟩

theorem test_met_CallClearAndPosCloseTearDown :
    (Awake talking ∧ PlayersOk (getPos talking 0) ∧ ToneOk (getPos talking 0) ∧ EngineOk talking ∧
      callPresent (getPos talking 0).call = true) ∧
      (Awake ready ∧ PlayersOk (getPos ready 0) ∧ ToneOk (getPos ready 0) ∧ EngineOk ready ∧
        callPresent (getPos ready 0).call = false ∧ (getPos ready 0).call ≠ .vacant) ∧
      (Awake State.reset ∧ PlayersOk (getPos State.reset 0) ∧ ToneOk (getPos State.reset 0) ∧ EngineOk State.reset ∧
        (getPos State.reset 0).call = .vacant) := by
  refine ⟨⟨?_, ?_, ?_, test_talking_engine, ?_⟩,
    ⟨?_, ?_, ?_, ⟨test_zero_accumulators, ?_, ?_, ?_, fun f h => by cases h⟩, ?_⟩,
    ⟨?_, ?_, ?_, ⟨test_zero_accumulators, ?_, ?_, ?_, fun f h => by cases h⟩, ?_⟩⟩ <;>
  first | decide | (unfold Awake Accepts; decide) | (unfold PlayersOk PlayerOk; decide) | (unfold ToneOk; decide)

/-- The searches of positions 0 and 1 with both in calls: 0 is in flight, 1 waits. -/
def twoSearches : State :=
  putEngine (putPos talking 1 (getPos talking 0))
    { talking.engine with inFlight := some ⟨⟨0, ⟨.long, .host, false⟩⟩, 0, 2047, 5, 9⟩, queue := [⟨1, ⟨.short, .auto, false⟩⟩] }

theorem test_two_searches_engine : EngineOk twoSearches :=
  ⟨test_zero_accumulators, by decide, by decide, by decide, fun f h => by cases h; unfold InFlightOk; decide⟩

theorem test_met_CallClearAndPosCloseTearDown_engine :
    (Awake twoSearches ∧ PlayersOk (getPos twoSearches 0) ∧ ToneOk (getPos twoSearches 0) ∧
      callPresent (getPos twoSearches 0).call = true ∧ (heldFields twoSearches 0).isSome = true) ∧
      (∃ f, twoSearches.engine.inFlight = some f ∧ f.entry.position = 0 ∧ f.entry.position ≠ 1) ∧
      twoSearches.engine.queue.filter (fun x => x.position ≠ 0) = ⟨1, ⟨.short, .auto, false⟩⟩ :: [] ∧
      twoSearches.engine.queue.filter (fun x => x.position ≠ 1) = [] :=
  ⟨⟨by unfold Awake Accepts; decide, by unfold PlayersOk PlayerOk; decide, by unfold ToneOk; decide, by decide, by decide⟩,
    ⟨_, rfl, by decide, by decide⟩, by decide, by decide⟩

/-- Position 0 in a call with items on both players, a tone to both, and its search in flight. -/
def busyCall : State :=
  with0 (fun r => { r with tone := ⟨true, .both, 5734, 8, 2500, 50, 0, 0, 12, 3⟩ })
    (playing ⟨some clipItem, [streamItem], [clipItem]⟩ ⟨some streamItem, [], []⟩ twoSearches)

theorem test_met_the_reports_of_teardowns :
    (Awake busyCall ∧ PlayersOk (getPos busyCall 0) ∧ ToneOk (getPos busyCall 0) ∧ (getPos busyCall 0).canceller.mode = .on) ∧
      EngineOk busyCall ∧ (heldFields busyCall 0).isSome = true ∧ (getPos busyCall 0).net.current = some clipItem ∧
      (getPos busyCall 0).agent.current = some streamItem ∧ (getPos busyCall 0).tone.running = true ∧
      routeHasNet (getPos busyCall 0).tone.route = true :=
  ⟨⟨by unfold Awake Accepts; decide, by unfold PlayersOk PlayerOk; decide, by unfold ToneOk; decide, by decide⟩,
    ⟨test_zero_accumulators, by decide, by decide, by decide, fun f h => by cases h; unfold InFlightOk; decide⟩, by decide, by decide,
    by decide, by decide, by decide⟩

/-- R10, R137, R139: CALL-CLEAR reports the last item of each player to leave, with the leavings counted, and the tone. -/
theorem test_clear_reports :
    (left (.callClear 0 7) busyCall).map (fun t => (t.link.outbound.drop 1).take 3) =
      some [.report (.player 0 .agent ⟨.itemEnd, .cleared, .stream 1, 8, none, false, none, 0, 0⟩) 1,
        .report (.player 0 .net ⟨.itemEnd, .cleared, .clip 3, 9, some 0, false, none, 0, 0⟩) 3,
        .report (.tone 0 .cleared .both 3 0) 1] := by decide +kernel

/-- R96: position 0 in flight goes with CALL-CLEAR, and position 1 starts. -/
theorem test_cancel_starts_the_head :
    (left (.callClear 0 7) twoSearches).map (fun t => (t.engine.inFlight.map InFlight.entry, t.engine.queue)) =
      some (some ⟨1, ⟨.short, .auto, false⟩⟩, []) := by decide +kernel

/-- R97, R20: the CANCELLED report of a RESET of scope POSITION shows D at 0, where the position's D was 496. -/
theorem test_reset_cancels_at_0 :
    (left (.resetPosition 0 7 0) (with0 (fun r => { r with canceller := { r.canceller with window := 496 } }) twoSearches)).map
      (fun t => t.link.outbound.drop 1) =
      some [.report (.echo 0 (.outcome .cancelled) .standby 0 0 (some ⟨⟨.long, .host, false⟩, .cancelled, 5, 9, none⟩)) 1,
        .reply ⟨0x81, 0, 7, .ok, []⟩] := by decide +kernel

theorem test_met_EcModeChangesTheState :
    Awake talking ∧ (getPos talking 0).canceller.mode = .on ∧ (getPos talking 0).canceller.mode ≠ .off ∧
      cancelling (getPos talking 0).canceller.state = true ∧ cancelling (getPos ready 0).canceller.state = false ∧ Awake ready ∧
      2 < (3 : Byte).toNat := by unfold Awake Accepts; decide

theorem test_met_EcFreezeAndWindowSet :
    Awake talking ∧ (getPos talking 0).canceller.state = .training ∧ 1 < (2 : Byte).toNat ∧ Awake ready ∧
      ¬((getPos ready 0).canceller.state = .training ∨ (getPos ready 0).canceller.state = .tracking) := by
  unfold Awake Accepts; decide

/-- An engine searching for a position, with entries waiting. -/
def searching (p : PosIx) (q : List SearchEntry) (s : State) : State :=
  putEngine s { s.engine with inFlight := some ⟨⟨p, ⟨.short, .auto, false⟩⟩, 0, 319, 49, 60⟩, queue := q }

theorem test_met_SearchIsPlacedByTheFirstCase :
    (Awake talking ∧ callPresent (getPos talking 0).call = true ∧ cancelling (getPos talking 0).canceller.state = true) ∧
      1 < (2 : Byte).toNat ∧ (Awake ready ∧ callPresent (getPos ready 0).call = false) ∧
      (∃ f, (searching 0 [] talking).engine.inFlight = some f ∧ f.entry.position = 0) ∧
      ((∀ f ∈ (searching 1 [⟨0, ⟨.short, .auto, false⟩⟩] talking).engine.inFlight, f.entry.position ≠ 0) ∧
        ∃ x ∈ (searching 1 [⟨0, ⟨.short, .auto, false⟩⟩] talking).engine.queue, x.position = 0) ∧
      ((∀ x ∈ talking.engine.queue, x.position ≠ 0) ∧ talking.engine.inFlight = none) ∧
      ((∀ x ∈ (searching 1 [] talking).engine.queue, x.position ≠ 0) ∧ (searching 1 [] talking).engine.inFlight ≠ none) := by
  refine ⟨by unfold Awake Accepts; decide, by decide, by unfold Awake Accepts; decide, ⟨_, rfl, rfl⟩, ?_, by decide, by decide⟩
  exact ⟨by intro f h; cases h; decide, by decide⟩

/-! ### Players and tones -/

/-- R125, R136, R182: a mode, a scope of STOP and a scope of RESET out of range. -/
theorem test_codes_out_of_range :
    (left (.frameArrival ⟨0x20, 0, 7, 0 :: 4 :: itemBytes clipSpec⟩) talking).map (fun t => t.link.outbound.drop 1) =
        some [.reply ⟨0xA0, 0, 7, .badValue, []⟩] ∧
      (left (.frameArrival ⟨0x21, 0, 7, [0, 2]⟩) talking).map (fun t => t.link.outbound.drop 1) =
        some [.reply ⟨0xA1, 0, 7, .badValue, []⟩] ∧
      (left (.frameArrival ⟨0x01, 0xFF, 7, [2, 0]⟩) talking).map (fun t => t.link.outbound.drop 1) =
        some [.reply ⟨0x81, 0xFF, 7, .badValue, []⟩] := by decide +kernel

/-- Position 0 CONNECTED with an item current and n items stacked and queued on its NET player. -/
def stacked (n q : Nat) : State :=
  playing ⟨some clipItem, List.replicate n clipItem, List.replicate q clipItem⟩ idlePlayer talking

theorem test_met_PlayNowAndOnly :
    (Awake talking ∧ mayPlay (getPos talking 0).call .net = true ∧ (getPlayer talking 0 .net).current = none) ∧
      CanPlay talking clipSpec (.clip 3) ∧
      (Awake (stacked 2 4) ∧ mayPlay (getPos (stacked 2 4) 0).call .net = true ∧
        (getPlayer (stacked 2 4) 0 .net).current = some clipItem) ∧ CanPlay (stacked 2 4) streamSpec (.stream 1) :=
  ⟨by unfold Awake Accepts; decide, test_can_play_clip _ (by decide), by unfold Awake Accepts; decide,
    test_can_play_stream _ (by decide)⟩

theorem test_met_PlayInterruptAndNext :
    (Awake talking ∧ mayPlay (getPos talking 0).call .agent = true ∧ (getPlayer talking 0 .agent).current = none ∧
      (getPlayer talking 0 .agent).queue.length < 4) ∧
      (Awake (stacked 2 3) ∧ mayPlay (getPos (stacked 2 3) 0).call .net = true ∧
        (getPlayer (stacked 2 3) 0 .net).current = some clipItem ∧ (getPlayer (stacked 2 3) 0 .net).stack.length = 2 ∧
        (getPlayer (stacked 2 3) 0 .net).stack.getLast? = some clipItem ∧ (getPlayer (stacked 2 3) 0 .net).queue.length < 4) ∧
      (Awake (stacked 1 4) ∧ mayPlay (getPos (stacked 1 4) 0).call .net = true ∧
        (getPlayer (stacked 1 4) 0 .net).stack.length < 2 ∧ (getPlayer (stacked 1 4) 0 .net).current ≠ none ∧
        4 ≤ (getPlayer (stacked 1 4) 0 .net).queue.length) := by
  unfold Awake Accepts; decide

theorem test_met_PlayInterruptAndNext_items :
    CanPlay talking clipSpec (.clip 3) ∧ CanPlay (stacked 2 3) clipSpec (.clip 3) ∧ CanPlay (stacked 1 4) streamSpec (.stream 1) :=
  ⟨test_can_play_clip _ (by decide), test_can_play_clip _ (by decide), test_can_play_stream _ (by decide)⟩

theorem test_met_PlayChecksItsItem_items : Names clipSpec (.clip 3) ∧ Names streamSpec (.stream 1) :=
  ⟨test_names_clip, test_names_stream⟩

theorem test_met_PlayChecksItsItem :
    Awake talking ∧ 1 < (2 : Byte).toNat ∧ 63 < (64 : Byte).toNat ∧ 64 ≤ (64 : Byte).toNat ∧ 4 ≤ (4 : Byte).toNat ∧
      (0 : Byte) = playerByte .net ∧
      mayPlay (getPos ready 0).call .net = false ∧ mayPlay (getPos talking 0).call .net = true ∧
      (getStream ready 1).state = .closed ∧ (getClip (clipAs .uploading 100) 3).state = .uploading ∧
      (getClip (clipAs .moving 100) 3).state = .moving ∧ (getClip (clipAs .damaged 100) 3).state = .damaged ∧
      ((getClip (clipAs .ready 0) 3).state = .ready ∧ (getClip (clipAs .ready 0) 3).length = 0) ∧
      ((getClip talking 3).state = .ready ∧ 0 < (getClip talking 3).length ∧
        (getClip talking 3).length ≤ ({ clipSpec with startOffset := 100 } : ItemSpec).startOffset.toNat) := by
  unfold Awake Accepts; decide

theorem test_met_StopEndsItemsAndWhispers :
    (Awake talking ∧ PlayersOk (getPos talking 0) ∧ (getPlayer talking 0 .net).current = none) ∧
      (Awake (stacked 2 4) ∧ PlayersOk (getPos (stacked 2 4) 0) ∧ (getPlayer (stacked 2 4) 0 .net).current = some clipItem) ∧
      (Awake whispering ∧ PlayersOk (getPos whispering 0) ∧ (getPos whispering 0).call = .announce ∧
        (getPlayer whispering 0 .agent).current ≠ none ∧ (succession (getPlayer whispering 0 .agent)).current = none) ∧
      1 < (2 : Byte).toNat := by
  refine ⟨⟨?_, ?_, ?_⟩, ⟨?_, ?_, ?_⟩, ⟨?_, ?_, ?_⟩, ?_⟩ <;>
  first | decide | (unfold Awake Accepts; decide) | (unfold PlayersOk PlayerOk; decide)

theorem test_met_ToneStartAndStop :
    Awake talking ∧ 63 < (64 : Byte).toNat ∧ 2 < (3 : Byte).toNat ∧ (63 : Byte).toNat ≤ 63 ∧
      (getPos State.reset 0).call = .vacant ∧ callPresent (getPos ready 0).call = false ∧ (getPos ready 0).call ≠ .vacant ∧
      callPresent (getPos talking 0).call = true := by unfold Awake Accepts; decide

/-! ### Store and streams -/

/-- A store filled by one clip. -/
def fullStore : State := putClip State.reset 0 ⟨.ready, .lin16, 262144, 0, 0, 2048, none, 0, none⟩

theorem test_full_store (n : Nat) (h : 0 < n) (page : Nat) : ¬RoomAt fullStore page n := by
  intro hr
  have hp := hr.1
  have := hr.2 (0, 2048) (by decide +kernel)
  omega

theorem test_first_room : FirstRoom (stocked State.reset) 5 1 := by unfold FirstRoom RoomAt; decide +kernel

theorem test_met_ClipAllocPlacesFirstFit :
    Accepts (stocked State.reset) ∧ 64 ≤ (64 : Byte).toNat ∧ 2 < (3 : Byte).toNat ∧
      (compacting State.reset).store.compaction.running = true ∧ (getClip (stocked State.reset) 3).state ≠ .free ∧
      ((stocked State.reset).store.compaction.running = false ∧ (getClip (stocked State.reset) 0).state = .free ∧
        FirstRoom (stocked State.reset) 5 1) ∧
      (fullStore.store.compaction.running = false ∧ (getClip fullStore 1).state = .free ∧ ∀ page, ¬RoomAt fullStore page 1) :=
  ⟨by unfold Accepts; decide, by decide, by decide, rfl, by decide, ⟨rfl, rfl, test_first_room⟩,
    ⟨rfl, rfl, test_full_store 1 (by decide)⟩⟩

/-- Clip 20 being uploaded. -/
def uploading (f : Format) (capacity length : Nat) (pending : Option Int) : State :=
  putClip State.reset 20 ⟨.uploading, f, capacity, length, 600, 1, pending, 0, none⟩

theorem test_met_ClipWriteStoresSamples :
    (Accepts State.reset ∧ (List.replicate 240 (0 : Byte)).length ≤ 240 ∧ (getClip State.reset 20).state ≠ .uploading) ∧
      (let e := getClip (uploading .lin16 3 2 none) 20
       Accepts (uploading .lin16 3 2 none) ∧ e.state = .uploading ∧ e.format ≠ .log8 ∧ e.format ≠ .pack12 ∧ 1 % 2 = 1 ∧
         4 % 2 = 0 ∧ Memory.wf (uploading .lin16 3 2 none).store.mem) ∧
      (let e := getClip (uploading .log8 3 2 none) 20
       e.state = .uploading ∧ e.format ≠ .pack12 ∧ 1 % 1 = 0) ∧
      (let e := getClip (uploading .pack12 1 0 none) 20
       e.state = .uploading ∧ e.format = .pack12 ∧ e.pending = none ∧ e.length < e.capacity) ∧
      (let e := getClip (uploading .pack12 4 2 (some (-2048))) 20
       e.pending = some (-2048) ∧ e.length + 1 < e.capacity ∧ e.length % 2 = 0 ∧
         e.firstPage * 256 + 3 * (e.length / 2) + 3 ≤ storeBytes) ∧
      (let e := getClip (uploading .pack12 1 0 (some 7)) 20
       e.capacity ≤ e.length + (if e.pending.isSome then 1 else 0)) ∧
      (let e := getClip (uploading .pack12 9 2 (some 2047)) 20
       e.state = .uploading ∧ e.format = .pack12 ∧ 8 % 2 = 0 ∧ e.length % 2 = 0 ∧ (∀ a ∈ e.pending, -2048 ≤ a ∧ a ≤ 2047) ∧
         e.firstPage * 256 + 3 * (e.length / 2 + 5 / 2) ≤ storeBytes ∧ min 4 (e.capacity - (e.length + 1)) = 4) ∧
      64 ≤ (64 : Byte).toNat := by
  unfold Accepts; decide +kernel

/-- Table 6-6: 1000, −1000 and 32767 written to the empty clip 20 at page 2: one pair is stored, which reads back, and 2047 waits. -/
theorem test_clip_write_of_three :
    (left (.clipWrite 0xFF 7 20 [3, 0xE8, 0xFC, 0x18, 0x7F, 0xFF])
      (putClip State.reset 20 ⟨.uploading, .pack12, 5, 0, 2, 1, none, 0, none⟩)).map
      (fun t => ((getClip t 20).length, (getClip t 20).pending, readPack12 t.store.mem 512 0, readPack12 t.store.mem 512 1)) =
      some (2, some 2047, 63, -62) := by decide +kernel

theorem test_met_ClipEndAndFree :
    (Accepts (uploading .pack12 4 2 (some 1)) ∧ (getClip (uploading .pack12 4 2 (some 1)) 20).state = .uploading) ∧
      (getClip State.reset 20).state = .free ∧ (getClip (moving 7) 5).state = .moving ∧
      ((getClip talking 3).state = .ready ∧ (getClip talking 3).refCount = 0) ∧
      (let s := putClip talking 3 { clip100 with refCount := 1 }
       (getClip s 3).state = .ready ∧ 0 < (getClip s 3).refCount) ∧
      (getClip (clipAs .damaged 100) 3).state = .damaged ∧ 64 ≤ (64 : Byte).toNat := by unfold Accepts; decide

theorem test_met_StoreCompactAndExpandLoad :
    Accepts asleep ∧ asleep.ports.standby = true ∧ Accepts (compacting State.reset) ∧
      (compacting State.reset).store.compaction.running = true ∧ Accepts State.reset ∧ State.reset.ports.standby = false ∧
      State.reset.store.compaction.running = false ∧ 1 ≤ [(0 : BitVec 16)].length ∧
      (List.replicate 120 (0 : BitVec 16)).length ≤ 120 := by
  unfold Accepts; decide +kernel

theorem test_met_StreamOpenPlacesTheRing :
    Accepts (stocked State.reset) ∧ 4 ≤ (4 : Byte).toNat ∧ 2 < (3 : Byte).toNat ∧ Format.lin16 ≠ .pack12 ∧
      (compacting State.reset).store.compaction.running = true ∧ (getStream (stocked State.reset) 1).state ≠ .closed ∧
      ((stocked State.reset).store.compaction.running = false ∧ (getStream (stocked State.reset) 0).state = .closed ∧
        FirstRoom (stocked State.reset) 5 4) ∧
      (fullStore.store.compaction.running = false ∧ (getStream fullStore 0).state = .closed ∧ ∀ page, ¬RoomAt fullStore page 4) :=
  ⟨by unfold Accepts; decide, by decide, by decide, by decide, rfl, by decide,
    ⟨rfl, rfl, by unfold FirstRoom RoomAt; decide +kernel⟩, ⟨rfl, rfl, test_full_store 4 (by decide)⟩⟩

/-- Stream 1 with its halves in given states. -/
def withHalves (a b : Half) : State := putStream talking 1 { openedStream .lin16 256 1 with half0 := a, half1 := b }

theorem test_met_StreamFillAppendsToAHalf :
    (Accepts State.reset ∧ (getStream State.reset 1).state = .closed) ∧
      (Accepts talking ∧ (getStream talking 1).state ≠ .closed ∧ 1 % 2 ≠ 0 ∧ 240 ≤ 240) ∧
      (let s := withHalves ⟨.full, 9, 9⟩ ⟨.playing, 9, 9⟩
       (getStream s 1).state ≠ .closed ∧ (halfOf (getStream s 1) 0).state = .full ∧
         (halfOf (getStream s 1) 1).state = .playing) ∧
      (let s := withHalves ⟨.empty, 0, 0⟩ ⟨.filling, 255, 0⟩
       (halfOf (getStream s 1) 0).state = .empty ∧ (halfOf (getStream s 1) 1).state = .filling ∧ Memory.wf s.store.mem) ∧
      4 ≤ (4 : Byte).toNat ∧ 1 < (2 : Byte).toNat := by
  unfold Accepts; decide

theorem test_met_StreamStartAndStop :
    (Accepts asleep ∧ asleep.ports.standby = true) ∧
      (Accepts State.reset ∧ State.reset.ports.standby = false ∧ (getStream State.reset 1).state = .closed) ∧
      (Accepts talking ∧ talking.ports.standby = false ∧ (getStream talking 1).state ≠ .closed ∧
        (getStream talking 1).state ≠ .running) ∧
      (getStream (putStream talking 1 (startedStream (getStream talking 1))) 1).state = .running ∧ 4 ≤ (4 : Byte).toNat := by
  unfold Accepts; decide

/-- Position 0 in ANNOUNCE, its whisper a stream item. -/
def streamWhisper : State := playing idlePlayer ⟨some streamItem, [], []⟩ whispering

theorem test_met_StreamCloseEndsEveryItem :
    (Accepts State.reset ∧ (∀ p, PlayersOk (getPos State.reset p)) ∧ (getStream State.reset 1).state = .closed) ∧
      (Accepts streamWhisper ∧ (∀ p, PlayersOk (getPos streamWhisper p)) ∧ (getStream streamWhisper 1).state ≠ .closed ∧
        (getPos streamWhisper 0).call = .announce ∧ (getPos streamWhisper 0).agent.current ≠ none ∧
        (givenUp 1 (getPos streamWhisper 0).agent).current = none ∧ (getPos streamWhisper 1).call ≠ .announce) ∧
      4 ≤ (4 : Byte).toNat := by
  unfold Accepts PlayersOk PlayerOk; decide +kernel

/-- R138, R139: a STREAM-CLOSE drops the queued item, then ends the current one; the stacked clip item follows. -/
theorem test_close_reports :
    (left (.streamClose 0xFF 7 1) (playing ⟨some streamItem, [clipItem], [streamItem]⟩ idlePlayer talking)).map
      (fun t => t.link.outbound.drop 1) =
      some [.report (.player 0 .net ⟨.itemEnd, .sourceClosed, .stream 1, 8, none, true, some 9, 0, 0⟩) 2,
        .reply ⟨0xB4, 0xFF, 7, .ok, []⟩] := by decide +kernel

theorem test_met_StreamCloseEndsEveryItem_reports :
    ([streamItem] ++ [] ++ [streamItem] : List Item).getLast? = some streamItem ∧
      (getPlayer (playing ⟨some streamItem, [clipItem], [streamItem]⟩ idlePlayer talking) 0 .net).queue.filter (namesStream 1) =
        [streamItem] := by decide +kernel

/-! ### Slices and events -/

/-- Both ports LOCKED slaves, with received slices waiting. -/
def received (n : Nat) : State :=
  putPorts (slaves State.reset) { (slaves State.reset).ports with rx := List.replicate n ⟨true, silentBlock⟩ }

theorem test_met_SlicePeriodBegins :
    asleep.ports.standby = true ∧ State.reset.ports.standby = false ∧
      (justLocked.ports.standby = false ∧ some silentBlock ≠ none ∧ groupsToBegin justLocked.ports = true) ∧
      (justLocked.ports.standby = false ∧ (none : Option AudioBlock) = none) ∧
      ((received 3).ports.standby = false ∧ groupsToBegin (received 3).ports = false ∧ buffering (received 3).ports = true ∧
        3 ≤ (received 3).ports.rx.length ∧ (received 0).ports.rx = [] ∧ (received 0).ports.tx = []) ∧
      (buffering State.reset.ports = false ∧ State.reset.ports.position.state = .locked) ∧
      (inPeriod talking).period.active = true ∧ (moving 7).store.compaction.move = some ⟨5, 9, 7, 2, 1⟩ := by decide +kernel

/-- A move in progress in a state that meets the invariants the copied bytes rest on. -/
theorem test_met_SlicePeriodBegins_move :
    lively.ports.standby = false ∧ lively.store.compaction.move = some ⟨5, 9, 6, 2, 1⟩ ∧ Memory.wf lively.store.mem ∧
      (∀ c, ClipOk (getClip lively c)) ∧ SpaceOk lively ∧ MoveOk lively :=
  ⟨rfl, rfl, by decide, by unfold ClipOk; decide +kernel, by unfold SpaceOk apart; decide +kernel, test_lively_move⟩

/-- A stream that plays its half out in the next fixing, one that finds its other half of length 0, and one that waits. -/
theorem test_met_SlicePeriodBegins_streams :
    StreamOk (fedStream ⟨.playing, 300, 300⟩ ⟨.full, 200, 200⟩ 0 256 false) ∧
      StreamOk (fedStream ⟨.playing, 300, 300⟩ ⟨.full, 0, 0⟩ 0 256 false) ∧
      StreamOk (fedStream ⟨.full, 280, 280⟩ ⟨.filling, 9, 0⟩ 0 0 true) ∧ StreamOk (getStream State.reset 0) := by
  refine ⟨?_, ?_, ?_, ?_⟩ <;> (unfold StreamOk; decide +kernel)

/-- R149: a FULL half of valid length 0 is passed through; the half just emptied then underruns. -/
theorem test_zero_length_half :
    let x := fixStream [] (fedStream ⟨.playing, 300, 300⟩ ⟨.full, 0, 0⟩ 0 299 false)
    (x.events, x.stream.readHalf, x.stream.half1.state, x.stream.underrun) =
      ([(.halfEmpty, 0), (.halfEmpty, 1), (.underrun, 0)], 0, .empty, true) := by decide +kernel

/-- R166: the earpiece slice of a period that ends joins the transmit buffer; with 3 held the oldest is dropped, with a slip. -/
theorem test_earpiece_joins :
    (handEarpiece (slaves State.reset)).ports.tx.length = 1 ∧
      (let full := putPorts State.reset { (slaves State.reset).ports with tx := List.replicate 3 noisy }
       ((handEarpiece full).ports.tx, (handEarpiece full).ports.slips.txOver) = ([noisy, noisy, silentBlock], 1)) := by decide +kernel

/-- The engine searches for position 0, with a record and accumulators given. -/
def searchAt (eligible elapsed : Nat) (acc : List Int) : State :=
  inPeriod (putEngine talking
    { talking.engine with
      inFlight := some ⟨⟨0, ⟨.short, .auto, false⟩⟩, 0, 319, eligible, elapsed⟩, accumulators := acc })

/-- Position 0 with its NET player at the last sample of clip 3, some passes remaining. -/
def lastSample (passes : Nat) : State :=
  playing ⟨some { clipItem with readOffset := 99, passes := passes }, [], []⟩ idlePlayer talking

theorem test_talking_canceller : CancellerOk (getPos (inPeriod talking) 0) := by
  unfold CancellerOk TrackerOk HistoryOk CoeffsOk CancellerCountsOk; decide +kernel

theorem test_met_PositionSliceRunsTheStages :
    sliceReady State.reset 0 = false ∧
      (sliceReady (inPeriod talking) 0 = true ∧ PlayersOk (getPos (inPeriod talking) 0) ∧
        CancellerOk (getPos (inPeriod talking) 0) ∧ EngineOk (inPeriod talking)) ∧
      (sliceReady (inPeriod whispering) 0 = true ∧ (getPos (inPeriod whispering) 0).call = .announce ∧
        (getPos (inPeriod whispering) 0).agent.current ≠ none) ∧
      ∃ f, ((inPeriod twoSearches).engine.inFlight.filter fun f => f.entry.position == 0) = some f ∧ f.eligible + 1 < 200 := by
  refine ⟨by decide, ⟨by decide, by unfold PlayersOk PlayerOk; decide, test_talking_canceller, ?_⟩, by decide, _, rfl, by decide⟩
  exact ⟨test_zero_accumulators, by decide, by decide, by decide, fun f h => by cases h⟩

/-- A search of position 0 that its slice ends by time-out, and the last slice of a tone's last burst. -/
theorem test_met_PositionSliceRunsTheStages_ends :
    (∃ f, ((inPeriod (searchAt 0 2499 (List.replicate 2048 0))).engine.inFlight.filter fun f => f.entry.position == 0) = some f ∧
      (inPeriod (searchAt 0 2499 (List.replicate 2048 0))).device.searchTimeout ≤ f.elapsed + 1) ∧
      (let t : Tone := ⟨true, .ear, 410, 0, 50, 25, 3, 0, 24, 2⟩
       (cadenceStep (toneSlice t).2).2 = true) ∧
      CompletesNext (lastSample 1) (getPlayer (lastSample 1) 0 .net) { clipItem with readOffset := 99, passes := 1 } := by
  refine ⟨⟨_, rfl, by decide +kernel⟩, by decide +kernel, by decide, rfl, 3, rfl, by decide⟩

/-- R49: a slice whose refresh changes the boost target; R65: one whose 25th count converges. -/
theorem test_met_PositionSliceRunsTheStages_events :
    (let x : Suppressor := ⟨⟨64, 0⟩, false, 0, 0, 0, 0, 624⟩
     (boostStep defaultPosParams x).target ≠ x.target) ∧
      (convergenceStep 20 { (getPos talking 0).canceller with erle := 20, convergence := 24 }).2 = true := by decide +kernel

/-- A slice on the last sample of a whisper: the whisper is done within it. -/
theorem test_whisper_ends_in_the_slice :
    (stages 0 (inPeriod (playing idlePlayer ⟨some { clipItem with readOffset := 99 }, [], []⟩ whispering))).agent.player.current
      = none := by decide +kernel

theorem test_met_TransmitIsTheSumAndHidesTheAgent :
    let s := inPeriod talking
    let s' := inPeriod (playing idlePlayer ⟨some streamItem, [clipItem], []⟩ talking)
    63 < 64 ∧ withoutAgents s = withoutAgents s' ∧ (getPos s 0).agent ≠ (getPos s' 0).agent ∧
      (∃ t, exec (.positionSlice 0) s = .next t) ∧ ∃ t, exec (.positionSlice 0) s' = .next t :=
  ⟨by decide, by decide +kernel, by decide +kernel, ⟨_, rfl⟩, ⟨_, rfl⟩⟩

/-- Position 0 in its slice with a suppressor and a canceller. -/
def measuringState (x : Suppressor) (f : Canceller → Canceller) : State :=
  inPeriod (with0 (fun r => { r with suppressor := x, canceller := f r.canceller }) talking)

theorem test_met_SuppressorAndHangoverEvents :
    let s := measuringState ⟨⟨60, 31⟩, true, 1, 0, 0, 0, 624⟩ fun c => { c with floor := ⟨120, 31⟩, hangover := 1 }
    let r := getPos s 0
    processes s 0 = true ∧ s.period.micReceived = true ∧ s.period.netLocked = true ∧ r.canceller.state = .training ∧
      (r.suppressor.floor.level ≤ 60 ∧ r.params.floorRise ≤ r.suppressor.floor.count + 1) ∧
      (r.canceller.floor.level ≤ 120 ∧ r.params.floorRise ≤ r.canceller.floor.count + 1) ∧
      (11 < r.params.vadT ∧ r.suppressor.hangover = 1) ∧ r.params.boostRefresh ≤ r.suppressor.refresh + 1 ∧
      (r.canceller.hangover = 1 ∧ ¬(0 < 0 ∧ 0 ≤ 2 * 0)) ∧ processes State.reset 0 = false := by decide

theorem test_met_CancellerEvents :
    (let s := measuringState suppressorAtReset fun c => { c with erle := 60, convergence := 24, divergence := 7 }
     let r := getPos s 0
     processes s 0 = true ∧ s.period.netLocked = true ∧ r.canceller.freeze = false ∧ r.canceller.hangover = 0 ∧
       r.canceller.state = .training ∧ r.params.ecConv ≤ r.canceller.erle ∧ 24 ≤ r.canceller.convergence ∧
       7 ≤ r.canceller.divergence ∧ 0 + 8 ≤ 8) ∧
      (let s := inPeriod (with0 (fun r => { r with
         params := { r.params with ecResearch := 1 }
         canceller := { r.canceller with state := .tracking, erle := 0, loss := 249, research := 249 } }) talking)
       let r := getPos s 0
       processes s 0 = true ∧ r.canceller.state = .tracking ∧ r.canceller.erle < r.params.ecLoss ∧ 249 ≤ r.canceller.loss ∧
         r.params.ecResearch ≠ 0 ∧ r.params.ecResearch * 250 ≤ r.canceller.research + 1) ∧
      processes State.reset 0 = false := by decide

/-- Accumulators with one peak. -/
def peakAt (lag : Nat) : List Int := List.replicate lag 0 ++ [1000] ++ List.replicate (2047 - lag) 0

theorem test_met_SearchEngineEvents :
    (let e : SearchEntry := ⟨0, ⟨.short, .auto, false⟩⟩
     (putEngine talking { talking.engine with queue := [e] }).engine.inFlight = none ∧
       (putEngine talking { talking.engine with queue := [e] }).engine.queue = e :: []) ∧
      talking.engine.inFlight = none ∧ (searchAt 0 0 (peakAt 0)).engine.inFlight ≠ none ∧
      (∃ f, (searchAt 50 60 (List.replicate 2048 0)).engine.inFlight = some f ∧ 50 ≤ f.eligible ∧
        peakFound 6 f.first f.last (List.replicate 2048 0) = false) ∧
      (∃ f, (searchAt 50 60 (peakAt 40)).engine.inFlight = some f ∧ peakFound 6 f.first f.last (peakAt 40) = true ∧
        min ((peakLag f.first f.last (peakAt 40) - 32) / 16 * 16) 1792 = (getPos (searchAt 50 60 (peakAt 40)) 0).canceller.window) ∧
      (∃ f, (searchAt 50 60 (peakAt 100)).engine.inFlight = some f ∧ peakFound 6 f.first f.last (peakAt 100) = true ∧
        min ((peakLag f.first f.last (peakAt 100) - 32) / 16 * 16) 1792 ≠
          (getPos (searchAt 50 60 (peakAt 100)) 0).canceller.window) ∧
      (processes (searchAt 49 2500 (peakAt 0)) 0 = true ∧ ¬50 ≤ 49 ∧ (searchAt 49 2500 (peakAt 0)).device.searchTimeout ≤ 2500) :=
  ⟨by decide, rfl, by decide, ⟨_, rfl, by decide, by decide +kernel⟩, ⟨_, rfl, by decide +kernel, by decide +kernel⟩,
    ⟨_, rfl, by decide +kernel, by decide +kernel⟩, by decide +kernel⟩

theorem test_met_UnitEvents :
    ((getPlayer talking 0 .net).current = none ∧ processes (lastSample 1) 0 = true ∧
      (getPlayer (lastSample 1) 0 .net).current = some { clipItem with readOffset := 99, passes := 1 } ∧
      (getPlayer (lastSample 0) 0 .net).current = some { clipItem with readOffset := 99, passes := 0 } ∧
      (getClip (lastSample 1) 3).length ≤ 99 + 1 ∧ ¬(getClip (lastSample 1) 3).length ≤ 98 + 1) ∧
      (processes whispering 0 = true ∧ (getPos whispering 0).call = .announce ∧
        (succession (getPlayer whispering 0 .agent)).current = none ∧ PlayersOk (getPos whispering 0)) ∧
      (let s := with0 (fun r => { r with tone := ⟨true, .ear, 410, 0, 50, 25, 3, 0, 24, 2⟩ }) ready
       processes s 0 = true ∧ (getPos s 0).tone.running = true ∧ (getPos s 0).tone.cycle + 1 = (getPos s 0).tone.onTime ∧
         0 < (getPos s 0).tone.bursts) ∧
      (let s := with0 (fun r => { r with tone := ⟨true, .ear, 410, 0, 50, 25, 3, 0, 49, 2⟩ }) ready
       (getPos s 0).tone.cycle + 1 ≠ (getPos s 0).tone.onTime ∧ (getPos s 0).tone.cycle + 1 = (getPos s 0).tone.period) ∧
      (let s := putStream talking 1 (fedStream ⟨.playing, 300, 300⟩ ⟨.full, 200, 200⟩ 0 299 false)
       s.ports.standby = false ∧ (getStream s 1).state = .running ∧
         (halfOf (getStream s 1) (getStream s 1).readHalf).state = .playing ∧
         (halfOf (getStream s 1) (getStream s 1).readHalf).valid ≤ (getStream s 1).readOffset + 1 ∧
         (halfOf (getStream s 1) 1).state = .full ∧ 0 < (halfOf (getStream s 1) 1).valid) ∧
      (let s := putStream talking 1 (fedStream ⟨.playing, 300, 300⟩ ⟨.empty, 0, 0⟩ 0 299 false)
       (halfOf (getStream s 1) 1).state = .empty) ∧
      (let s := putStream talking 1 (fedStream ⟨.playing, 300, 300⟩ ⟨.full, 0, 0⟩ 0 299 false)
       (halfOf (getStream s 1) 1).state = .full ∧ (halfOf (getStream s 1) 1).valid = 0) := by unfold PlayersOk PlayerOk; decide

/-- A place below a clip, as the statement of turns says it. -/
def fitsBelow (s : State) (c : ClipIx) (p : Nat) : Prop :=
  p < (getClip s c).firstPage ∧ ∀ a ∈ otherRegions s c, p + (getClip s c).pageCount ≤ a.1 ∨ a.1 + a.2 ≤ p

theorem test_met_UnitEvents_of_compaction :
    (compacting State.reset).store.compaction.move = none ∧ nextHolder (compacting State.reset) = none ∧
      (nextHolder (putCompaction tableStore ⟨true, some 40, none, 0, 0, 0⟩) = some (165, .ring 1) ∧
        pinned (putCompaction tableStore ⟨true, some 40, none, 0, 0, 0⟩) (.ring 1) = true) ∧
      (nextHolder (compacting tableStore) = some (0, .clip 3) ∧ pinned (compacting tableStore) (.clip 3) = false) ∧
      (nextHolder (putCompaction tableStore ⟨true, some 0, none, 0, 0, 0⟩) = some (40, .clip 7) ∧
        pinned (putCompaction tableStore ⟨true, some 0, none, 0, 0, 0⟩) (.clip 7) = false) ∧
      (moving 7).store.compaction.move = some ⟨5, 9, 7, 2, 1⟩ ∧ 1 < 2 ∧
      copied.store.compaction.move = some ⟨5, 9, 7, 2, 2⟩ ∧ 2 ≤ 2 := by decide +kernel

/-- R118, R120: the move whose last page is copied completes, and the turn that is due at the same instant ends the compaction. -/
theorem test_move_completes :
    (left .moveCompletes copied).map (fun t => ((getClip t 5).firstPage, (getClip t 5).state, t.store.compaction.running)) =
      some (7, .ready, false) := by decide +kernel

theorem test_met_UnitEvents_of_a_turn :
    (∀ p, ¬fitsBelow (compacting tableStore) 3 p) ∧ fitsBelow tableStore 7 13 ∧ ∀ q, q < 13 → ¬fitsBelow tableStore 7 q := by
  refine ⟨fun p h => ?_, ?_, ?_⟩
  · exact absurd h.1 (Nat.not_lt_zero p)
  · unfold fitsBelow; decide +kernel
  · unfold fitsBelow; decide +kernel

theorem test_met_PortEvents :
    (let s := slaves State.reset
     s.ports.standby = false ∧ (portOf s.ports .position).role = .slave ∧ (portOf s.ports .position).state = .locked ∧
       buffering s.ports = true ∧ s.ports.grouping = true ∧ s.ports.rx.length < 3 ∧ s.ports.tx = []) ∧
      (justLocked.ports.standby = false ∧ (portOf justLocked.ports .position).role = .slave ∧
        (portOf justLocked.ports .position).state = .locked ∧ justLocked.ports.grouping = false ∧ justLocked.ports.tx ≠ [] ∧
        justLocked.ports.tx.drop 1 = [] ∧ buffering justLocked.ports = true) ∧
      ((portOf State.reset.ports .network).role = .slave ∧ (portOf State.reset.ports .network).state = .syncing ∧
        (portOf State.reset.ports .network).goodSync = 0 ∧ 255 ≠ 256) ∧
      (let s := putPorts State.reset (setSync .network .syncing 2 State.reset.ports)
       (portOf s.ports .network).state = .syncing ∧ (portOf s.ports .network).goodSync ≠ 0 ∧
         (portOf s.ports .network).goodSync ≠ 3) ∧
      (let s := putPorts State.reset (setSync .network .syncing 3 State.reset.ports)
       (portOf s.ports .network).goodSync = 3) ∧
      ((portOf State.reset.ports .position).role ≠ .slave ∧ buffering State.reset.ports = false) ∧
      (buffering (received 3).ports = true ∧ 3 ≤ (received 3).ports.rx.length) := by decide +kernel

end Sys2Proof.Tests
end

/-! # Pending reports (R178, R179)

The report of a kind and source that waits in the outbound queue, and what raising a report makes of it. -/

namespace Sys2Proof.Machine

/-- The first waiting report of the kind and source of `b`, with its repeat count. -/
def firstSame (b : ReportBody) : List Message → Option (ReportBody × Nat)
  | [] => none
  | .reply _ :: rest => firstSame b rest
  | .report c n :: rest => if sameReport b c then some (c, n) else firstSame b rest

/-- The waiting report of the kind and source of `b` in a state. -/
def waiting (b : ReportBody) (s : State) : Option (ReportBody × Nat) := firstSame b s.link.outbound

/-- The repeat count of the waiting report of the kind and source of `b`; 0 where none waits. -/
def waitingCount (b : ReportBody) (s : State) : Nat := ((waiting b s).map (·.2)).getD 0

theorem sameReport_self (b : ReportBody) : sameReport b b = true := by simp [sameReport]

theorem sameReport_comm (b c : ReportBody) : sameReport b c = sameReport c b := by
  simp [sameReport, Bool.beq_comm (a := reportKind b), Bool.beq_comm (a := reportSource b)]

/-- Reports of one kind and source are the same to every third report. -/
theorem sameReport_congr {b c : ReportBody} (h : sameReport b c = true) (d : ReportBody) : sameReport d b = sameReport d c := by
  obtain ⟨hk, hs⟩ := (sameReport_iff b c).1 h
  simp [sameReport, hk, hs]

theorem firstSame_mem {b c : ReportBody} {n : Nat} :
    ∀ {l : List Message}, firstSame b l = some (c, n) → Message.report c n ∈ l
  | [], h => by cases h
  | .reply _ :: rest, h => List.mem_cons_of_mem _ (firstSame_mem h)
  | .report d k :: rest, h => by
    rw [firstSame] at h
    split at h
    · cases h; exact List.mem_cons_self
    · exact List.mem_cons_of_mem _ (firstSame_mem h)

/-- Where a report is coalesced, it takes the place of the waiting one and counts one more; the other kinds and sources stay. -/
theorem firstSame_coalesce {b d : ReportBody} :
    ∀ {l out : List Message}, coalesce b l = some out →
      firstSame d out =
        if sameReport d b then (firstSame d l).map fun x => (b, min (x.2 + 1) 255) else firstSame d l
  | [], _, h => by cases h
  | .reply r :: rest, out, h => by
    simp only [coalesce, Option.map_eq_some_iff] at h
    obtain ⟨a, ha, rfl⟩ := h
    simpa [firstSame] using firstSame_coalesce (d := d) ha
  | .report c k :: rest, out, h => by
    simp only [coalesce] at h
    split at h
    · rename_i hc
      cases h
      simp only [firstSame, sameReport_congr hc d]
      split <;> simp
    · rename_i hc
      simp only [Option.map_eq_some_iff] at h
      obtain ⟨a, ha, rfl⟩ := h
      have ih := firstSame_coalesce (d := d) ha
      simp only [firstSame]
      by_cases hdc : sameReport d c = true
      · have hdb : sameReport d b = false := by
          rw [← Bool.not_eq_true]
          intro hdb
          exact hc (by rw [sameReport_congr ((sameReport_comm c d).trans hdc) b, sameReport_comm, hdb])
        simp [hdc, hdb]
      · rw [if_neg hdc, if_neg hdc, ih]

/-- Where nothing is coalesced, no report of the kind and source waits. -/
theorem firstSame_of_coalesce_none {b : ReportBody} : ∀ {l : List Message}, coalesce b l = none → firstSame b l = none
  | [], _ => rfl
  | .reply _ :: rest, h => by
    simp only [coalesce, Option.map_eq_none_iff] at h
    simpa [firstSame] using firstSame_of_coalesce_none h
  | .report c k :: rest, h => by
    simp only [coalesce] at h
    split at h
    · cases h
    · rename_i hc
      simp only [Option.map_eq_none_iff] at h
      rw [firstSame, if_neg hc]
      exact firstSame_of_coalesce_none h

/-- What is coalesced into waits. -/
theorem firstSame_of_coalesce_some {b : ReportBody} :
    ∀ {l out : List Message}, coalesce b l = some out → ∃ x, firstSame b l = some x
  | [], _, h => by cases h
  | .reply _ :: rest, out, h => by
    simp only [coalesce, Option.map_eq_some_iff] at h
    obtain ⟨a, ha, -⟩ := h
    simpa [firstSame] using firstSame_of_coalesce_some ha
  | .report c k :: rest, out, h => by
    simp only [coalesce] at h
    rw [firstSame]
    split at h
    · rename_i hc
      exact ⟨(c, k), if_pos hc⟩
    · rename_i hc
      simp only [Option.map_eq_some_iff] at h
      obtain ⟨a, ha, -⟩ := h
      rw [if_neg hc]
      exact firstSame_of_coalesce_some ha

theorem firstSame_append_report (d b : ReportBody) (l : List Message) :
    firstSame d (l ++ [.report b 1]) = (firstSame d l).orElse fun _ => if sameReport d b then some (b, 1) else none := by
  induction l with
  | nil => simp [firstSame]
  | cons m rest ih =>
    cases m with
    | reply r => simpa [firstSame] using ih
    | report c n => by_cases h : sameReport d c = true <;> simp_all [firstSame]

theorem firstSame_same {b c : ReportBody} (h : sameReport b c = true) (l : List Message) : firstSame b l = firstSame c l := by
  induction l with
  | nil => rfl
  | cons m rest ih =>
    cases m with
    | reply r => exact ih
    | report d n =>
      simp only [firstSame]
      rw [sameReport_comm b d, sameReport_comm c d, sameReport_congr h d, ih]

/-- What raising a report makes of the waiting report of a kind and source (R178, R179). -/
theorem waiting_raise (d b : ReportBody) (s : State) :
    waiting d (raise b s) = if sameReport d b then some (b, min (waitingCount d s + 1) 255) else waiting d s := by
  unfold raise
  split
  · rename_i out h
    simp only [waiting, putLink_link, firstSame_coalesce h]
    split
    · rename_i hd
      obtain ⟨x, hx⟩ := firstSame_of_coalesce_some h
      rw [← firstSame_same hd] at hx
      simp [waitingCount, waiting, hx]
    · rfl
  · rename_i h
    have hb := firstSame_of_coalesce_none h
    simp only [waiting, putLink_link, firstSame_append_report]
    by_cases hd : sameReport d b = true
    · rw [firstSame_same hd, hb]
      simp [hd, waitingCount, waiting, firstSame_same hd, hb]
    · cases firstSame d s.link.outbound <;> simp [hd]

theorem waiting_raise_same {d b : ReportBody} {s : State} (h : sameReport d b = true) :
    waiting d (raise b s) = some (b, min (waitingCount d s + 1) 255) := by
  rw [waiting_raise, if_pos h]

/-- A waiting report is in the queue. -/
theorem waiting_mem {d b : ReportBody} {n : Nat} {s : State} (h : waiting d s = some (b, n)) :
    Message.report b n ∈ s.link.outbound := firstSame_mem h

/-- Operations that leave the outbound queue leave the waiting reports. -/
theorem waiting_of_outbound {s t : State} (h : t.link.outbound = s.link.outbound) (b : ReportBody) : waiting b t = waiting b s := by
  rw [waiting, waiting, h]

theorem waitingCount_of_waiting {s t : State} {b : ReportBody} (h : waiting b t = waiting b s) :
    waitingCount b t = waitingCount b s := by
  rw [waitingCount, waitingCount, h]

theorem waitingCount_of_link {s t : State} (h : t.link = s.link) (b : ReportBody) : waitingCount b t = waitingCount b s :=
  waitingCount_of_waiting (waiting_of_outbound (by rw [h]) b)

@[simp] theorem raiseAll_nil (s : State) : raiseAll [] s = s := rfl

@[simp] theorem raiseAll_cons (b : ReportBody) (bs : List ReportBody) (s : State) :
    raiseAll (b :: bs) s = raiseAll bs (raise b s) := rfl

theorem raiseAll_append (bs cs : List ReportBody) (s : State) : raiseAll (bs ++ cs) s = raiseAll cs (raiseAll bs s) := by
  simp [raiseAll]

/-- Reports of other kinds or sources leave the waiting report. -/
theorem waiting_raiseAll_other {d : ReportBody} (bs : List ReportBody) (s : State)
    (h : ∀ b ∈ bs, sameReport d b = false) : waiting d (raiseAll bs s) = waiting d s := by
  induction bs generalizing s with
  | nil => rfl
  | cons b rest ih =>
    rw [raiseAll_cons, ih _ fun c hc => h c (List.mem_cons_of_mem _ hc), waiting_raise, h b List.mem_cons_self]
    simp

/-- Of reports of one kind and source the last one waits. -/
theorem waiting_raiseAll_last {b : ReportBody} (bs : List ReportBody) (s : State) :
    ∃ n, 1 ≤ n ∧ waiting b (raiseAll (bs ++ [b]) s) = some (b, n) := by
  rw [raiseAll_append, raiseAll_cons, raiseAll_nil, waiting_raise, sameReport_self]
  exact ⟨min (waitingCount b (raiseAll bs s) + 1) 255, by omega, by simp⟩

/-- Raising reports touches the outbound queue and the read in progress alone. -/
theorem raiseAll_eq (bs : List ReportBody) (s : State) :
    ∃ out reading, raiseAll bs s = putLink s { s.link with outbound := out, reading := reading } := by
  induction bs generalizing s with
  | nil => exact ⟨s.link.outbound, s.link.reading, rfl⟩
  | cons b rest ih =>
    obtain ⟨o1, r1, h1, -, -⟩ := raise_cases b s
    obtain ⟨o2, r2, h2⟩ := ih (raise b s)
    exact ⟨o2, r2, by rw [raiseAll_cons, h2, h1]; rfl⟩

section
variable (bs : List ReportBody) (s : State)

@[simp] theorem raiseAll_pending : (raiseAll bs s).pending = s.pending := by
  obtain ⟨o, r, h⟩ := raiseAll_eq bs s; rw [h]; rfl
@[simp] theorem raiseAll_positions : (raiseAll bs s).positions = s.positions := by
  obtain ⟨o, r, h⟩ := raiseAll_eq bs s; rw [h]; rfl
@[simp] theorem raiseAll_engine : (raiseAll bs s).engine = s.engine := by
  obtain ⟨o, r, h⟩ := raiseAll_eq bs s; rw [h]; rfl
@[simp] theorem raiseAll_store : (raiseAll bs s).store = s.store := by
  obtain ⟨o, r, h⟩ := raiseAll_eq bs s; rw [h]; rfl
@[simp] theorem raiseAll_streams : (raiseAll bs s).streams = s.streams := by
  obtain ⟨o, r, h⟩ := raiseAll_eq bs s; rw [h]; rfl
@[simp] theorem raiseAll_ports : (raiseAll bs s).ports = s.ports := by
  obtain ⟨o, r, h⟩ := raiseAll_eq bs s; rw [h]; rfl
@[simp] theorem raiseAll_period : (raiseAll bs s).period = s.period := by
  obtain ⟨o, r, h⟩ := raiseAll_eq bs s; rw [h]; rfl
@[simp] theorem raiseAll_device : (raiseAll bs s).device = s.device := by
  obtain ⟨o, r, h⟩ := raiseAll_eq bs s; rw [h]; rfl
@[simp] theorem raiseAll_draws : (raiseAll bs s).draws = s.draws := by
  obtain ⟨o, r, h⟩ := raiseAll_eq bs s; rw [h]; rfl
@[simp] theorem getPos_raiseAll (p : PosIx) : getPos (raiseAll bs s) p = getPos s p := by simp [getPos]
@[simp] theorem getClip_raiseAll (c : ClipIx) : getClip (raiseAll bs s) c = getClip s c := by simp [getClip]
@[simp] theorem getStream_raiseAll (i : StreamIx) : getStream (raiseAll bs s) i = getStream s i := by simp [getStream]

end

end Sys2Proof.Machine

/-! # The step, power-on, and the commands that no player and no search takes part in -/

namespace Sys2Proof.Machine

/-- Settles O1. -/
theorem stepTakesTheFrontCommand : Obligations.StepTakesTheFrontCommand := by
  unfold Obligations.StepTakesTheFrontCommand
  refine ⟨fun s c rest h => ?_, fun s h => ?_⟩ <;> rw [step, h]

/-! ## Power-on -/

theorem getPos_reset (p : PosIx) : getPos State.reset p = positionAtReset p := by
  simp [getPos, State.reset, powerOnState, positionsAtReset]

theorem getClip_reset (c : ClipIx) : getClip State.reset c = freeClip := by
  simp [getClip, State.reset, powerOnState, storeAtPowerOn]

theorem getStream_reset (i : StreamIx) : getStream State.reset i = closedStream := by
  simp [getStream, State.reset, powerOnState, streamsAtReset]

theorem identityMap_get (p : PosIx) : identityMap[p] = p := by simp [identityMap]

/-- The default expansion table is R106's formula. -/
theorem defaultExpansion_formula :
    ∀ b, b < 256 →
      let magnitude : Int := (b % 16 + 16 : Nat) * (2 : Int) ^ (b / 16 % 8 + 3) - 128
      defaultExpansion.getD b 0 = if b < 128 then magnitude else -magnitude := by
  decide +kernel

/-- Settles O3. -/
theorem powerOnValues : Obligations.PowerOnValues := by
  unfold Obligations.PowerOnValues
  refine ⟨rfl, fun p => (getPos_reset p).trans rfl, rfl, fun c => (getClip_reset c).trans rfl, rfl, by decide +kernel,
    defaultExpansion_formula, fun i => (getStream_reset i).trans rfl, ?_, rfl, rfl⟩
  exact ⟨rfl, rfl, rfl, rfl, rfl, rfl, rfl, rfl, rfl, rfl, rfl, rfl, rfl, rfl, rfl, rfl, rfl,
    fun p => ⟨identityMap_get p, identityMap_get p⟩⟩

/-! ## Refusals (R3, R76, R108, R144, R163, R169, R181, R182) -/

/-- An answer that is OK, STARTED or CLAMPED, or changes nothing but the free value of a NO_SPACE reply. -/
def Settled (s : State) (a : Answer) : Prop :=
  a.2.1 = .ok ∨ a.2.1 = .started ∨ a.2.1 = .clamped ∨ a.1 = s ∨ (a.2.1 = .noSpace ∧ a.1 = spendDraw s)

section
variable {s t : State}

@[simp] theorem settled_refuse (r : Result) : Settled s (refuse s r) := by simp [Settled, refuse]
@[simp] theorem settled_taken : Settled s (taken t) := .inl rfl
@[simp] theorem settled_ok (f : List Field) : Settled s (t, .ok, f) := .inl rfl
@[simp] theorem settled_started (f : List Field) : Settled s (t, .started, f) := .inr (.inl rfl)
@[simp] theorem settled_okOrClamped (b : Bool) (f : List Field) : Settled s (t, okOrClamped b, f) := by
  cases b <;> simp [Settled, okOrClamped]
@[simp] theorem settled_noSpace (f : List Field) : Settled s (spendDraw s, .noSpace, f) := by simp [Settled]

theorem settled_onPosition {src : Nat} {act : PosIx → Answer} (h : ∀ p, Settled s (act p)) : Settled s (onPosition s src act) := by
  obtain ⟨p, -, -, e⟩ | ⟨-, -, e⟩ | ⟨-, e⟩ := onPosition_cases s src act <;> rw [e]
  · exact h p
  · exact settled_refuse _
  · exact settled_refuse _

theorem settled_onDevice {src : Nat} {act : Answer} (h : Settled s act) : Settled s (onDevice s src act) := by
  obtain ⟨-, e⟩ | ⟨-, e⟩ := onDevice_cases s src act <;> rw [e]
  · exact h
  · exact settled_refuse _

theorem settled_onClip {id : Nat} {act : ClipIx → Answer} (h : ∀ c, Settled s (act c)) : Settled s (onClip s id act) := by
  unfold onClip
  split
  · exact h _
  · exact settled_refuse _

theorem settled_onStream {id : Nat} {act : StreamIx → Answer} (h : ∀ i, Settled s (act i)) : Settled s (onStream s id act) := by
  unfold onStream
  split
  · exact h _
  · exact settled_refuse _

end

/-- Every unit settles its commands. -/
theorem settled_perform (c : Command) (src : Nat) (b : List Byte) (s : State) : Settled s (perform c src b s) := by
  cases c with
  | reset =>
    simp only [perform, resetCommand]
    split
    · exact settled_refuse _
    · split
      · exact settled_onDevice (by split <;> simp)
      · exact settled_onPosition fun p => settled_taken
  | sleep => exact settled_onDevice (by (repeat' split) <;> simp)
  | wake => exact settled_onDevice (by split <;> simp)
  | portSet => exact settled_onDevice (by (repeat' split) <;> simp)
  | portStatus => exact settled_onDevice (by split <;> simp)
  | setParam => simp only [perform, setParamCommand]; (repeat' split) <;> simp
  | getParam => simp only [perform, getParamCommand]; (repeat' split) <;> simp
  | posOpen => exact settled_onPosition fun p => by split <;> simp
  | posClose => exact settled_onPosition fun p => settled_taken
  | callOffer => exact settled_onPosition fun p => by (repeat' split) <;> simp
  | callConnect => exact settled_onPosition fun p => by split <;> simp
  | callHold => exact settled_onPosition fun p => by (repeat' split) <;> simp
  | callClear => exact settled_onPosition fun p => by split <;> simp
  | mute => exact settled_onPosition fun p => by (repeat' split) <;> simp
  | posStatus => exact settled_onPosition fun p => settled_ok _
  | ecMode => exact settled_onPosition fun p => by split <;> simp
  | ecFreeze => exact settled_onPosition fun p => by split <;> simp
  | search => exact settled_onPosition fun p => by (repeat' split) <;> simp
  | windowSet => exact settled_onPosition fun p => by split <;> simp
  | ecStatus => exact settled_onPosition fun p => settled_ok _
  | play => exact settled_onPosition fun p => by dsimp only; (repeat' split) <;> simp
  | stop => exact settled_onPosition fun p => by split <;> simp
  | playerStatus => exact settled_onPosition fun p => settled_ok _
  | toneStart => exact settled_onPosition fun p => by (repeat' split) <;> simp
  | toneStop => exact settled_onPosition fun p => settled_ok _
  | clipAlloc => exact settled_onDevice (settled_onClip fun c => by dsimp only; (repeat' split) <;> simp)
  | clipWrite => exact settled_onDevice (settled_onClip fun c => by dsimp only; (repeat' split) <;> simp)
  | clipEnd => exact settled_onDevice (settled_onClip fun c => by dsimp only; split <;> simp)
  | clipFree => exact settled_onDevice (settled_onClip fun c => by (repeat' split) <;> simp)
  | clipInfo => exact settled_onDevice (settled_onClip fun c => settled_ok _)
  | storeCompact => exact settled_onDevice (by (repeat' split) <;> simp)
  | expandLoad => exact settled_onDevice (settled_okOrClamped _ _)
  | streamOpen => exact settled_onDevice (settled_onStream fun i => by dsimp only; (repeat' split) <;> simp)
  | streamFill =>
    exact settled_onDevice (settled_onStream fun i => by dsimp only [fillHalf]; (repeat' split) <;> simp)
  | streamStart => exact settled_onDevice (by split; simp; exact settled_onStream fun i => by split <;> simp)
  | streamStop => exact settled_onDevice (by split; simp; exact settled_onStream fun i => by split <;> simp)
  | streamClose => exact settled_onDevice (settled_onStream fun i => by split <;> simp)
  | streamStatus => exact settled_onDevice (settled_onStream fun i => settled_ok _)

/-- Settles O25: the link refuses by itself, or the unit settles the command. -/
theorem refusedCommandsChangeNothing : Obligations.RefusedCommandsChangeNothing := by
  unfold Obligations.RefusedCommandsChangeNothing
  intro f s
  show Settled s (respond f s)
  unfold respond
  split
  · exact settled_refuse _
  · split
    · exact settled_perform _ _ _ _
    · exact settled_refuse _

/-! ## The checks of SRC and of standby -/

/-- The commands that a position takes. -/
def positionCommands : List Command :=
  [.posOpen, .posClose, .callOffer, .callConnect, .callHold, .callClear, .mute, .posStatus, .ecMode, .ecFreeze, .search, .windowSet,
    .ecStatus, .play, .stop, .playerStatus, .toneStart, .toneStop]

/-- The commands that the device takes. -/
def deviceCommands : List Command :=
  [.sleep, .wake, .portSet, .portStatus, .clipAlloc, .clipWrite, .clipEnd, .clipFree, .clipInfo, .storeCompact, .expandLoad,
    .streamOpen, .streamFill, .streamStart, .streamStop, .streamClose, .streamStatus]

/-- Each position command checks SRC and standby before anything else. -/
theorem perform_onPosition {c : Command} (h : c ∈ positionCommands) (src : Nat) (b : List Byte) (s : State) :
    ∃ act, perform c src b s = onPosition s src act := by
  simp only [positionCommands, List.mem_cons, List.not_mem_nil, or_false] at h
  obtain rfl | rfl | rfl | rfl | rfl | rfl | rfl | rfl | rfl | rfl | rfl | rfl | rfl | rfl | rfl | rfl | rfl | rfl := h <;>
    simp only [perform, posOpenCommand, posCloseCommand, callOfferCommand, callConnectCommand, callHoldCommand, callClearCommand,
      muteCommand, posStatusCommand, ecModeCommand, ecFreezeCommand, searchCommand, windowSetCommand, ecStatusCommand, playCommand,
      stopCommand, playerStatusCommand, toneStartCommand, toneStopCommand] <;>
    exact ⟨_, rfl⟩

/-- Each device command checks SRC before anything else. -/
theorem perform_onDevice {c : Command} (h : c ∈ deviceCommands) (src : Nat) (b : List Byte) (s : State) :
    ∃ act, perform c src b s = onDevice s src act := by
  simp only [deviceCommands, List.mem_cons, List.not_mem_nil, or_false] at h
  obtain rfl | rfl | rfl | rfl | rfl | rfl | rfl | rfl | rfl | rfl | rfl | rfl | rfl | rfl | rfl | rfl | rfl := h <;>
    simp only [perform, sleepCommand, wakeCommand, portSetCommand, portStatusCommand, clipAllocCommand, clipWriteCommand,
      clipEndCommand, clipFreeCommand, clipInfoCommand, storeCompactCommand, expandLoadCommand, streamOpenCommand,
      streamFillCommand, streamRunCommand, streamCloseCommand, streamStatusCommand] <;>
    exact ⟨_, rfl⟩

/-- A frame of a known command and the right size, taken at once. -/
theorem exec_frameArrival {s : State} (h : Accepts s) {f : Frame} (c : Command) (hb : f.body.length ≤ 248)
    (hk : commandOfKind f.kind.toNat = some c) (hf : bodyFits c f.body = true) :
    exec (.frameArrival f) s = .next (answered (f.kind ||| 0x80) f.src f.tag (perform c f.src.toNat f.body s)) :=
  congrArg Host.Outcome.next (frame_answered h c f.kind f.src f.tag f.body hk hf hb)

/-- Settles O26. -/
theorem commandsCheckTheirSource : Obligations.CommandsCheckTheirSource := by
  unfold Obligations.CommandsCheckTheirSource
  intro f s c ha hl hk hf
  have he := exec_frameArrival ha c hl hk hf
  refine ⟨fun hc => ?_, fun hc hsrc => ?_⟩
  · obtain ⟨act, hp⟩ := perform_onPosition (c := c) hc f.src.toNat f.body s
    rw [he, hp]
    exact ⟨fun h => by simp [onPosition, Nat.not_lt.2 h], fun h hs => by simp [onPosition, h, hs]⟩
  · obtain ⟨act, hp⟩ := perform_onDevice (c := c) hc f.src.toNat f.body s
    have hne : f.src.toNat ≠ 255 := fun e => hsrc (BitVec.eq_of_toNat_eq e)
    rw [he, hp]
    simp [onDevice, hne]

/-! ## Queries -/

@[simp] theorem byteAt_cons_zero (a : Byte) (b : List Byte) : byteAt (a :: b) 0 = a.toNat := rfl

@[simp] theorem byteAt_cons_succ (a : Byte) (b : List Byte) (i : Nat) : byteAt (a :: b) (i + 1) = byteAt b i := rfl

/-- The clip that a byte names. -/
theorem onClip_clipByte (s : State) (c : ClipIx) (act : ClipIx → Answer) : onClip s (clipByte c).toNat act = act c := by
  have h := c.isLt
  have hv : (clipByte c).toNat = c.val := by simp [clipByte]; omega
  simp [onClip, hv]

/-- The stream that a byte names. -/
theorem onStream_streamByte (s : State) (i : StreamIx) (act : StreamIx → Answer) : onStream s (streamByte i).toNat act = act i := by
  have h := i.isLt
  have hv : (streamByte i).toNat = i.val := by simp [streamByte]; omega
  simp [onStream, hv]

theorem onStream_bad (s : State) {id : Nat} (h : 4 ≤ id) (act : StreamIx → Answer) : onStream s id act = refuse s .badValue := by
  simp [onStream, Nat.not_lt.2 h]

/-- A device command whose SRC is the device. -/
theorem onDevice_device (s : State) (act : Answer) : onDevice s (0xFF : Byte).toNat act = act := rfl

/-- Settles O31. -/
theorem queriesChangeNothing : Obligations.QueriesChangeNothing := by
  unfold Obligations.QueriesChangeNothing
  intro s tag h
  refine ⟨fun hs p => ⟨?_, ?_, ?_, ?_⟩, fun hs => ?_, fun c => ?_, fun c hc => ?_, fun i => ?_, fun i hi => ?_⟩
  · rw [exec_posStatus h, perform, posStatusCommand, onPosition_awake hs]; rfl
  · rw [exec_ecStatus h, perform, ecStatusCommand, onPosition_awake hs]; rfl
  · rw [exec_playerStatus h, perform, playerStatusCommand, onPosition_awake hs]; rfl
  · rw [exec_portStatus h, perform, portStatusCommand, onDevice_device, hs]; rfl
  · rw [exec_portStatus h, perform, portStatusCommand, onDevice_device, hs]; rfl
  · rw [exec_clipInfo h, perform, clipInfoCommand, onDevice_device, byteAt_cons_zero, onClip_clipByte]; rfl
  · rw [exec_clipInfo h, perform, clipInfoCommand, onDevice_device, byteAt_cons_zero, onClip, dif_neg (by omega)]; rfl
  · rw [exec_streamStatus h, perform, streamStatusCommand, onDevice_device, byteAt_cons_zero, onStream_streamByte]; rfl
  · rw [exec_streamStatus h, perform, streamStatusCommand, onDevice_device, byteAt_cons_zero, onStream_bad s hi]; rfl

/-! ## POS-OPEN and MUTE -/

/-- Settles O33. -/
theorem posOpenAndMute : Obligations.PosOpenAndMute := by
  unfold Obligations.PosOpenAndMute
  intro s p tag ⟨ha, hs⟩
  simp only [exec_posOpen ha, exec_mute ha, perform, posOpenCommand, muteCommand, onPosition_awake hs, byteAt_cons_zero]
  refine ⟨fun hv => ⟨by simp [hv, openPosition], fun v => by simp [hv]⟩, fun hv => ⟨by simp [hv], fun on => ?_, fun v h1 => ?_⟩⟩
  · cases on <;> simp [hv]
  · simp [hv, h1]

/-! ## RESET of scope DEVICE -/

/-- The entry of a clip after a move in progress is abandoned. -/
theorem getElem_abandonMove (st : Store) (c : ClipIx) :
    (abandonMove st)[c] = match st.compaction.move with
      | none => st.clips[c]
      | some m => if m.clip = c then abandonedClip m st.clips[m.clip] else st.clips[c] := by
  unfold abandonMove
  cases st.compaction.move with
  | none => rfl
  | some m =>
    by_cases h : m.clip = c
    · subst h; simp
    · have h' : m.clip.val ≠ c.val := fun e => h (Fin.ext e)
      simp [h, h']

/-- A clip after a device reset that keeps the clips (R121). -/
theorem getClip_resetDevice_keep (s : State) (c : ClipIx) :
    getClip (resetDevice false s) c = { (abandonMove s.store)[c] with refCount := 0 } := by
  simp [getClip, resetDevice, storeAfterReset]

theorem resetDeviceCommand_device {s : State} (hs : s.ports.standby = false) (erase : Bool) :
    resetDeviceCommand (0xFF : Byte).toNat erase s = taken (resetDevice erase s) := by
  simp [resetDeviceCommand, onDevice, hs]

/-- Settles O27. -/
theorem deviceResetRestoresTheUnits : Obligations.DeviceResetRestoresTheUnits := by
  unfold Obligations.DeviceResetRestoresTheUnits
  refine ⟨fun s tag erase ⟨ha, hs⟩ => ⟨sendReply ⟨0x81, 0xFF, tag, .ok, []⟩ (resetDevice erase s), ?_, rfl, ?_, rfl,
    fun p => rfl, rfl, rfl, rfl, rfl, rfl, rfl, rfl, ?_, ?_, rfl, rfl⟩, fun s src tag erase ha => ⟨fun scope h1 => ?_, fun h1 => ?_,
      fun h1 h2 => ?_, fun h1 h2 h3 => ?_⟩⟩
  · rw [exec_resetDevice ha]
    cases erase <;>
      simp only [perform, resetCommand, byteAt_cons_zero, byteAt_cons_succ] <;>
      exact congrArg (fun a => Host.Outcome.next (answered 0x81 0xFF tag a)) (resetDeviceCommand_device hs _)
  · exact attention_sendReply _ _
  · rintro rfl c
    show getClip (resetDevice true s) c = _
    rw [getClip_reset]
    simp [getClip, resetDevice, storeAfterReset]
  · rintro rfl c
    show (_ → getClip (resetDevice false s) c = _) ∧ ∀ m, _ → _ → (_ → getClip (resetDevice false s) c = _) ∧
      (_ → getClip (resetDevice false s) c = _)
    rw [getClip_resetDevice_keep, getElem_abandonMove]
    refine ⟨fun h => ?_, fun m hm hc => ?_⟩
    · cases hm : s.store.compaction.move with
      | none => rfl
      | some m => simp only [if_neg (h m hm)]; rfl
    · subst hc
      simp only [hm, if_true, abandonedClip]
      exact ⟨fun h => by rw [if_pos h]; rfl, fun h => by rw [if_neg (by omega)]; rfl⟩
  · rw [exec_frameArrival (f := ⟨0x01, src, tag, [scope, erase]⟩) ha .reset (by simp) rfl rfl]
    simp [perform, resetCommand, h1]
  · rw [exec_resetDevice ha]
    simp [perform, resetCommand, h1]
  · have hne : src.toNat ≠ 255 := fun e => h2 (BitVec.eq_of_toNat_eq e)
    rw [exec_resetDevice ha]
    simp [perform, resetCommand, Nat.not_lt.2 h1, resetDeviceCommand, onDevice, hne]
  · subst h2
    rw [exec_resetDevice ha]
    simp [perform, resetCommand, Nat.not_lt.2 h1, resetDeviceCommand, onDevice, h3]

end Sys2Proof.Machine

/-! # What an operation raises, and what the players' operations report (R137, R139, R179) -/

namespace Sys2Proof.Machine

/-! ## Operations that report of one kind and source -/

/-- From `s` to `t` no report was raised but of the kind and source of `k`, and no free value was drawn. -/
def RaisesOnly (k : ReportBody) (s t : State) : Prop :=
  t.draws = s.draws ∧ ∀ b, sameReport b k = false → waiting b t = waiting b s

section
variable {k : ReportBody} {s t u : State}

theorem RaisesOnly.rfl : RaisesOnly k s s := ⟨Eq.refl _, fun _ _ => Eq.refl _⟩

theorem RaisesOnly.trans (h : RaisesOnly k s t) (g : RaisesOnly k t u) : RaisesOnly k s u :=
  ⟨g.1.trans h.1, fun b hb => (g.2 b hb).trans (h.2 b hb)⟩

/-- What leaves the link and the free values raises nothing. -/
theorem RaisesOnly.of_link (hl : t.link = s.link) (hd : t.draws = s.draws) : RaisesOnly k s t :=
  ⟨hd, fun b _ => waiting_of_outbound (by rw [hl]) b⟩

theorem raisesOnly_raise {b : ReportBody} (h : sameReport k b = true) : RaisesOnly k s (raise b s) := by
  refine ⟨raise_draws b s, fun c hc => ?_⟩
  rw [waiting_raise, ← sameReport_congr h c, hc]
  simp

end

/-! ## The kinds and sources of reports -/

/-- A report of a player, for its kind and source alone. -/
def playerKey (p : PosIx) (w : PlayerId) : ReportBody := .player p w ⟨.itemEnd, .completed, .clip 0, 0, none, false, none, 0, 0⟩

/-- A CALL report of a position, for its kind and source alone. -/
def callKey (p : PosIx) : ReportBody := .call p .vacant false 0

/-- An ECHO report of a position, for its kind and source alone. -/
def echoKey (p : PosIx) : ReportBody := .echo p .converged .off 0 0 none

/-- A TONE report of a position, for its kind and source alone. -/
def toneKey (p : PosIx) : ReportBody := .tone p .cleared .net 0 0

/-- A LEVEL report of a position, for its kind and source alone. -/
def levelKey (p : PosIx) : ReportBody := .level p 0 0 0 0

theorem sourceOf_injective {p q : PosIx} : (BitVec.ofNat 8 p.val = BitVec.ofNat 8 q.val) ↔ p = q := by
  refine ⟨fun h => Fin.ext ?_, fun h => h ▸ rfl⟩
  have hp := p.isLt
  have hq := q.isLt
  have := congrArg BitVec.toNat h
  simp only [BitVec.toNat_ofNat] at this
  omega

@[simp] theorem sameReport_player (p q : PosIx) (w v : PlayerId) (r r' : ItemReport) :
    sameReport (.player p w r) (.player q v r') = decide (p = q ∧ w = v) := by
  cases w <;> cases v <;> simp [sameReport, reportKind, reportSource, beq_eq_decide, sourceOf_injective]

@[simp] theorem sameReport_playerKey (p : PosIx) (w : PlayerId) (r : ItemReport) :
    sameReport (playerKey p w) (.player p w r) = true := by simp [playerKey]

@[simp] theorem sameReport_echoKey (p : PosIx) (ev : EchoEvent) (st : CancellerState) (d erle : Nat) (l : Option SearchFields) :
    sameReport (echoKey p) (.echo p ev st d erle l) = true := by simp [echoKey, sameReport, reportKind, reportSource]

@[simp] theorem sameReport_toneKey (p : PosIx) (c : StopCause) (r : Route) (n m : Nat) :
    sameReport (toneKey p) (.tone p c r n m) = true := by simp [toneKey, sameReport, reportKind, reportSource]

@[simp] theorem sameReport_callKey (p : PosIx) (c : CallState) (m : Bool) (n : Nat) :
    sameReport (callKey p) (.call p c m n) = true := by simp [callKey, sameReport, reportKind, reportSource]

@[simp] theorem sameReport_levelKey (p : PosIx) (a b c d : Nat) :
    sameReport (levelKey p) (.level p a b c d) = true := by simp [levelKey, sameReport, reportKind, reportSource]

@[simp] theorem sameReport_playerKey_playerKey (p q : PosIx) (w v : PlayerId) :
    sameReport (playerKey p w) (playerKey q v) = decide (p = q ∧ w = v) := sameReport_player p q w v _ _

@[simp] theorem sameReport_playerKey_other (p q : PosIx) (w v : PlayerId) (r : ItemReport) :
    sameReport (playerKey p w) (.player q v r) = decide (p = q ∧ w = v) := sameReport_player p q w v _ _

/-- Reports of different kinds are not the same. -/
theorem sameReport_of_kind {b c : ReportBody} (h : reportKind b ≠ reportKind c) : sameReport b c = false := by
  simp [sameReport, h]

/-! ## Reference and listener counts leave the rest -/

section
variable (src : Source) (s : State)

@[simp] theorem clipEnters_link : (clipEnters src s).link = s.link := by cases src <;> rfl
@[simp] theorem clipLeaves_link : (clipLeaves src s).link = s.link := by cases src <;> rfl
@[simp] theorem listens_link : (listens src s).link = s.link := by cases src <;> rfl
@[simp] theorem unlistens_link : (unlistens src s).link = s.link := by cases src <;> rfl
@[simp] theorem clipEnters_draws : (clipEnters src s).draws = s.draws := by cases src <;> rfl
@[simp] theorem clipLeaves_draws : (clipLeaves src s).draws = s.draws := by cases src <;> rfl
@[simp] theorem listens_draws : (listens src s).draws = s.draws := by cases src <;> rfl
@[simp] theorem unlistens_draws : (unlistens src s).draws = s.draws := by cases src <;> rfl
@[simp] theorem clipEnters_positions : (clipEnters src s).positions = s.positions := by cases src <;> rfl
@[simp] theorem clipLeaves_positions : (clipLeaves src s).positions = s.positions := by cases src <;> rfl
@[simp] theorem listens_positions : (listens src s).positions = s.positions := by cases src <;> rfl
@[simp] theorem unlistens_positions : (unlistens src s).positions = s.positions := by cases src <;> rfl
@[simp] theorem getPos_clipEnters (p : PosIx) : getPos (clipEnters src s) p = getPos s p := by simp [getPos]
@[simp] theorem getPos_clipLeaves (p : PosIx) : getPos (clipLeaves src s) p = getPos s p := by simp [getPos]
@[simp] theorem getPos_listens (p : PosIx) : getPos (listens src s) p = getPos s p := by simp [getPos]
@[simp] theorem getPos_unlistens (p : PosIx) : getPos (unlistens src s) p = getPos s p := by simp [getPos]
@[simp] theorem getPlayer_clipEnters (p : PosIx) (w : PlayerId) : getPlayer (clipEnters src s) p w = getPlayer s p w := by
  simp [getPlayer]
@[simp] theorem getPlayer_clipLeaves (p : PosIx) (w : PlayerId) : getPlayer (clipLeaves src s) p w = getPlayer s p w := by
  simp [getPlayer]
@[simp] theorem getPlayer_listens (p : PosIx) (w : PlayerId) : getPlayer (listens src s) p w = getPlayer s p w := by
  simp [getPlayer]
@[simp] theorem getPlayer_unlistens (p : PosIx) (w : PlayerId) : getPlayer (unlistens src s) p w = getPlayer s p w := by
  simp [getPlayer]

end

section
variable (s : State) (p : PosIx) (w : PlayerId) (pl : Player)

@[simp] theorem putPlayer_link : (putPlayer s p w pl).link = s.link := rfl
@[simp] theorem putPlayer_draws : (putPlayer s p w pl).draws = s.draws := rfl

@[simp] theorem listensCurrent_link : (listensCurrent pl s).link = s.link := by unfold listensCurrent; split <;> simp
@[simp] theorem listensCurrent_draws : (listensCurrent pl s).draws = s.draws := by unfold listensCurrent; split <;> simp
@[simp] theorem getPlayer_listensCurrent : getPlayer (listensCurrent pl s) p w = getPlayer s p w := by
  unfold listensCurrent; split <;> simp
@[simp] theorem bare_listensCurrent : bare (listensCurrent pl s) = bare s := by unfold listensCurrent; split <;> simp

@[simp] theorem getPlayer_reportItem (ev : ItemEvent) (reason : LeaveReason) (it : Item) (offset : Nat) (q : PosIx) (v : PlayerId) :
    getPlayer (reportItem p w ev reason it offset s) q v = getPlayer s q v := getPlayer_raise _ _ _ _

end

/-! ## Items leaving -/

section
variable (p : PosIx) (w : PlayerId) (reason : LeaveReason) (sel : Item → Bool)

/-- The report of an item's leaving waits, and counts one more. -/
theorem waiting_reportItem (ev : ItemEvent) (it : Item) (offset : Nat) (s : State) :
    waiting (playerKey p w) (reportItem p w ev reason it offset s) =
      some (.player p w (itemReport ev reason it offset (getPlayer s p w)), min (waitingCount (playerKey p w) s + 1) 255) := by
  rw [reportItem, waiting_raise_same (sameReport_playerKey p w _)]

theorem waitingCount_reportItem (ev : ItemEvent) (it : Item) (offset : Nat) (s : State) :
    waitingCount (playerKey p w) (reportItem p w ev reason it offset s) = min (waitingCount (playerKey p w) s + 1) 255 := by
  rw [waitingCount, waiting_reportItem]; rfl

theorem raisesOnly_reportItem (ev : ItemEvent) (it : Item) (offset : Nat) (s : State) :
    RaisesOnly (playerKey p w) s (reportItem p w ev reason it offset s) :=
  raisesOnly_raise (sameReport_playerKey p w _)

/-- The state in which a queued item's drop is reported. -/
theorem dropQueued_drops {it : Item} (h : sel it = true) (kept rest : List Item) (s : State) :
    ∃ t, dropQueued p w reason sel kept (it :: rest) s =
        dropQueued p w reason sel kept rest (reportItem p w .itemDropped reason it 0 t) ∧
      t.link = s.link ∧ t.draws = s.draws ∧ getPlayer t p w = { getPlayer s p w with queue := kept ++ rest } := by
  refine ⟨_, by rw [dropQueued, if_pos h], ?_, ?_, ?_⟩ <;> simp

/-- The state in which a stacked item's drop is reported. -/
theorem dropStacked_drops {it : Item} (h : sel it = true) (kept rest : List Item) (s : State) :
    ∃ t, dropStacked p w reason sel kept (it :: rest) s =
        dropStacked p w reason sel kept rest (reportItem p w .itemDropped reason it it.readOffset t) ∧
      t.link = s.link ∧ t.draws = s.draws ∧ getPlayer t p w = { getPlayer s p w with stack := kept ++ rest } := by
  refine ⟨_, by rw [dropStacked, if_pos h], ?_, ?_, ?_⟩ <;> simp

theorem raisesOnly_dropQueued (l kept : List Item) (s : State) :
    RaisesOnly (playerKey p w) s (dropQueued p w reason sel kept l s) := by
  induction l generalizing kept s with
  | nil => exact .rfl
  | cons it rest ih =>
    by_cases h : sel it = true
    · obtain ⟨t, ht, hl, hd, -⟩ := dropQueued_drops p w reason sel h kept rest s
      rw [ht]
      exact (RaisesOnly.of_link hl hd).trans ((raisesOnly_reportItem p w reason _ it 0 t).trans (ih _ _))
    · rw [dropQueued, if_neg h]; exact ih _ _

theorem raisesOnly_dropStacked (l kept : List Item) (s : State) :
    RaisesOnly (playerKey p w) s (dropStacked p w reason sel kept l s) := by
  induction l generalizing kept s with
  | nil => exact .rfl
  | cons it rest ih =>
    by_cases h : sel it = true
    · obtain ⟨t, ht, hl, hd, -⟩ := dropStacked_drops p w reason sel h kept rest s
      rw [ht]
      exact (RaisesOnly.of_link hl hd).trans ((raisesOnly_reportItem p w reason _ it _ t).trans (ih _ _))
    · rw [dropStacked, if_neg h]; exact ih _ _

theorem raisesOnly_dropLists (s : State) : RaisesOnly (playerKey p w) s (dropLists p w reason sel s) :=
  (raisesOnly_dropQueued p w reason sel _ _ _).trans (raisesOnly_dropStacked p w reason sel _ _ _)

/-- Each dropped queued item is counted. -/
theorem waitingCount_dropQueued (l kept : List Item) (s : State) :
    min (waitingCount (playerKey p w) s + (l.filter sel).length) 255 ≤
      waitingCount (playerKey p w) (dropQueued p w reason sel kept l s) := by
  induction l generalizing kept s with
  | nil => exact Nat.min_le_left _ _
  | cons it rest ih =>
    by_cases h : sel it = true
    · obtain ⟨t, ht, hl, -, -⟩ := dropQueued_drops p w reason sel h kept rest s
      have hi := ih kept (reportItem p w .itemDropped reason it 0 t)
      rw [waitingCount_reportItem, waitingCount_of_link hl] at hi
      rw [ht, List.filter_cons_of_pos h, List.length_cons]
      omega
    · rw [dropQueued, if_neg h, List.filter_cons_of_neg h]
      exact ih _ _

/-- Each dropped stacked item is counted. -/
theorem waitingCount_dropStacked (l kept : List Item) (s : State) :
    min (waitingCount (playerKey p w) s + (l.filter sel).length) 255 ≤
      waitingCount (playerKey p w) (dropStacked p w reason sel kept l s) := by
  induction l generalizing kept s with
  | nil => exact Nat.min_le_left _ _
  | cons it rest ih =>
    by_cases h : sel it = true
    · obtain ⟨t, ht, hl, -, -⟩ := dropStacked_drops p w reason sel h kept rest s
      have hi := ih kept (reportItem p w .itemDropped reason it it.readOffset t)
      rw [waitingCount_reportItem, waitingCount_of_link hl] at hi
      rw [ht, List.filter_cons_of_pos h, List.length_cons]
      omega
    · rw [dropStacked, if_neg h, List.filter_cons_of_neg h]
      exact ih _ _

theorem getPlayer_dropQueued (s : State) (l kept : List Item) (h : (getPlayer s p w).queue = kept ++ l) :
    getPlayer (dropQueued p w reason sel kept l s) p w =
      { getPlayer s p w with queue := kept ++ l.filter fun it => !sel it } := by
  rw [getPlayer_of_bare p w (bare_dropQueued p w reason sel l kept s h), getPlayer_putPlayer_self]

/-- Each dropped item is counted. -/
theorem waitingCount_dropLists (s : State) :
    min (waitingCount (playerKey p w) s + ((getPlayer s p w).queue.filter sel).length + ((getPlayer s p w).stack.filter sel).length)
      255 ≤ waitingCount (playerKey p w) (dropLists p w reason sel s) := by
  have hq := waitingCount_dropQueued p w reason sel (getPlayer s p w).queue [] s
  have hs := waitingCount_dropStacked p w reason sel (getPlayer s p w).stack []
    (dropQueued p w reason sel [] (getPlayer s p w).queue s)
  rw [dropLists, getPlayer_dropQueued p w reason sel s _ [] rfl]
  dsimp only at hs ⊢
  omega

theorem getPlayer_dropLists (s : State) :
    getPlayer (dropLists p w reason sel s) p w =
      { getPlayer s p w with
        stack := (getPlayer s p w).stack.filter fun it => !sel it
        queue := (getPlayer s p w).queue.filter fun it => !sel it } := by
  rw [getPlayer_of_bare p w (bare_dropLists p w reason sel s), getPlayer_putPlayer_self]

/-- The state in which the end of a current item is reported. -/
theorem endCurrent_ends {it : Item} (s : State) (h : (getPlayer s p w).current = some it) :
    ∃ t, endCurrent p w reason s = reportItem p w .itemEnd reason it it.readOffset t ∧ t.link = s.link ∧ t.draws = s.draws ∧
      getPlayer t p w = succession (getPlayer s p w) := by
  refine ⟨_, by rw [endCurrent, h], ?_, ?_, ?_⟩ <;> simp

/-- An IDLE player's item does not end. -/
theorem endCurrent_idle (s : State) (h : (getPlayer s p w).current = none) : endCurrent p w reason s = s := by
  rw [endCurrent, h]

theorem raisesOnly_endCurrent (s : State) : RaisesOnly (playerKey p w) s (endCurrent p w reason s) := by
  cases h : (getPlayer s p w).current with
  | none => rw [endCurrent_idle p w reason s h]; exact .rfl
  | some it =>
    obtain ⟨t, ht, hl, hd, -⟩ := endCurrent_ends p w reason s h
    rw [ht]
    exact (RaisesOnly.of_link hl hd).trans (raisesOnly_reportItem p w reason _ it _ t)

/-- The report of the current item's end waits (R139). -/
theorem waiting_endCurrent {it : Item} (s : State) (h : (getPlayer s p w).current = some it) :
    waiting (playerKey p w) (endCurrent p w reason s) =
      some (.player p w (itemReport .itemEnd reason it it.readOffset (succession (getPlayer s p w))),
        min (waitingCount (playerKey p w) s + 1) 255) := by
  obtain ⟨t, ht, hl, -, hp⟩ := endCurrent_ends p w reason s h
  rw [ht, waiting_reportItem, hp, waitingCount_of_link hl]

theorem raisesOnly_clearPlayer (s : State) : RaisesOnly (playerKey p w) s (clearPlayer p w reason s) :=
  (raisesOnly_dropLists p w reason _ s).trans (raisesOnly_endCurrent p w reason _)

/-- An IDLE and empty player is cleared by nothing. -/
theorem clearPlayer_idle (s : State) (h : getPlayer s p w = idlePlayer) : clearPlayer p w reason s = s := by
  have hq : (getPlayer s p w).queue = [] := by rw [h]; rfl
  have hs : (getPlayer s p w).stack = [] := by rw [h]; rfl
  have hc : (getPlayer s p w).current = none := by rw [h]; rfl
  rw [clearPlayer, dropLists]
  simp only [hq, dropQueued, hs, dropStacked]
  exact endCurrent_idle p w reason s hc

/-- A report says that an item left, and counts what left (R139, R179). -/
theorem itemLeft_of_waiting {u : State} {ev : ItemEvent} {it : Item} {offset count n : Nat} {left : Player}
    (h : waiting (playerKey p w) u = some (.player p w (itemReport ev reason it offset left), n)) (hn : min count 255 ≤ n) :
    ItemLeft u p w ev reason it offset count left := by
  refine ⟨n, hn, ?_⟩
  have hm := waiting_mem h
  unfold itemReport clipOffset at hm
  cases hs : it.source <;> rw [hs] at hm <;> exact hm

/-- What waits after a player that plays was cleared: its item's end, which counts every item (R137, R139). -/
theorem waiting_clearPlayer {it : Item} (s : State) (h : (getPlayer s p w).current = some it) :
    ∃ n, min (1 + (getPlayer s p w).stack.length + (getPlayer s p w).queue.length) 255 ≤ n ∧
      waiting (playerKey p w) (clearPlayer p w reason s) =
        some (.player p w (itemReport .itemEnd reason it it.readOffset idlePlayer), n) := by
  have hg := getPlayer_dropLists p w reason (fun _ => true) s
  have hc : (getPlayer (dropLists p w reason (fun _ => true) s) p w).current = some it := by rw [hg]; exact h
  have hn := waitingCount_dropLists p w reason (fun _ => true) s
  simp only [List.filter_true] at hn
  refine ⟨min (waitingCount (playerKey p w) (dropLists p w reason (fun _ => true) s) + 1) 255, by omega, ?_⟩
  rw [clearPlayer, waiting_endCurrent p w reason _ hc, hg]
  simp [succession, idlePlayer]

end

/-! ## Items entering -/

section
variable (p : PosIx) (w : PlayerId) (it : Item)

@[simp] theorem becomeCurrent_link (s : State) : (becomeCurrent p w it s).link = s.link := by simp [becomeCurrent]
@[simp] theorem becomeCurrent_draws (s : State) : (becomeCurrent p w it s).draws = s.draws := by simp [becomeCurrent]
@[simp] theorem getPlayer_becomeCurrent (s : State) :
    getPlayer (becomeCurrent p w it s) p w = { getPlayer s p w with current := some it } := by simp [becomeCurrent]

/-- The state in which a replaced item's end is reported (R127; log entry 36). -/
theorem playNowItem_replaces {old : Item} (s : State) (h : (getPlayer s p w).current = some old) :
    ∃ t, playNowItem p w it s = reportItem p w .itemEnd .replaced old old.readOffset t ∧ t.link = s.link ∧ t.draws = s.draws ∧
      getPlayer t p w = { getPlayer s p w with current := some it } := by
  refine ⟨_, by rw [playNowItem, h], ?_, ?_, ?_⟩ <;> simp

theorem raisesOnly_playNowItem (s : State) : RaisesOnly (playerKey p w) s (playNowItem p w it s) := by
  cases h : (getPlayer s p w).current with
  | none => rw [playNowItem, h]; exact .of_link (by simp) (by simp)
  | some old =>
    obtain ⟨t, ht, hl, hd, -⟩ := playNowItem_replaces p w it s h
    rw [ht]
    exact (RaisesOnly.of_link hl hd).trans (raisesOnly_reportItem p w _ _ old _ t)

theorem raisesOnly_playOnlyItem (s : State) : RaisesOnly (playerKey p w) s (playOnlyItem p w it s) :=
  (raisesOnly_dropLists p w _ _ s).trans (raisesOnly_playNowItem p w it _)

/-- What waits after mode ONLY on a player that plays (R130, R139). -/
theorem waiting_playOnlyItem {old : Item} (s : State) (h : (getPlayer s p w).current = some old) :
    ∃ n, min (1 + (getPlayer s p w).stack.length + (getPlayer s p w).queue.length) 255 ≤ n ∧
      waiting (playerKey p w) (playOnlyItem p w it s) =
        some (.player p w (itemReport .itemEnd .replaced old old.readOffset ⟨some it, [], []⟩), n) := by
  have hg := getPlayer_dropLists p w .flushed (fun _ => true) s
  have hc : (getPlayer (dropLists p w .flushed (fun _ => true) s) p w).current = some old := by rw [hg]; exact h
  have hn := waitingCount_dropLists p w .flushed (fun _ => true) s
  simp only [List.filter_true] at hn
  obtain ⟨t, ht, hl, -, hp⟩ := playNowItem_replaces p w it _ hc
  refine ⟨min (waitingCount (playerKey p w) (dropLists p w .flushed (fun _ => true) s) + 1) 255, by omega, ?_⟩
  rw [playOnlyItem, ht, waiting_reportItem, hp, hg, waitingCount_of_link hl]
  simp

end

end Sys2Proof.Machine

/-! # The record and the engine that an operation on one position leaves

An operation on a position is said by the position's record and the engine it leaves; the rest keeps its bare form. -/

namespace Sys2Proof.Machine

/-! ## Records and engines put one over the other -/

@[simp] theorem putPos_putPos (s : State) (p : PosIx) (a b : Position) : putPos (putPos s p a) p b = putPos s p b := by
  simp [putPos]

@[simp] theorem putEngine_putEngine (s : State) (a b : Engine) : putEngine (putEngine s a) b = putEngine s b := rfl

@[simp] theorem putEngine_engine_eq (s : State) : putEngine s s.engine = s := rfl

theorem bare_putEngine {s t : State} (h : bare s = bare t) (e : Engine) : bare (putEngine s e) = bare (putEngine t e) := by
  simp only [bare, State.mk.injEq] at h ⊢
  simp_all [putEngine]

theorem engine_of_bare {s t : State} (h : bare s = bare t) : s.engine = t.engine := by
  have hf := congrArg State.engine h
  exact hf

theorem positions_of_bare {s t : State} (h : bare s = bare t) : s.positions = t.positions := by
  have hf := congrArg State.positions h
  exact hf

theorem ports_of_bare {s t : State} (h : bare s = bare t) : s.ports = t.ports := by
  have hf := congrArg State.ports h
  exact hf

@[simp] theorem waiting_putEngine (b : ReportBody) (s : State) (e : Engine) : waiting b (putEngine s e) = waiting b s := rfl

@[simp] theorem waiting_putPos (b : ReportBody) (s : State) (p : PosIx) (r : Position) : waiting b (putPos s p r) = waiting b s :=
  rfl

@[simp] theorem waiting_setCall (b : ReportBody) (p : PosIx) (c : CallState) (s : State) :
    waiting b (setCall p c s) = waiting b s := rfl

/-- From `s`, with the record `r` of position `p` and the engine `e`, the state `u` has everything else as it was but reports and
counts, and no free value was drawn. -/
def Leaves (s : State) (p : PosIx) (r : Position) (e : Engine) (u : State) : Prop :=
  bare u = bare (putEngine (putPos s p r) e) ∧ u.draws = s.draws

section
variable {s u : State} {p : PosIx} {r : Position} {e : Engine}

theorem leaves_self (s : State) (p : PosIx) : Leaves s p (getPos s p) s.engine s := ⟨by simp, rfl⟩

theorem Leaves.getPos_self (h : Leaves s p r e u) : getPos u p = r := by
  rw [getPos_of_bare h.1]; simp

theorem Leaves.getPos_ne (h : Leaves s p r e u) {q : PosIx} (hq : q ≠ p) : getPos u q = getPos s q := by
  rw [getPos_of_bare h.1, getPos_putEngine, getPos_putPos_ne s p q r fun e => hq e.symm]

theorem Leaves.getPlayer_self (h : Leaves s p r e u) (w : PlayerId) : getPlayer u p w = playerOf r w := by
  rw [getPlayer, h.getPos_self]

theorem Leaves.engine (h : Leaves s p r e u) : u.engine = e := (engine_of_bare h.1).trans rfl

theorem Leaves.putPos (h : Leaves s p r e u) (r' : Position) : Leaves s p r' e (putPos u p r') := by
  refine ⟨?_, h.2⟩
  have := bare_putPos h.1 p r'
  rw [this]
  show bare (Machine.putPos (Machine.putPos (putEngine s e) p r) p r') = _
  rw [putPos_putPos]
  rfl

theorem Leaves.setCall (h : Leaves s p r e u) (c : CallState) : Leaves s p { r with call := c } e (setCall p c u) := by
  rw [Machine.setCall, h.getPos_self]; exact h.putPos _

theorem Leaves.putCanceller (h : Leaves s p r e u) (c : Canceller) :
    Leaves s p { r with canceller := c } e (putCanceller u p c) := by
  rw [Machine.putCanceller, h.getPos_self]; exact h.putPos _

theorem Leaves.of_bare (h : Leaves s p r e u) {v : State} (hb : bare v = bare u) (hd : v.draws = u.draws) : Leaves s p r e v :=
  ⟨hb.trans h.1, hd.trans h.2⟩

theorem Leaves.raise (h : Leaves s p r e u) (b : ReportBody) : Leaves s p r e (raise b u) := h.of_bare (by simp) (by simp)

/-- A change of a player's own, said by its bare form. -/
theorem Leaves.player (h : Leaves s p r e u) {w : PlayerId} {pl : Player} {v : State} (hb : bare v = bare (putPlayer u p w pl))
    (hd : v.draws = u.draws) : Leaves s p (withPlayer r w pl) e v := by
  have hp : Leaves s p (withPlayer r w pl) e (putPlayer u p w pl) := by
    rw [putPlayer, h.getPos_self]; exact h.putPos _
  exact hp.of_bare hb hd

theorem Leaves.clearPlayer (h : Leaves s p r e u) (w : PlayerId) (reason : LeaveReason)
    (hi : (playerOf r w).current = none → (playerOf r w).stack = [] ∧ (playerOf r w).queue = []) :
    Leaves s p (withPlayer r w idlePlayer) e (clearPlayer p w reason u) :=
  h.player (bare_clearPlayer p w reason u (by rw [h.getPlayer_self]; exact hi)) (raisesOnly_clearPlayer p w reason u).1

theorem Leaves.playOnlyItem (h : Leaves s p r e u) (w : PlayerId) (it : Item) :
    Leaves s p (withPlayer r w ⟨some it, [], []⟩) e (playOnlyItem p w it u) :=
  h.player (bare_playOnlyItem p w it u) (raisesOnly_playOnlyItem p w it u).1

end

/-! ## Tones -/

/-- A stopped unit is as it was. -/
theorem stoppedTone_of_stopped {t : Tone} (h : t.running = false) : stoppedTone t = t := by
  cases t; cases h; rfl

theorem raisesOnly_clearTone (p : PosIx) (s : State) : RaisesOnly (toneKey p) s (clearTone p s) := by
  unfold clearTone
  simp only
  split
  · exact (RaisesOnly.of_link rfl rfl).trans (raisesOnly_raise (sameReport_toneKey ..))
  · exact .rfl

theorem Leaves.clearTone {s u : State} {p : PosIx} {r : Position} {e : Engine} (h : Leaves s p r e u) :
    Leaves s p { r with tone := stoppedTone r.tone } e (clearTone p u) := by
  unfold Machine.clearTone
  simp only [h.getPos_self]
  by_cases ht : r.tone.running = true
  · rw [if_pos ht]
    exact (h.putPos _).raise _
  · rw [if_neg ht, stoppedTone_of_stopped (by simpa using ht)]
    exact h

/-- A running tone that is cleared is reported (R161). -/
theorem waiting_clearTone {p : PosIx} {s : State} (h : (getPos s p).tone.running = true) :
    ∃ n, waiting (toneKey p) (clearTone p s) =
      some (.tone p .cleared (getPos s p).tone.route (getPos s p).tone.burstCount (getPos s p).tone.bursts, n) := by
  refine ⟨min (waitingCount (toneKey p) s + 1) 255, ?_⟩
  rw [clearTone]
  simp only [h, if_true]
  exact waiting_raise_same (b := toneReport p .cleared _) (sameReport_toneKey ..)

/-! ## The engine -/

/-- The start of the head touches the engine alone. -/
theorem startHead_eq (s : State) : startHead s = putEngine s (startHead s).engine := by
  unfold startHead
  split <;> rfl

/-- A request touches the engine alone. -/
theorem placeRequest_eq (p : PosIx) (r : SearchRequest) (s : State) :
    (placeRequest p r s).1 = putEngine s (placeRequest p r s).1.engine := by
  unfold placeRequest
  split
  · rfl
  · split
    · rfl
    · split <;> rfl

/-- What a request makes of the engine depends on the engine and the window start alone. -/
theorem placeRequest_engine {s t : State} (p : PosIx) (r : SearchRequest) (he : s.engine = t.engine)
    (hw : (getPos s p).canceller.window = (getPos t p).canceller.window) :
    (placeRequest p r s).1.engine = (placeRequest p r t).1.engine := by
  unfold placeRequest inFlightFor queuedFor
  rw [he]
  split
  · rfl
  · split
    · rfl
    · split
      · simp only [startEntry, putEngine_engine, he, hw]
      · rfl

theorem inFlightFor_congr {s t : State} (h : s.engine = t.engine) (p : PosIx) : inFlightFor s p = inFlightFor t p := by
  rw [inFlightFor, inFlightFor, h]

theorem queuedFor_congr {s t : State} (h : s.engine = t.engine) (p : PosIx) : queuedFor s p = queuedFor t p := by
  rw [queuedFor, queuedFor, h]

theorem heldFields_congr {s t : State} (h : s.engine = t.engine) (p : PosIx) : heldFields s p = heldFields t p := by
  rw [heldFields, heldFields, inFlightFor_congr h, queuedFor_congr h]

/-- What the engine is when the searches of a position are dropped. -/
def droppedEngine (e : Engine) (p : PosIx) : Engine :=
  { e with
    inFlight := if (e.inFlight.filter fun f => f.entry.position == p).isSome then none else e.inFlight
    followUp := if (e.inFlight.filter fun f => f.entry.position == p).isSome then none else e.followUp
    queue := e.queue.filter fun x => x.position != p }

theorem dropSearches_eq (p : PosIx) (s : State) : dropSearches p s = putEngine s (droppedEngine s.engine p) := by
  unfold dropSearches droppedEngine inFlightFor
  simp only
  split <;> rfl

/-- The engine when its head entry, if any, starts on an IDLE engine (R89), with the window starts of the positions. -/
def headStarted (window : PosIx → Nat) (e : Engine) : Engine :=
  match e.inFlight, e.queue with
  | none, x :: rest =>
    let span := searchSpan x.request.kind (window x.position)
    { inFlight := some ⟨x, span.1, span.2, 0, 0⟩, followUp := none, queue := rest
      accumulators := clearSpan span.1 span.2 e.accumulators }
  | _, _ => e

theorem startHead_does (s : State) :
    (startHead s).engine = headStarted (fun q => (getPos s q).canceller.window) s.engine := by
  unfold startHead headStarted
  cases s.engine.inFlight with
  | some f => rfl
  | none =>
    cases s.engine.queue with
    | nil => rfl
    | cons x rest => rfl

/-- The start of the head reads the window start of a waiting position alone. -/
theorem headStarted_congr {v w : PosIx → Nat} {e : Engine} (h : ∀ x ∈ e.queue, v x.position = w x.position) :
    headStarted v e = headStarted w e := by
  unfold headStarted
  split
  · rename_i x rest _ hq
    rw [h x (by rw [hq]; exact List.mem_cons_self)]
  · rfl

theorem cancelledEngine_eq (s : State) (p : PosIx) :
    cancelledEngine s p =
      if (heldFields s p).isSome then headStarted (fun q => (getPos s q).canceller.window) (droppedEngine s.engine p)
      else s.engine := by
  rw [cancelledEngine, startHead_does, dropSearches_eq]
  rfl

theorem mem_droppedEngine {e : Engine} {p : PosIx} {x : SearchEntry} (h : x ∈ (droppedEngine e p).queue) : x.position ≠ p := by
  simp only [droppedEngine, List.mem_filter, bne_iff_ne] at h
  exact h.2

/-- What a cancellation leaves of the engine depends on the engine and the other positions' window starts alone. -/
theorem cancelledEngine_congr {s t : State} {p : PosIx} (he : s.engine = t.engine)
    (hw : ∀ q, q ≠ p → (getPos s q).canceller.window = (getPos t q).canceller.window) :
    cancelledEngine s p = cancelledEngine t p := by
  rw [cancelledEngine_eq, cancelledEngine_eq, heldFields_congr he, he]
  rw [headStarted_congr (w := fun q => (getPos t q).canceller.window) fun x hx => hw x.position (mem_droppedEngine hx)]

theorem inFlightFor_none_iff (s : State) (p : PosIx) :
    inFlightFor s p = none ↔ ∀ f, s.engine.inFlight = some f → f.entry.position ≠ p := by
  unfold inFlightFor
  cases s.engine.inFlight with
  | none => simp
  | some f => simp [Option.filter]

theorem queuedFor_none_iff (s : State) (p : PosIx) : queuedFor s p = none ↔ ∀ x ∈ s.engine.queue, x.position ≠ p := by
  simp [queuedFor]

theorem heldFields_none_iff (s : State) (p : PosIx) :
    heldFields s p = none ↔
      (∀ f, s.engine.inFlight = some f → f.entry.position ≠ p) ∧ ∀ x ∈ s.engine.queue, x.position ≠ p := by
  rw [← inFlightFor_none_iff, ← queuedFor_none_iff]
  unfold heldFields
  cases inFlightFor s p <;> simp

/-- The engine holds nothing for a position whose searches were cancelled (R96). -/
theorem searchCondition_cancelled {s u : State} {p : PosIx} (h : u.engine = cancelledEngine s p) : searchCondition u p = 0 := by
  have hn : heldFields u p = none := by
    rw [heldFields_none_iff, h, cancelledEngine_eq]
    by_cases hs : heldFields s p = none
    · rw [hs]
      exact (heldFields_none_iff s p).1 hs
    · rw [if_pos (Option.isSome_iff_ne_none.2 hs)]
      have hq : ∀ x ∈ (droppedEngine s.engine p).queue, x.position ≠ p := fun x hx => mem_droppedEngine hx
      have hf : ∀ f, (droppedEngine s.engine p).inFlight = some f → f.entry.position ≠ p := by
        intro f hf he
        unfold droppedEngine at hf
        simp only at hf
        split at hf
        · cases hf
        · rename_i hno
          rw [hf] at hno
          simp [Option.filter, he] at hno
      unfold headStarted
      split
      · rename_i x rest _ hx
        rw [hx] at hq
        refine ⟨fun f he => ?_, fun y hy => hq y (List.mem_cons_of_mem _ hy)⟩
        cases he
        exact hq x List.mem_cons_self
      · exact ⟨hf, hq⟩
  obtain ⟨hf, hq⟩ := (heldFields_none_iff u p).1 hn
  rw [searchCondition, (inFlightFor_none_iff u p).2 hf, (queuedFor_none_iff u p).2 hq]
  rfl

/-- The record of a position whose searches are cancelled (R97). -/
def cancelledRecord (f : Option SearchFields) (r : Position) : Position :=
  { r with lastSearch := match f with | none => r.lastSearch | some x => some x }

theorem cancelSearches_draws (p : PosIx) (s : State) : (cancelSearches p s).draws = s.draws := by
  unfold cancelSearches
  split
  · rfl
  · rw [startHead_eq, putEngine_draws, raise_draws, keepOutcome, putPos_draws, dropSearches_eq, putEngine_draws]

theorem raisesOnly_cancelSearches (p : PosIx) (s : State) : RaisesOnly (echoKey p) s (cancelSearches p s) := by
  unfold cancelSearches
  split
  · exact .rfl
  · have h1 : ∀ f, RaisesOnly (echoKey p) s (keepOutcome p f (dropSearches p s)) := fun f =>
      .of_link (by rw [keepOutcome, putPos_link, dropSearches_eq, putEngine_link])
        (by rw [keepOutcome, putPos_draws, dropSearches_eq, putEngine_draws])
    rw [startHead_eq]
    exact (h1 _).trans ((raisesOnly_raise (sameReport_echoKey ..)).trans (.of_link rfl rfl))

theorem Leaves.cancelSearches {s u : State} {p : PosIx} {r : Position} {e : Engine} (h : Leaves s p r e u) :
    Leaves s p (cancelledRecord (heldFields u p) r) (cancelledEngine u p) (cancelSearches p u) := by
  refine ⟨?_, (cancelSearches_draws p u).trans h.2⟩
  rw [← cancelSearches_engine]
  have hb : bare (Machine.cancelSearches p u) =
      bare (putEngine (Machine.putPos u p (cancelledRecord (heldFields u p) r)) (Machine.cancelSearches p u).engine) := by
    unfold Machine.cancelSearches
    cases hf : heldFields u p with
    | none =>
      have hr : cancelledRecord none r = getPos u p := h.getPos_self.symm
      rw [hr, putPos_getPos]
      rfl
    | some f =>
      simp only
      rw [startHead_eq, putEngine_engine]
      refine bare_putEngine ?_ _ |>.trans (congrArg bare (putEngine_putEngine (Machine.putPos u p _) (droppedEngine u.engine p) _))
      rw [bare_raise, keepOutcome, dropSearches_eq, getPos_putEngine, h.getPos_self]
      rfl
  rw [hb]
  exact bare_putEngine (h.putPos _).1 _ |>.trans rfl

/-- A cancellation that finds something is reported (R96, R97). -/
theorem waiting_cancelSearches {p : PosIx} {s : State} {f : SearchFields} (h : heldFields s p = some f) :
    ∃ n, waiting (echoKey p) (cancelSearches p s) =
      some (.echo p (.outcome .cancelled) (getPos s p).canceller.state (getPos s p).canceller.window (getPos s p).canceller.erle
        (some f), n) := by
  refine ⟨min (waitingCount (echoKey p) (keepOutcome p f (dropSearches p s)) + 1) 255, ?_⟩
  rw [cancelSearches, h]
  simp only
  rw [startHead_eq, waiting_putEngine, waiting_raise_same (b := echoReport p _ _) (sameReport_echoKey ..), echoReport,
    keepOutcome, dropSearches_eq]
  simp

end Sys2Proof.Machine

/-! # Teardowns (R10, R11, R20) -/

namespace Sys2Proof.Machine

/-! ## Reports of different kinds -/

section
variable (p q : PosIx) (w : PlayerId)

@[simp] theorem sameReport_playerKey_toneKey : sameReport (playerKey p w) (toneKey q) = false :=
  sameReport_of_kind (by cases w <;> simp [playerKey, toneKey, reportKind])
@[simp] theorem sameReport_playerKey_echoKey : sameReport (playerKey p w) (echoKey q) = false :=
  sameReport_of_kind (by cases w <;> simp [playerKey, echoKey, reportKind])
@[simp] theorem sameReport_playerKey_callKey : sameReport (playerKey p w) (callKey q) = false :=
  sameReport_of_kind (by cases w <;> simp [playerKey, callKey, reportKind])
@[simp] theorem sameReport_toneKey_playerKey : sameReport (toneKey p) (playerKey q w) = false :=
  sameReport_of_kind (by cases w <;> simp [playerKey, toneKey, reportKind])
@[simp] theorem sameReport_toneKey_echoKey : sameReport (toneKey p) (echoKey q) = false :=
  sameReport_of_kind (by simp [echoKey, toneKey, reportKind])
@[simp] theorem sameReport_toneKey_callKey : sameReport (toneKey p) (callKey q) = false :=
  sameReport_of_kind (by simp [callKey, toneKey, reportKind])
@[simp] theorem sameReport_echoKey_playerKey : sameReport (echoKey p) (playerKey q w) = false :=
  sameReport_of_kind (by cases w <;> simp [playerKey, echoKey, reportKind])
@[simp] theorem sameReport_echoKey_toneKey : sameReport (echoKey p) (toneKey q) = false :=
  sameReport_of_kind (by simp [echoKey, toneKey, reportKind])
@[simp] theorem sameReport_echoKey_callKey : sameReport (echoKey p) (callKey q) = false :=
  sameReport_of_kind (by simp [echoKey, callKey, reportKind])
@[simp] theorem sameReport_levelKey_playerKey : sameReport (levelKey p) (playerKey q w) = false :=
  sameReport_of_kind (by cases w <;> simp [playerKey, levelKey, reportKind])
@[simp] theorem sameReport_levelKey_callKey : sameReport (levelKey p) (callKey q) = false :=
  sameReport_of_kind (by simp [callKey, levelKey, reportKind])

end

/-! ## Reports that wait after a teardown -/

/-- The reports of a player that was cleared wait (R137, R139). -/
def ClearedWaits (u : State) (p : PosIx) (w : PlayerId) (pl : Player) : Prop :=
  ∀ old, pl.current = some old → ∃ n, min (1 + pl.stack.length + pl.queue.length) 255 ≤ n ∧
    waiting (playerKey p w) u = some (.player p w (itemReport .itemEnd .cleared old old.readOffset idlePlayer), n)

/-- The report of a tone that a teardown stopped waits (R161). -/
def ToneWaits (u : State) (p : PosIx) (t : Tone) : Prop :=
  t.running = true → ∃ n, waiting (toneKey p) u = some (.tone p .cleared t.route t.burstCount t.bursts, n)

/-- The report of a cancellation waits (R96, R97). -/
def CancelledWaits (u : State) (p : PosIx) (c : Canceller) (held : Option SearchFields) : Prop :=
  ∀ f, held = some f → ∃ n, waiting (echoKey p) u = some (.echo p (.outcome .cancelled) c.state c.window c.erle (some f), n)

section
variable {t u : State} {p : PosIx}

theorem ClearedWaits.mono {w : PlayerId} {pl : Player} (h : ClearedWaits t p w pl)
    (hw : waiting (playerKey p w) u = waiting (playerKey p w) t) : ClearedWaits u p w pl :=
  fun old ho => let ⟨n, hn, e⟩ := h old ho; ⟨n, hn, hw.trans e⟩

theorem ClearedWaits.report {w : PlayerId} {pl : Player} (h : ClearedWaits u p w pl) : ClearedReport u p w pl :=
  fun old ho => let ⟨_, hn, e⟩ := h old ho; itemLeft_of_waiting p w .cleared e hn

theorem clearedWaits_idle {w : PlayerId} {pl : Player} (h : pl.current = none) : ClearedWaits u p w pl := by
  intro old ho; rw [h] at ho; cases ho

theorem clearedWaits_clearPlayer (w : PlayerId) (s : State) :
    ClearedWaits (clearPlayer p w .cleared s) p w (getPlayer s p w) := fun _ h => waiting_clearPlayer p w .cleared s h

theorem ToneWaits.mono {x : Tone} (h : ToneWaits t p x) (hw : waiting (toneKey p) u = waiting (toneKey p) t) :
    ToneWaits u p x := fun hr => let ⟨n, e⟩ := h hr; ⟨n, hw.trans e⟩

theorem ToneWaits.report {x : Tone} (h : ToneWaits u p x) : ToneClearedReport u p x :=
  fun hr => let ⟨n, e⟩ := h hr; ⟨n, waiting_mem e⟩

theorem toneWaits_clearTone (s : State) : ToneWaits (clearTone p s) p (getPos s p).tone := fun h => waiting_clearTone h

theorem CancelledWaits.mono {c : Canceller} {held : Option SearchFields} (h : CancelledWaits t p c held)
    (hw : waiting (echoKey p) u = waiting (echoKey p) t) : CancelledWaits u p c held :=
  fun f hf => let ⟨n, e⟩ := h f hf; ⟨n, hw.trans e⟩

theorem CancelledWaits.report {c : Canceller} {held : Option SearchFields} (h : CancelledWaits u p c held) :
    ∀ f, held = some f →
      ∃ n, Message.report (.echo p (.outcome .cancelled) c.state c.window c.erle (some f)) n ∈ u.link.outbound :=
  fun f hf => let ⟨n, e⟩ := h f hf; ⟨n, waiting_mem e⟩

end

/-- A stopped tone is cleared by nothing. -/
theorem clearTone_stopped {p : PosIx} {s : State} (h : (getPos s p).tone.running = false) : clearTone p s = s := by
  simp [clearTone, h]

theorem raisesOnly_clearCallTone (p : PosIx) (s : State) : RaisesOnly (toneKey p) s (clearCallTone p s) := by
  unfold clearCallTone
  split
  · exact raisesOnly_clearTone p s
  · exact .rfl

/-! ## CALL-CLEAR (R10) -/

/-- The record of a position whose call ends, but for its last search. -/
def endedRecord (r : Position) : Position :=
  { r with
    call := .ready, net := idlePlayer, agent := idlePlayer
    tone := if routeHasNet r.tone.route then stoppedTone r.tone else r.tone
    canceller := endCallCanceller r.canceller }

section
variable {s : State} {p : PosIx}

theorem Leaves.clearCallTone {u : State} {r : Position} {e : Engine} (h : Leaves s p r e u) :
    Leaves s p { r with tone := if routeHasNet r.tone.route then stoppedTone r.tone else r.tone } e (clearCallTone p u) := by
  unfold Machine.clearCallTone
  rw [h.getPos_self]
  split
  · exact h.clearTone
  · exact h

/-- The state once the players are cleared (R10 steps 1 and 2). -/
def playersCleared (p : PosIx) (s : State) : State := clearPlayer p .net .cleared (clearPlayer p .agent .cleared (setCall p .ready s))

/-- The state before the searches are cancelled (R10 steps 1 to 4). -/
def callEnding (p : PosIx) (s : State) : State :=
  putCanceller (clearCallTone p (playersCleared p s)) p (endCallCanceller (getPos (clearCallTone p (playersCleared p s)) p).canceller)

theorem clearCall_eq (p : PosIx) (s : State) : clearCall p s = cancelSearches p (callEnding p s) := rfl

theorem agentCleared_leaves (hp : PlayersOk (getPos s p)) (c : CallState) :
    Leaves s p { getPos s p with call := c, agent := idlePlayer } s.engine (clearPlayer p .agent .cleared (setCall p c s)) :=
  ((leaves_self s p).setCall c).clearPlayer .agent .cleared hp.2.1.1

theorem playersCleared_leaves (hp : PlayersOk (getPos s p)) :
    Leaves s p { getPos s p with call := .ready, net := idlePlayer, agent := idlePlayer } s.engine (playersCleared p s) :=
  (agentCleared_leaves hp .ready).clearPlayer .net .cleared hp.1.1

/-- The reports of both players wait once they are cleared, AGENT first. -/
theorem playersCleared_cleared (hp : PlayersOk (getPos s p)) :
    ClearedWaits (playersCleared p s) p .net (getPos s p).net ∧ ClearedWaits (playersCleared p s) p .agent (getPos s p).agent := by
  have hn := clearedWaits_clearPlayer (p := p) .net (clearPlayer p .agent .cleared (setCall p .ready s))
  have ha := clearedWaits_clearPlayer (p := p) .agent (setCall p .ready s)
  rw [(agentCleared_leaves hp .ready).getPlayer_self] at hn
  rw [((leaves_self s p).setCall .ready).getPlayer_self] at ha
  exact ⟨hn, ha.mono ((raisesOnly_clearPlayer p .net .cleared _).2 _ (by simp))⟩

theorem callEnding_leaves (hp : PlayersOk (getPos s p)) : Leaves s p (endedRecord (getPos s p)) s.engine (callEnding p s) := by
  have h := (playersCleared_leaves hp).clearCallTone
  rw [callEnding, h.getPos_self]
  exact h.putCanceller _

/-- What CALL-CLEAR leaves (R10). -/
theorem clearCall_leaves (hp : PlayersOk (getPos s p)) :
    Leaves s p (cancelledRecord (heldFields s p) (endedRecord (getPos s p))) (cancelledEngine s p) (clearCall p s) := by
  have h := callEnding_leaves hp
  have hc := h.cancelSearches
  rwa [heldFields_congr h.engine, cancelledEngine_congr (t := s) h.engine fun q hq => by rw [h.getPos_ne hq]] at hc

/-- The cancellation raises ECHO reports alone, and the tone's end TONE reports alone. -/
theorem waiting_clearCall {b : ReportBody} (ht : sameReport b (toneKey p) = false) (he : sameReport b (echoKey p) = false) :
    waiting b (clearCall p s) = waiting b (playersCleared p s) := by
  rw [clearCall_eq, (raisesOnly_cancelSearches p _).2 b he, callEnding, putCanceller, waiting_putPos,
    (raisesOnly_clearCallTone p _).2 b ht]

/-- What CALL-CLEAR reports of the players (R10, R137). -/
theorem clearCall_cleared (hp : PlayersOk (getPos s p)) :
    ClearedWaits (clearCall p s) p .net (getPos s p).net ∧ ClearedWaits (clearCall p s) p .agent (getPos s p).agent := by
  obtain ⟨hn, ha⟩ := playersCleared_cleared hp
  exact ⟨hn.mono (waiting_clearCall (by simp) (by simp)), ha.mono (waiting_clearCall (by simp) (by simp))⟩

/-- What CALL-CLEAR reports of a tone that needs the call (R10, R161). -/
theorem clearCall_tone (hp : PlayersOk (getPos s p)) (hr : routeHasNet (getPos s p).tone.route = true) :
    ToneWaits (clearCall p s) p (getPos s p).tone := by
  have hg := (playersCleared_leaves hp).getPos_self
  have ht := toneWaits_clearTone (p := p) (playersCleared p s)
  rw [hg] at ht
  refine ht.mono ?_
  rw [clearCall_eq, (raisesOnly_cancelSearches p _).2 _ (by simp), callEnding, putCanceller, waiting_putPos, clearCallTone, hg,
    if_pos hr]

/-- What CALL-CLEAR reports of the searches (R10, R97). -/
theorem clearCall_cancelled (hp : PlayersOk (getPos s p)) :
    CancelledWaits (clearCall p s) p (endedRecord (getPos s p)).canceller (heldFields s p) := by
  intro f hf
  have h := callEnding_leaves hp
  have hw := waiting_cancelSearches (p := p) (s := callEnding p s) (f := f) (by rw [heldFields_congr h.engine, hf])
  rwa [h.getPos_self] at hw

end

/-! ## POS-CLOSE (R11) -/

/-- The record of a position whose call, if it has one, has ended. -/
def endedIfCalled (s : State) (p : PosIx) : Position :=
  if callPresent (getPos s p).call then cancelledRecord (heldFields s p) (endedRecord (getPos s p)) else getPos s p

/-- The record of a position that closes. -/
def closingRecord (s : State) (p : PosIx) : Position :=
  closedRecord { endedIfCalled s p with call := .vacant, agent := idlePlayer, tone := stoppedTone (getPos s p).tone }

section
variable {s : State} {p : PosIx}

/-- The state of a position whose call, if it has one, has ended. -/
def endIfCalled (p : PosIx) (s : State) : State := if callPresent (getPos s p).call then clearCall p s else s

theorem closePosition_eq (p : PosIx) (s : State) :
    closePosition p s =
      putPos (clearTone p (clearPlayer p .agent .cleared (setCall p .vacant (endIfCalled p s)))) p
        (closedRecord (getPos (clearTone p (clearPlayer p .agent .cleared (setCall p .vacant (endIfCalled p s)))) p)) := rfl

/-- The engine holds nothing for a position without a call: the premise of what POS-CLOSE leaves. -/
def HeldByCalls (s : State) (p : PosIx) : Prop := callPresent (getPos s p).call = false → heldFields s p = none

theorem cancelledEngine_none {s : State} {p : PosIx} (h : heldFields s p = none) : cancelledEngine s p = s.engine := by
  rw [cancelledEngine_eq, h]; rfl

theorem endIfCalled_leaves (hp : PlayersOk (getPos s p)) (he : HeldByCalls s p) :
    Leaves s p (endedIfCalled s p) (cancelledEngine s p) (endIfCalled p s) := by
  unfold endedIfCalled endIfCalled
  split
  · exact clearCall_leaves hp
  · rename_i hc
    rw [cancelledEngine_none (he (by simpa using hc))]
    exact leaves_self s p

theorem endedIfCalled_agent (hp : PlayersOk (getPos s p)) :
    (endedIfCalled s p).agent.current = none → (endedIfCalled s p).agent.stack = [] ∧ (endedIfCalled s p).agent.queue = [] := by
  unfold endedIfCalled
  split
  · exact fun _ => ⟨rfl, rfl⟩
  · exact hp.2.1.1

/-- What is left once the AGENT player of a closing position is cleared too. -/
theorem closing_leaves (hp : PlayersOk (getPos s p)) (he : HeldByCalls s p) :
    Leaves s p { endedIfCalled s p with call := .vacant, agent := idlePlayer } (cancelledEngine s p)
      (clearPlayer p .agent .cleared (setCall p .vacant (endIfCalled p s))) :=
  ((endIfCalled_leaves hp he).setCall .vacant).clearPlayer .agent .cleared (endedIfCalled_agent hp)

theorem stoppedTone_endedIfCalled (s : State) (p : PosIx) : stoppedTone (endedIfCalled s p).tone = stoppedTone (getPos s p).tone := by
  unfold endedIfCalled
  split
  · show stoppedTone (if _ then stoppedTone _ else _) = _
    split <;> rfl
  · rfl

/-- What POS-CLOSE leaves of a position that is not VACANT (R11). -/
theorem closePosition_leaves (hp : PlayersOk (getPos s p)) (he : HeldByCalls s p) :
    Leaves s p (closingRecord s p) (cancelledEngine s p) (closePosition p s) := by
  have h := (closing_leaves hp he).clearTone
  rw [closePosition_eq, h.getPos_self]
  dsimp only
  rw [stoppedTone_endedIfCalled]
  exact h.putPos _

/-- The clearing of the AGENT player of a closing position, which a call's end has cleared before. -/
theorem closing_agent (hp : PlayersOk (getPos s p)) (he : HeldByCalls s p) (hc : callPresent (getPos s p).call = true) :
    clearPlayer p .agent .cleared (setCall p .vacant (endIfCalled p s)) = setCall p .vacant (clearCall p s) := by
  have h := (endIfCalled_leaves hp he).setCall .vacant
  rw [clearPlayer_idle p .agent .cleared _ (by rw [h.getPlayer_self, endedIfCalled, if_pos hc]; rfl), endIfCalled, if_pos hc]

/-- What a teardown reports: the players' items, the tone and the searches. -/
def TornDown (u : State) (p : PosIx) (r : Position) (c : Canceller) (held : Option SearchFields) : Prop :=
  ClearedWaits u p .net r.net ∧ ClearedWaits u p .agent r.agent ∧ ToneWaits u p r.tone ∧ CancelledWaits u p c held

theorem TornDown.mono {t u : State} {r : Position} {c : Canceller} {held : Option SearchFields} (h : TornDown t p r c held)
    (hw : ∀ b, waiting b u = waiting b t) : TornDown u p r c held := by
  obtain ⟨h1, h2, h3, h4⟩ := h
  exact ⟨h1.mono (hw _), h2.mono (hw _), h3.mono (hw _), h4.mono (hw _)⟩

/-- What the close of a position with a call reports, but for what its tone does at the end. -/
theorem closing_reports_called (hp : PlayersOk (getPos s p)) :
    TornDown (clearTone p (setCall p .vacant (clearCall p s))) p (getPos s p) (endedRecord (getPos s p)).canceller
      (heldFields s p) := by
  obtain ⟨hn, ha⟩ := clearCall_cleared hp
  have hkeep : ∀ b, sameReport b (toneKey p) = false →
      waiting b (clearTone p (setCall p .vacant (clearCall p s))) = waiting b (clearCall p s) :=
    fun b hb => ((raisesOnly_clearTone p (setCall p .vacant (clearCall p s))).2 b hb).trans (waiting_setCall ..)
  have hl := (clearCall_leaves hp).setCall .vacant
  refine ⟨hn.mono (hkeep _ (by simp)), ha.mono (hkeep _ (by simp)), ?_, (clearCall_cancelled hp).mono (hkeep _ (by simp))⟩
  by_cases hr : routeHasNet (getPos s p).tone.route = true
  · have hstop : (getPos (setCall p .vacant (clearCall p s)) p).tone.running = false := by
      rw [hl.getPos_self]
      simp [cancelledRecord, endedRecord, hr, stoppedTone]
    rw [clearTone_stopped hstop]
    exact (clearCall_tone hp hr).mono (waiting_setCall ..)
  · have htone := toneWaits_clearTone (p := p) (setCall p .vacant (clearCall p s))
    have hu : (getPos (setCall p .vacant (clearCall p s)) p).tone = (getPos s p).tone := by
      rw [hl.getPos_self]
      simp [cancelledRecord, endedRecord, hr]
    rwa [hu] at htone

/-- What the close of a position without a call reports. -/
theorem closing_reports_ready (hp : PlayersOk (getPos s p)) (he : HeldByCalls s p) (hc : callPresent (getPos s p).call = false)
    (c : Canceller) :
    TornDown (clearTone p (clearPlayer p .agent .cleared (setCall p .vacant s))) p (getPos s p) c (heldFields s p) := by
  have ha := clearedWaits_clearPlayer (p := p) .agent (setCall p .vacant s)
  rw [((leaves_self s p).setCall .vacant).getPlayer_self] at ha
  have ht := toneWaits_clearTone (p := p) (clearPlayer p .agent .cleared (setCall p .vacant s))
  rw [(agentCleared_leaves hp .vacant).getPos_self] at ht
  refine ⟨clearedWaits_idle (hp.2.2.1 hc), ha.mono ((raisesOnly_clearTone p _).2 _ (by simp)), ht, ?_⟩
  rw [he hc]
  intro f hf
  cases hf

/-- What POS-CLOSE reports (R11, R97, R137, R161). -/
theorem closePosition_reports (hp : PlayersOk (getPos s p)) (he : HeldByCalls s p) :
    TornDown (closePosition p s) p (getPos s p) (endedIfCalled s p).canceller (heldFields s p) := by
  rw [closePosition_eq]
  refine TornDown.mono ?_ fun b => waiting_putPos b _ p _
  by_cases hc : callPresent (getPos s p).call = true
  · rw [closing_agent hp he hc, endedIfCalled, if_pos hc]
    exact closing_reports_called hp
  · rw [endIfCalled, if_neg hc]
    exact closing_reports_ready hp he (by simpa using hc) _

end

/-! ## RESET of scope POSITION (R20) -/

section
variable {s : State} {p : PosIx}

/-- The state whose window start at the position is 0 (R20 step 4). -/
def windowZeroed (p : PosIx) (s : State) : State := putCanceller s p { (getPos s p).canceller with window := 0 }

theorem getPos_windowZeroed (p : PosIx) (s : State) :
    getPos (windowZeroed p s) p = { getPos s p with canceller := { (getPos s p).canceller with window := 0 } } := by
  simp [windowZeroed, putCanceller]

theorem resetPosition_eq (p : PosIx) (s : State) :
    resetPosition p s =
      putPos (closeIfOpen p (windowZeroed p s)) p (resetRecord p (getPos (closeIfOpen p (windowZeroed p s)) p)) := rfl

theorem Leaves.of_windowZeroed {r : Position} {e : Engine} {u : State} (h : Leaves (windowZeroed p s) p r e u) : Leaves s p r e u := by
  refine ⟨h.1.trans ?_, h.2⟩
  rw [windowZeroed, Machine.putCanceller, putPos_putPos]

theorem heldFields_windowZeroed (p : PosIx) (s : State) : heldFields (windowZeroed p s) p = heldFields s p := heldFields_congr rfl p

theorem cancelledEngine_windowZeroed (p : PosIx) (s : State) : cancelledEngine (windowZeroed p s) p = cancelledEngine s p :=
  cancelledEngine_congr rfl fun q hq => by
    rw [windowZeroed, putCanceller, getPos_putPos_ne s p q _ fun e => hq e.symm]

/-- The premises of a close are those of the state before its window start is set. -/
theorem playersOk_windowZeroed (h : PlayersOk (getPos s p)) : PlayersOk (getPos (windowZeroed p s) p) := by
  rw [getPos_windowZeroed]; exact h

theorem heldByCalls_windowZeroed (h : HeldByCalls s p) : HeldByCalls (windowZeroed p s) p := by
  intro hc
  rw [getPos_windowZeroed] at hc
  rw [heldFields_windowZeroed]
  exact h hc

/-- What the close of a reset leaves, where the position is not VACANT. -/
theorem resetPosition_closes (hv : (getPos s p).call ≠ .vacant) :
    resetPosition p s =
      putPos (closePosition p (windowZeroed p s)) p (resetRecord p (getPos (closePosition p (windowZeroed p s)) p)) := by
  rw [resetPosition_eq, closeIfOpen, if_neg (by rw [getPos_windowZeroed]; exact hv)]

/-- A VACANT player is IDLE and empty. -/
theorem idle_of_vacant {r : Position} (h : PlayersOk r) (hv : r.call = .vacant) : r.net = idlePlayer ∧ r.agent = idlePlayer := by
  obtain ⟨⟨hn, -, -⟩, ⟨ha, -, -⟩, hnet, hagent⟩ := h
  have hc := hnet (by rw [hv]; rfl)
  obtain ⟨h1, h2⟩ := hn hc
  obtain ⟨h3, h4⟩ := ha (hagent hv)
  refine ⟨?_, ?_⟩
  · cases hx : r.net; simp_all [idlePlayer]
  · cases hx : r.agent; simp_all [idlePlayer]

/-- What a RESET of scope POSITION leaves (R20). -/
theorem resetPosition_leaves (hp : PlayersOk (getPos s p)) (he : HeldByCalls s p)
    (ht : (getPos s p).call = .vacant → (getPos s p).tone.running = false) :
    Leaves s p { positionAtReset p with tone := stoppedTone (getPos s p).tone, sliceDue := (getPos s p).sliceDue }
      (cancelledEngine s p) (resetPosition p s) := by
  by_cases hv : (getPos s p).call = .vacant
  · have hw : closeIfOpen p (windowZeroed p s) = windowZeroed p s := by
      rw [closeIfOpen, if_pos (by rw [getPos_windowZeroed]; exact hv)]
    obtain ⟨hn, ha⟩ := idle_of_vacant hp hv
    have h := ((leaves_self (windowZeroed p s) p).putPos (resetRecord p (getPos (windowZeroed p s) p))).of_windowZeroed
    rw [resetPosition_eq, hw, stoppedTone_of_stopped (ht hv), cancelledEngine_none (he (by rw [hv]; rfl))]
    rw [getPos_windowZeroed] at h ⊢
    rw [show (windowZeroed p s).engine = s.engine from rfl] at h
    simpa [resetRecord, positionAtReset, hn, ha, hv] using h
  · have h := ((closePosition_leaves (playersOk_windowZeroed hp) (heldByCalls_windowZeroed he)).putPos
      (resetRecord p (closingRecord (windowZeroed p s) p))).of_windowZeroed
    rw [cancelledEngine_windowZeroed] at h
    rw [resetPosition_closes hv,
      (closePosition_leaves (playersOk_windowZeroed hp) (heldByCalls_windowZeroed he)).getPos_self]
    have hr : resetRecord p (closingRecord (windowZeroed p s) p) =
        { positionAtReset p with tone := stoppedTone (getPos s p).tone, sliceDue := (getPos s p).sliceDue } := by
      unfold closingRecord endedIfCalled
      rw [getPos_windowZeroed]
      split
      · rfl
      · rename_i hc
        have hn : (getPos s p).net = idlePlayer := by
          have hcur := hp.2.2.1 (by simpa using hc)
          obtain ⟨h1, h2⟩ := hp.1.1 hcur
          cases hx : (getPos s p).net
          simp_all [idlePlayer]
        simp only [resetRecord, closedRecord, hn]
        rfl
    rwa [← hr]

/-- What a RESET of scope POSITION reports (R20, R97). -/
theorem resetPosition_reports (hp : PlayersOk (getPos s p)) (he : HeldByCalls s p)
    (ht : (getPos s p).call = .vacant → (getPos s p).tone.running = false) :
    TornDown (resetPosition p s) p (getPos s p) (endedIfCalled (windowZeroed p s) p).canceller (heldFields s p) := by
  by_cases hv : (getPos s p).call = .vacant
  · obtain ⟨hn, ha⟩ := idle_of_vacant hp hv
    refine ⟨clearedWaits_idle (by rw [hn]; rfl), clearedWaits_idle (by rw [ha]; rfl), fun h => ?_, fun f hf => ?_⟩
    · rw [ht hv] at h; cases h
    · rw [he (by rw [hv]; rfl)] at hf; cases hf
  · have h := closePosition_reports (playersOk_windowZeroed hp) (heldByCalls_windowZeroed he)
    rw [heldFields_windowZeroed, getPos_windowZeroed] at h
    rw [resetPosition_closes hv]
    exact TornDown.mono h fun b => waiting_putPos b _ p _

end

/-- An engine that is in order holds nothing for a position without a call (R85). -/
theorem heldByCalls_of_engineOk {s : State} (h : EngineOk s) (p : PosIx) : HeldByCalls s p := by
  obtain ⟨-, -, -, hq, hf⟩ := h
  intro hc
  have hs : searchable s p = false := by simp [searchable, hc]
  rw [heldFields_none_iff]
  refine ⟨fun f hff e => ?_, fun x hx e => ?_⟩
  · have := (hf f hff).2.1
    rw [e, hs] at this
    cases this
  · have := hq x.position (List.mem_map_of_mem hx)
    rw [e, hs] at this
    cases this

theorem running_of_vacant {r : Position} (h : ToneOk r) (hv : r.call = .vacant) : r.tone.running = false := by
  obtain ⟨-, -, -, -, -, -, -, -, -, -, hr, -⟩ := h
  by_contra hne
  exact hr (by simpa using hne) hv

/-- A RESET of scope POSITION by its SRC. -/
theorem exec_resetPosition_awake {s : State} (h : Awake s) (p : PosIx) (tag erase : Byte) (he : erase.toNat ≤ 1) :
    exec (.resetPosition (sourceByte p) tag erase) s =
      .next (sendReply ⟨0x81, sourceByte p, tag, .ok, []⟩ (resetPosition p s)) := by
  rw [exec_resetPosition h.1]
  simp [perform, resetCommand, Nat.not_lt.2 he, resetPositionCommand, onPosition_awake h.2]

/-- Settles O28: the reset is a close with the window start at 0, and the default record. -/
theorem positionResetRestoresThePosition : Obligations.PositionResetRestoresThePosition := by
  unfold Obligations.PositionResetRestoresThePosition
  refine ⟨fun s p tag erase h he hp ht hen => ?_, fun s src tag erase h => ⟨fun h1 => ?_, fun h1 h2 => ?_, fun h1 h2 h3 => ?_⟩⟩
  · have hheld := heldByCalls_of_engineOk hen p
    have hl := resetPosition_leaves hp hheld (running_of_vacant ht)
    obtain ⟨hn, ha, htone, hcan⟩ := resetPosition_reports hp hheld (running_of_vacant ht)
    refine ⟨resetPosition p s, exec_resetPosition_awake h p tag erase he, ?_, searchCondition_cancelled hl.engine, hl.2, hn.report,
      ha.report, htone.report, fun f hf => ?_⟩
    · rw [getPos_reset]; exact hl.1
    · obtain ⟨n, hm⟩ := hcan.report f hf
      refine ⟨n, ?_⟩
      have hc : callPresent (getPos s p).call = true := by
        by_contra hc
        rw [hheld (by simpa using hc)] at hf
        cases hf
      have hcc : (endedIfCalled (windowZeroed p s) p).canceller =
          endCallCanceller { (getPos s p).canceller with window := 0 } := by
        rw [endedIfCalled, getPos_windowZeroed, if_pos hc]; rfl
      rw [hcc] at hm
      unfold endCallCanceller at hm
      dsimp only at hm
      split at hm
      · rename_i hon; simpa [hon, zeroedCanceller, zeroCounters] using hm
      · rename_i hon; simpa [hon] using hm
  · rw [exec_resetPosition h]
    simp [perform, resetCommand, h1]
  · rw [exec_resetPosition h]
    simp [perform, resetCommand, Nat.not_lt.2 h1, resetPositionCommand, onPosition, Nat.not_lt.2 h2]
  · rw [exec_resetPosition h]
    simp [perform, resetCommand, Nat.not_lt.2 h1, resetPositionCommand, onPosition, h2, h3]

end Sys2Proof.Machine

/-! # The commands of calls (R5 to R11) and STOP (R136) -/

namespace Sys2Proof.Machine

/-! ## CALL-CLEAR and POS-CLOSE -/

section
variable {s : State} {p : PosIx}

theorem droppedEngine_queue (e : Engine) (p : PosIx) :
    (droppedEngine e p).queue = e.queue.filter fun x => decide (x.position ≠ p) := by
  simp only [droppedEngine]
  congr 1
  funext x
  simp [bne, beq_eq_decide]

/-- A queue without a position's entries is not filtered. -/
theorem filter_others {q : List SearchEntry} (h : ∀ x ∈ q, x.position ≠ p) : (q.filter fun x => decide (x.position ≠ p)) = q :=
  List.filter_eq_self.2 fun x hx => by simpa using h x hx

/-- A cancellation of what only waits leaves the others in their order (R96). -/
theorem cancelledEngine_queued (he : EngineOk s) (hf : ∀ f, s.engine.inFlight = some f → f.entry.position ≠ p) :
    cancelledEngine s p = { s.engine with queue := s.engine.queue.filter fun x => decide (x.position ≠ p) } := by
  obtain ⟨-, hidle, -⟩ := he
  have hn : (s.engine.inFlight.filter fun f => f.entry.position == p) = none := (inFlightFor_none_iff s p).2 hf
  have hd : droppedEngine s.engine p =
      { s.engine with queue := s.engine.queue.filter fun x => decide (x.position ≠ p) } := by
    have hq := droppedEngine_queue s.engine p
    simp only [droppedEngine, hn, Option.isSome_none, Bool.false_eq_true, if_false] at hq ⊢
    rw [hq]
  rw [cancelledEngine_eq]
  split
  · rw [hd]
    unfold headStarted
    cases hi : s.engine.inFlight with
    | some f => rfl
    | none => simp [(hidle hi).2]
  · rename_i hs
    have hq := ((heldFields_none_iff s p).1 (by simpa using hs)).2
    rw [filter_others hq]

/-- A cancellation of the search in flight leaves an engine whose head entry starts (R89, R96). -/
theorem cancelledEngine_inFlight {f : InFlight} (hf : s.engine.inFlight = some f) (hp : f.entry.position = p) :
    cancelledEngine s p = headStarted (fun q => (getPos s q).canceller.window)
      { s.engine with
        inFlight := none, followUp := none, queue := s.engine.queue.filter fun x => decide (x.position ≠ p) } := by
  have hi : (s.engine.inFlight.filter fun f => f.entry.position == p) = some f := by simp [hf, Option.filter, hp]
  have hs : (heldFields s p).isSome = true := by simp [heldFields, inFlightFor, hi]
  rw [cancelledEngine_eq, if_pos hs]
  congr 1
  have hq := droppedEngine_queue s.engine p
  simp only [droppedEngine, hi, Option.isSome_some, if_true] at hq ⊢
  rw [hq]

theorem exec_callClear_awake (h : Awake s) (p : PosIx) (tag : Byte) :
    exec (.callClear (sourceByte p) tag) s =
      .next (answered 0x95 (sourceByte p) tag
        (if callPresent (getPos s p).call then taken (clearCall p s) else refuse s .badState)) := by
  rw [exec_callClear h.1, perform, callClearCommand, onPosition_awake h.2]

theorem exec_posClose_awake (h : Awake s) (p : PosIx) (tag : Byte) :
    exec (.posClose (sourceByte p) tag) s = .next (answered 0x91 (sourceByte p) tag (taken (closeIfOpen p s))) := by
  rw [exec_posClose h.1, perform, posCloseCommand, onPosition_awake h.2]

end

/-- Settles O36. -/
theorem callClearAndPosCloseTearDown : Obligations.CallClearAndPosCloseTearDown := by
  unfold Obligations.CallClearAndPosCloseTearDown
  intro s p tag h hp ht he
  dsimp only
  have hheld := heldByCalls_of_engineOk he p
  refine ⟨cancelledEngine_queued he, fun f hf hfp => ⟨fun hq => ?_, fun x rest hq => ?_⟩, fun hc => ?_, fun hc => ?_, fun hv => ?_,
    fun hv => ?_⟩
  · rw [cancelledEngine_inFlight hf hfp, hq]; rfl
  · rw [cancelledEngine_inFlight hf hfp, hq]
    obtain ⟨q, kind, origin, escalate⟩ := x
    cases kind <;> rfl
  · have hl := clearCall_leaves hp
    obtain ⟨hn, ha⟩ := clearCall_cleared hp
    refine ⟨clearCall p s, by rw [exec_callClear_awake h, if_pos hc, answered_taken], ?_, searchCondition_cancelled hl.engine,
      (clearCall_cancelled hp).report, ⟨hn.report, ha.report⟩, fun hr => (clearCall_tone hp hr).report, hl.2⟩
    exact hl.1
  · rw [exec_callClear_awake h, if_neg (by simp [hc]), answered_refuse]
  · have hl := closePosition_leaves hp hheld
    obtain ⟨hn, ha, htone, hcan⟩ := closePosition_reports hp hheld
    refine ⟨closePosition p s, by rw [exec_posClose_awake h, closeIfOpen, if_neg hv, answered_taken], ?_, searchCondition_cancelled hl.engine, ?_,
      ⟨hn.report, ha.report⟩, htone.report, hl.2⟩
    · refine hl.1.trans (congrArg (fun r => bare (putEngine (putPos s p r) (cancelledEngine s p))) ?_)
      unfold closingRecord endedIfCalled
      split <;> rfl
    · intro f hf
      obtain ⟨n, hm⟩ := hcan.report f hf
      have hc : callPresent (getPos s p).call = true := by
        by_contra hc
        rw [hheld (by simpa using hc)] at hf
        cases hf
      rw [endedIfCalled, if_pos hc] at hm
      exact ⟨n, hm⟩
  · rw [exec_posClose_awake h, closeIfOpen, if_pos hv, answered_taken]

/-! ## The items of a command (R115, R124, R125) -/

section
variable {s : State} {i : ItemSpec}

theorem clipByte_toNat (c : ClipIx) : (clipByte c).toNat = c.val := by
  have := c.isLt
  simp [clipByte]; omega

theorem streamByte_toNat (k : StreamIx) : (streamByte k).toNat = k.val := by
  have := k.isLt
  simp [streamByte]; omega

/-- An item whose level is in range names the source that its bytes give. -/
theorem itemSource_names {src : Source} (hl : i.level.toNat ≤ 63) (hn : Names i src) : itemSource (itemFields i) = some src := by
  cases src with
  | clip c =>
    obtain ⟨hk, hid⟩ := hn
    have := c.isLt
    simp [itemSource, itemFields, Nat.not_lt.2 hl, hk, hid, clipByte_toNat]
  | stream k =>
    obtain ⟨hk, hid⟩ := hn
    have := k.isLt
    simp [itemSource, itemFields, Nat.not_lt.2 hl, hk, hid, streamByte_toNat]

/-- An item with a level, a source kind or an id out of range names no source. -/
theorem itemSource_bad
    (h : 63 < i.level.toNat ∨ 1 < i.sourceKind.toNat ∨ (i.sourceKind = 0 ∧ 64 ≤ i.sourceId.toNat) ∨
      (i.sourceKind = 1 ∧ 4 ≤ i.sourceId.toNat)) : itemSource (itemFields i) = none := by
  unfold itemSource itemFields
  rcases h with h | h | ⟨hk, h⟩ | ⟨hk, h⟩
  · simp [h]
  · have h0 : i.sourceKind.toNat ≠ 0 := by omega
    have h1 : i.sourceKind.toNat ≠ 1 := by omega
    simp [h0, h1]
  · simp [hk, Nat.not_lt.2 h]
  · simp [hk, Nat.not_lt.2 h]

theorem itemOf_itemFields (i : ItemSpec) (src : Source) : itemOf (itemFields i) src = heldItem i src := by cases src <;> rfl

/-- A playable item is taken as it is held. -/
theorem checkItem_canPlay {src : Source} (h : CanPlay s i src) : checkItem s (itemFields i) = .ok (heldItem i src) := by
  obtain ⟨hl, hn, hp⟩ := h
  have hr : sourceRefusal s (itemFields i).startOffset src = none := by
    cases src with
    | clip c =>
      obtain ⟨hs, ho⟩ := hp
      have h0 : (getClip s c).length ≠ 0 := by omega
      simp [sourceRefusal, itemFields, hs, h0, Nat.not_le.2 ho]
    | stream k =>
      have hc : (getStream s k).state ≠ .closed := hp
      simp [sourceRefusal, hc]
  rw [checkItem, itemSource_names hl hn]
  simp only [hr, itemOf_itemFields]

/-- An item that is not playable is refused with its code. -/
theorem checkItem_refusedWith {code : Result} (h : RefusedWith s i code) : checkItem s (itemFields i) = .error code := by
  rcases h with ⟨rfl, h⟩ | ⟨hl, ⟨k, hn, hc, rfl⟩ | ⟨c, hn, h⟩⟩
  · rw [checkItem, itemSource_bad h]
  · rw [checkItem, itemSource_names hl hn]
    simp [sourceRefusal, hc]
  · rw [checkItem, itemSource_names hl hn]
    have ho : (itemFields i).startOffset = i.startOffset.toNat := rfl
    rcases h with ⟨hs | hs, rfl⟩ | ⟨hs, rfl⟩ | ⟨hs, rfl⟩ | ⟨hs, h0, rfl⟩ | ⟨hs, h0, h1, rfl⟩
    · simp [sourceRefusal, hs]
    · simp [sourceRefusal, hs]
    · simp [sourceRefusal, hs]
    · simp [sourceRefusal, hs]
    · simp [sourceRefusal, hs, h0]
    · simp [sourceRefusal, hs, ho, h1, Nat.pos_iff_ne_zero.1 h0]

end

/-! ## Items replaced -/

/-- The reports of mode ONLY on a player wait (R130, R139). -/
def ReplacedWaits (u : State) (p : PosIx) (w : PlayerId) (pl : Player) (new : Item) : Prop :=
  ∀ old, pl.current = some old → ∃ n, min (1 + pl.stack.length + pl.queue.length) 255 ≤ n ∧
    waiting (playerKey p w) u = some (.player p w (itemReport .itemEnd .replaced old old.readOffset ⟨some new, [], []⟩), n)

theorem replacedWaits_playOnlyItem (p : PosIx) (w : PlayerId) (it : Item) (s : State) :
    ReplacedWaits (playOnlyItem p w it s) p w (getPlayer s p w) it := fun _ h => waiting_playOnlyItem p w it s h

theorem ReplacedWaits.mono {t u : State} {p : PosIx} {w : PlayerId} {pl : Player} {new : Item} (h : ReplacedWaits t p w pl new)
    (hw : waiting (playerKey p w) u = waiting (playerKey p w) t) : ReplacedWaits u p w pl new :=
  fun old ho => let ⟨n, hn, e⟩ := h old ho; ⟨n, hn, hw.trans e⟩

theorem ReplacedWaits.report {u : State} {p : PosIx} {w : PlayerId} {pl : Player} {new : Item} (h : ReplacedWaits u p w pl new) :
    ReplacedReport u p w pl new := fun old ho => let ⟨_, hn, e⟩ := h old ho; itemLeft_of_waiting p w .replaced e hn

/-! ## CALL-CONNECT and CALL-HOLD -/

section
variable {s : State}

theorem exec_callConnect_awake (h : Awake s) (p : PosIx) (tag : Byte) :
    exec (.callConnect (sourceByte p) tag) s =
      .next (answered 0x93 (sourceByte p) tag (match (getPos s p).call with
        | .announce => taken (clearPlayer p .net .cleared (clearPlayer p .agent .cleared (setCall p .connected s)))
        | .held => taken (clearPlayer p .net .cleared (setCall p .connected s))
        | _ => refuse s .badState)) := by
  rw [exec_callConnect h.1, perform, callConnectCommand, onPosition_awake h.2]
  cases (getPos s p).call <;> rfl

theorem exec_callHold_awake (h : Awake s) (p : PosIx) (tag : Byte) (i : ItemSpec) :
    exec (.callHold (sourceByte p) tag i) s =
      .next (answered 0x94 (sourceByte p) tag
        (if mayHold (getPos s p).call = false then refuse s .badState
          else match checkItem s (itemFields i) with
            | .error r => refuse s r
            | .ok it => taken (playOnlyItem p .net it (setCall p .held s)))) := by
  rw [exec_callHold h.1, perform, callHoldCommand, onPosition_awake h.2, itemAt_itemBytes] <;> rfl

end

/-- Settles O35. -/
theorem callConnectAndHold : Obligations.CallConnectAndHold := by
  unfold Obligations.CallConnectAndHold
  intro s p tag h hp
  dsimp only
  simp only [exec_callConnect_awake h, exec_callHold_awake h]
  have hhold : ∀ {c}, c = CallState.connected ∨ c = .held → mayHold c = true := by rintro _ (rfl | rfl) <;> rfl
  refine ⟨fun hc => ?_, fun hc => ?_, fun hc => ?_, fun i => ⟨fun hc => ?_, fun code hc hr => ?_, fun src hc hr => ?_⟩⟩
  · have hl := (agentCleared_leaves hp .connected).clearPlayer .net .cleared hp.1.1
    have hn := clearedWaits_clearPlayer (p := p) .net (clearPlayer p .agent .cleared (setCall p .connected s))
    have ha := clearedWaits_clearPlayer (p := p) .agent (setCall p .connected s)
    rw [(agentCleared_leaves hp .connected).getPlayer_self] at hn
    rw [((leaves_self s p).setCall .connected).getPlayer_self] at ha
    refine ⟨_, ?_, hl.1, (ha.mono ((raisesOnly_clearPlayer p .net .cleared _).2 _ (by simp))).report, hn.report, hl.2⟩
    simp only [hc, answered_taken]
  · have hl := ((leaves_self s p).setCall .connected).clearPlayer .net .cleared hp.1.1
    have hn := clearedWaits_clearPlayer (p := p) .net (setCall p .connected s)
    rw [((leaves_self s p).setCall .connected).getPlayer_self] at hn
    refine ⟨_, ?_, hl.1, hn.report, hl.2⟩
    simp only [hc, answered_taken]
  · rcases hc with hc | hc | hc <;> simp only [hc, answered_refuse]
  · have hm : mayHold (getPos s p).call = false := by rcases hc with hc | hc | hc <;> rw [hc] <;> rfl
    rw [if_pos hm, answered_refuse]
  · rw [if_neg (by simp [hhold hc]), checkItem_refusedWith hr]
    simp only [answered_refuse]
  · have hl := ((leaves_self s p).setCall .held).playOnlyItem .net (heldItem i src)
    have hn := replacedWaits_playOnlyItem p .net (heldItem i src) (setCall p .held s)
    rw [((leaves_self s p).setCall .held).getPlayer_self] at hn
    refine ⟨_, ?_, hl.1, hn.report, hl.2⟩
    rw [if_neg (by simp [hhold hc]), checkItem_canPlay hr]
    simp only [answered_taken]

end Sys2Proof.Machine

/-! # CALL-OFFER (R5, R6) -/

namespace Sys2Proof.Machine

/-- The record of a position that takes an offer. -/
def offeredRecord (w n : Option Item) (hint : Option Nat) (r : Position) : Position :=
  { r with
    call := if w.isSome then .announce else .connected
    announceTag := match w with | none => r.announceTag | some it => it.tag
    agent := match w with | none => r.agent | some it => ⟨some it, [], []⟩
    net := match n with | none => r.net | some it => ⟨some it, [], []⟩
    canceller := prepareCanceller hint r.canceller }

section
variable {s u : State} {p : PosIx} {r : Position} {e : Engine}

theorem Leaves.startWhisper (h : Leaves s p r e u) (w : Option Item) :
    Leaves s p
      { r with
        announceTag := match w with | none => r.announceTag | some it => it.tag
        agent := match w with | none => r.agent | some it => ⟨some it, [], []⟩ } e (startWhisper p w u) := by
  cases w with
  | none => exact h
  | some it =>
    rw [Machine.startWhisper, h.getPos_self]
    exact (h.putPos { r with announceTag := it.tag }).playOnlyItem .agent it

theorem Leaves.startNetItem (h : Leaves s p r e u) (n : Option Item) :
    Leaves s p { r with net := match n with | none => r.net | some it => ⟨some it, [], []⟩ } e (startNetItem p n u) := by
  cases n with
  | none => exact h
  | some it => exact h.playOnlyItem .net it

/-- A request leaves the engine that it would leave of any state with this engine and this record. -/
theorem Leaves.placeRequest (h : Leaves s p r e u) (q : SearchRequest) :
    Leaves s p r (Machine.placeRequest p q (putEngine (Machine.putPos s p r) e)).1.engine (Machine.placeRequest p q u).1 := by
  have he : (Machine.placeRequest p q u).1.engine = (Machine.placeRequest p q (putEngine (Machine.putPos s p r) e)).1.engine :=
    placeRequest_engine p q (by rw [h.engine]; rfl) (by rw [h.getPos_self]; simp)
  rw [← he, placeRequest_eq p q u]
  exact ⟨bare_putEngine h.1 _, h.2⟩

/-- The engine that an offer leaves (R6). -/
def offeredEngine (p : PosIx) (hint : Option Nat) (r : Position) (s : State) : Engine :=
  if (getPos s p).canceller.mode = .on ∧ (getPos s p).params.ecAutoSearch = 1 then
    (placeRequest p (offerRequest hint) (putPos s p r)).1.engine
  else s.engine

theorem Leaves.prepareCall (h : Leaves s p r s.engine u) (hint : Option Nat) (hm : r.canceller.mode = (getPos s p).canceller.mode)
    (ht : r.params = (getPos s p).params) :
    Leaves s p { r with canceller := prepareCanceller hint r.canceller }
      (offeredEngine p hint { r with canceller := prepareCanceller hint r.canceller } s) (prepareCall p hint u) := by
  have hc := h.putCanceller (prepareCanceller hint r.canceller)
  unfold Machine.prepareCall offeredEngine
  by_cases hq : (getPos s p).canceller.mode = .on ∧ (getPos s p).params.ecAutoSearch = 1
  · rw [if_pos hq, if_pos (by rw [h.getPos_self, hm, ht]; exact hq), h.getPos_self]
    exact hc.placeRequest _
  · rw [if_neg hq, if_neg (by rw [h.getPos_self, hm, ht]; exact hq), h.getPos_self]
    exact hc

/-- What a taken offer leaves (R5, R6). -/
theorem takeOffer_leaves (s : State) (p : PosIx) (w n : Option Item) (hint : Option Nat) :
    Leaves s p (offeredRecord w n hint (getPos s p)) (offeredEngine p hint (offeredRecord w n hint (getPos s p)) s)
      (takeOffer p w n hint s) :=
  ((((leaves_self s p).setCall _).startWhisper w).startNetItem n).prepareCall hint rfl rfl

theorem waiting_prepareCall (b : ReportBody) (p : PosIx) (hint : Option Nat) (s : State) :
    waiting b (prepareCall p hint s) = waiting b s := by
  unfold prepareCall
  dsimp only
  split
  · rw [placeRequest_eq, waiting_putEngine, putCanceller, waiting_putPos]
  · rw [putCanceller, waiting_putPos]

theorem raisesOnly_startNetItem (p : PosIx) (n : Option Item) (s : State) :
    RaisesOnly (playerKey p .net) s (startNetItem p n s) := by
  cases n with
  | none => exact .rfl
  | some it => exact raisesOnly_playOnlyItem p .net it s

/-- What a taken offer reports of a replaced AGENT item. -/
theorem takeOffer_agent (s : State) (p : PosIx) (it : Item) (n : Option Item) (hint : Option Nat) :
    ReplacedWaits (takeOffer p (some it) n hint s) p .agent (getPos s p).agent it := by
  have hl := (leaves_self s p).setCall .announce
  have h := replacedWaits_playOnlyItem p .agent it
    (putPos (setCall p .announce s) p { getPos (setCall p .announce s) p with announceTag := it.tag })
  rw [((hl.putPos { getPos (setCall p .announce s) p with announceTag := it.tag }).getPlayer_self), hl.getPos_self] at h
  refine h.mono ?_
  rw [takeOffer, waiting_prepareCall, (raisesOnly_startNetItem p n _).2 _ (by simp)]
  simp only [startWhisper, hl.getPos_self, Option.isSome_some, if_true]

/-- What a taken offer reports of a replaced NET item. -/
theorem takeOffer_net (s : State) (p : PosIx) (w : Option Item) (it : Item) (hint : Option Nat) :
    ReplacedWaits (takeOffer p w (some it) hint s) p .net (getPos s p).net it := by
  have hl := ((leaves_self s p).setCall (if w.isSome then .announce else .connected)).startWhisper w
  have h := replacedWaits_playOnlyItem p .net it (startWhisper p w (setCall p (if w.isSome then .announce else .connected) s))
  rw [hl.getPlayer_self] at h
  exact h.mono (waiting_prepareCall _ p hint _)

end

/-! ## The checks of an offer -/

theorem checkOptional_canPlay {s : State} {w : Option (ItemSpec × Source)} (h : ∀ x ∈ w, CanPlay s x.1 x.2) :
    checkOptional s ((w.map (·.1)).map itemFields) = .ok (w.map fun x => heldItem x.1 x.2) := by
  cases w with
  | none => rfl
  | some x => simp [checkOptional, checkItem_canPlay (h x rfl)]

/-- CALL-OFFER by its SRC. -/
theorem exec_callOffer_awake {s : State} (h : Awake s) (p : PosIx) (tag : Byte) (a b : Option ItemSpec) (hint : Option (BitVec 16)) :
    exec (.callOffer (sourceByte p) tag a b hint) s =
      .next (answered 0x92 (sourceByte p) tag
        (if (getPos s p).call ≠ .ready then refuse s .badState
          else match checkOptional s (a.map itemFields) with
            | .error r => refuse s r
            | .ok w => match checkOptional s (b.map itemFields) with
              | .error r => refuse s r
              | .ok n =>
                let t := takeOffer p w n (hint.map BitVec.toNat) s
                (t, okOrClamped (hintClamped (hint.map BitVec.toNat) (getPos s p).canceller.mode (getPos t p).canceller.window),
                  [.num 2 (getPos t p).canceller.window]))) := by
  rw [exec_callOffer h.1, perform, callOfferCommand, onPosition_awake h.2, offerAt_offerBytes] <;> rfl

/-- The window start that an offer gives (R6). -/
theorem offeredWindow (w n : Option Item) (hint : Option Nat) (r : Position) :
    (offeredRecord w n hint r).canceller.window =
      if r.canceller.mode = .on then windowStart (hint.getD 0) else r.canceller.window := by
  simp only [offeredRecord, prepareCanceller]
  split <;> rfl

/-- CLAMPED says that a hint was not stored as given (R5). -/
theorem okOrClamped_hintClamped (hint : Option (BitVec 16)) (mode : CancellerMode) (window : Nat) :
    okOrClamped (hintClamped (hint.map BitVec.toNat) mode
        (if mode = .on then windowStart ((hint.map BitVec.toNat).getD 0) else window)) =
      if mode = .on ∧ ∃ h ∈ hint, h.toNat ≠ min ((hint.map BitVec.toNat).getD 0 / 16 * 16) 1792 then .clamped else .ok := by
  by_cases hm : mode = .on
  · cases hint with
    | none => simp [hintClamped, okOrClamped]
    | some h =>
      simp only [hm, hintClamped, windowStart, Option.map_some, Option.any_some, if_true]
      generalize min (h.toNat / 16 * 16) 1792 = d
      by_cases hd : h.toNat = d <;> simp [okOrClamped, hd]
  · simp [hintClamped, okOrClamped, hm]

/-- Settles O34. -/
theorem callOfferPresentsACall : Obligations.CallOfferPresentsACall := by
  unfold Obligations.CallOfferPresentsACall
  intro s p tag w n hint h
  refine ⟨fun hc => ?_, fun hc hw hn => ?_, fun hc a b i code hr => ?_⟩
  · rw [exec_callOffer_awake h, if_pos hc, answered_refuse]
  · dsimp only
    have hl := takeOffer_leaves s p (w.map fun x => heldItem x.1 x.2) (n.map fun x => heldItem x.1 x.2) (hint.map BitVec.toNat)
    generalize hu : takeOffer p (w.map fun x => heldItem x.1 x.2) (n.map fun x => heldItem x.1 x.2) (hint.map BitVec.toNat) s = u at *
    have hwin := offeredWindow (w.map fun x => heldItem x.1 x.2) (n.map fun x => heldItem x.1 x.2) (hint.map BitVec.toNat) (getPos s p)
    refine ⟨u, ?_, ?_, ?_, ?_, hl.2⟩
    · rw [exec_callOffer_awake h, if_neg (by simp [hc]), checkOptional_canPlay hw, checkOptional_canPlay hn]
      dsimp only
      rw [hu, hl.getPos_self, hwin, answered, okOrClamped_hintClamped]
      rw [apply_ite Canceller.window]
      rfl
    · refine hl.1.trans ?_
      -- the three optional parts are present or absent alike on both sides
      cases w <;> cases n <;> cases hint <;> rfl
    · intro x hx
      cases hx
      rw [← hu]
      exact (takeOffer_agent s p _ _ _).report
    · intro x hx
      cases hx
      rw [← hu]
      exact (takeOffer_net s p _ _ _).report
  · rw [exec_callOffer_awake h, if_neg (by simp [hc])]
    refine ⟨?_, fun ha hb => ?_⟩
    · rintro rfl
      simp only [Option.map_some, checkOptional, checkItem_refusedWith hr, answered_refuse]
    · subst hb
      obtain ⟨w, hw⟩ : ∃ w, checkOptional s (a.map itemFields) = .ok w := by
        cases a with
        | none => exact ⟨_, rfl⟩
        | some x =>
          obtain ⟨src, hx⟩ := ha x rfl
          exact ⟨some (heldItem x src), by simp only [Option.map_some, checkOptional, checkItem_canPlay hx]⟩
      rw [hw]
      simp only [Option.map_some, checkOptional, checkItem_refusedWith hr, answered_refuse]

end Sys2Proof.Machine

/-! # Whisper done (R7) and STOP (R136) -/

namespace Sys2Proof.Machine

/-! ## Whisper done -/

/-- The state of a whisper done before its CALL report (R7). -/
def whisperCleared (p : PosIx) (s : State) : State :=
  clearPlayer p .net .cleared (putPos s p { getPos s p with call := .connected })

theorem whisperDone_eq (p : PosIx) (s : State) :
    whisperDone p s = raise (callReport p (whisperCleared p s)) (whisperCleared p s) := rfl

section
variable {s u : State} {p : PosIx} {r : Position} {e : Engine}

theorem Leaves.whisperCleared (h : Leaves s p r e u) (hn : r.net.current = none → r.net.stack = [] ∧ r.net.queue = []) :
    Leaves s p { r with call := .connected, net := idlePlayer } e (whisperCleared p u) := by
  rw [Machine.whisperCleared, h.getPos_self]
  exact (h.putPos { r with call := .connected }).clearPlayer .net .cleared hn

theorem Leaves.whisperDone (h : Leaves s p r e u) (hn : r.net.current = none → r.net.stack = [] ∧ r.net.queue = []) :
    Leaves s p { r with call := .connected, net := idlePlayer } e (whisperDone p u) := (h.whisperCleared hn).raise _

/-- A whisper done reports of the NET player and of the call alone. -/
theorem waiting_whisperDone {b : ReportBody} (hn : sameReport b (playerKey p .net) = false) (hc : sameReport b (callKey p) = false) :
    waiting b (whisperDone p u) = waiting b u := by
  rw [whisperDone_eq, (raisesOnly_raise (k := callKey p) (b := callReport p _) (sameReport_callKey ..)).2 b hc, whisperCleared,
    (raisesOnly_clearPlayer p .net .cleared _).2 b hn, waiting_putPos]

/-- The report of a whisper done (R14). -/
theorem whisperReport_whisperDone (h : Leaves s p r e u) (hn : r.net.current = none → r.net.stack = [] ∧ r.net.queue = []) :
    WhisperReport (whisperDone p u) p r := by
  obtain ⟨n, hm⟩ := raise_mem (callReport p (whisperCleared p u)) (whisperCleared p u)
  refine ⟨n, ?_⟩
  rw [← whisperDone_eq, callReport, (h.whisperCleared hn).getPos_self] at hm
  exact hm

/-- The NET player's reports of a whisper done (R7, R137). -/
theorem clearedWaits_whisperDone (p : PosIx) (u : State) : ClearedWaits (whisperDone p u) p .net (getPos u p).net := by
  have h := clearedWaits_clearPlayer (p := p) .net (putPos u p { getPos u p with call := .connected })
  have hg : getPlayer (putPos u p { getPos u p with call := .connected }) p .net = (getPos u p).net := by
    simp [getPlayer, playerOf]
  rw [hg] at h
  exact h.mono ((raisesOnly_raise (k := callKey p) (b := callReport p _) (sameReport_callKey ..)).2 _ (by simp))

end

theorem whisperCheck_pos {p : PosIx} {was : Bool} {s : State} (h1 : was = true) (h2 : (getPos s p).call = .announce)
    (h3 : (getPos s p).agent.current = none) : whisperCheck p was s = whisperDone p s := if_pos ⟨h1, h2, h3⟩

theorem whisperCheck_neg {p : PosIx} {was : Bool} {s : State}
    (h : ¬(was = true ∧ (getPos s p).call = .announce ∧ (getPos s p).agent.current = none)) : whisperCheck p was s = s := if_neg h

/-! ## STOP (R136) -/

theorem playerByte_code (w : PlayerId) : playerOfCode (playerByte w).toNat = some w := by cases w <;> rfl

theorem playerOfCode_none {n : Nat} (h : 1 < n) : playerOfCode n = none := by
  unfold playerOfCode
  split
  · omega
  · omega
  · rfl

/-- What a STOP does to its player: the current item, or every item, leaves. -/
def stopPlayer (p : PosIx) (w : PlayerId) (all : Bool) (s : State) : State :=
  if all then clearPlayer p w .stopped s else endCurrent p w .stopped s

/-- The player that a STOP leaves (R133, R136). -/
def stoppedPlayer (all : Bool) (pl : Player) : Player :=
  if all ∨ pl.current = none then ⟨none, [], []⟩ else succession pl

/-- STOP by its SRC, with a player and a scope in range. -/
theorem exec_stop_awake {s : State} (h : Awake s) (p : PosIx) (w : PlayerId) (tag : Byte) (all : Bool) :
    exec ((if all then Instr.stopAll else Instr.stopCurrent) (sourceByte p) tag (playerByte w)) s =
      .next (answered 0xA1 (sourceByte p) tag
        (withWhisper p (stopPlayer p w all) s, .ok, stopFields (getPlayer (withWhisper p (stopPlayer p w all) s) p w))) := by
  cases all
  · rw [if_neg (by simp), exec_stopCurrent h.1, perform, stopCommand, onPosition_awake h.2, byteAt_cons_zero, playerByte_code]
    rfl
  · rw [if_pos rfl, exec_stopAll h.1, perform, stopCommand, onPosition_awake h.2, byteAt_cons_zero, playerByte_code]
    rfl

/-- STOP with a player code or a scope out of range. -/
theorem stopCommand_bad {s : State} (hs : s.ports.standby = false) (p : PosIx) (player scope : Byte)
    (h : 1 < player.toNat ∨ 1 < scope.toNat) : stopCommand (sourceByte p).toNat [player, scope] s = refuse s .badValue := by
  rw [stopCommand, onPosition_awake hs, byteAt_cons_zero, byteAt_cons_succ, byteAt_cons_zero]
  rcases h with h | h
  · rw [playerOfCode_none h]
  · split
    · omega
    · omega
    · rfl

section
variable {s : State} {p : PosIx} {w : PlayerId}

/-- What a STOP leaves before a whisper done. -/
theorem stopPlayer_leaves (hp : PlayersOk (getPos s p)) (all : Bool) :
    Leaves s p (withPlayer (getPos s p) w (stoppedPlayer all (getPlayer s p w))) s.engine (stopPlayer p w all s) := by
  have hi : (getPlayer s p w).current = none → (getPlayer s p w).stack = [] ∧ (getPlayer s p w).queue = [] := by
    cases w
    · exact hp.1.1
    · exact hp.2.1.1
  cases all
  · have hd := (raisesOnly_endCurrent p w .stopped s).1
    refine (leaves_self s p).player ?_ hd
    show bare (endCurrent p w .stopped s) = _
    rw [bare_endCurrent]
    cases hc : (getPlayer s p w).current with
    | none =>
      obtain ⟨h1, h2⟩ := hi hc
      have hpl : getPlayer s p w = ⟨none, [], []⟩ := by cases hx : getPlayer s p w; simp_all
      have : stoppedPlayer false (getPlayer s p w) = getPlayer s p w := by rw [hpl]; rfl
      rw [this, putPlayer_getPlayer]
      rfl
    | some it => simp [stoppedPlayer, hc]
  · have h := (leaves_self s p).clearPlayer w .stopped hi
    have hnew : stoppedPlayer true (getPlayer s p w) = idlePlayer := by simp [stoppedPlayer, idlePlayer]
    rw [hnew]
    exact h

theorem raisesOnly_stopPlayer (p : PosIx) (w : PlayerId) (all : Bool) (s : State) :
    RaisesOnly (playerKey p w) s (stopPlayer p w all s) := by
  cases all
  · exact raisesOnly_endCurrent p w .stopped s
  · exact raisesOnly_clearPlayer p w .stopped s

/-- An IDLE player is left as it is. -/
theorem stopPlayer_idle (hp : PlayersOk (getPos s p)) (all : Bool) (hc : (getPlayer s p w).current = none) :
    stopPlayer p w all s = s := by
  cases all
  · exact endCurrent_idle p w .stopped s hc
  · refine clearPlayer_idle p w .stopped s ?_
    have hi : (getPlayer s p w).stack = [] ∧ (getPlayer s p w).queue = [] := by
      cases w
      · exact hp.1.1 hc
      · exact hp.2.1.1 hc
    cases hx : getPlayer s p w
    simp_all [idlePlayer]

/-- What waits after a STOP of a player that plays. -/
theorem waiting_stopPlayer (all : Bool) {old : Item} (hc : (getPlayer s p w).current = some old) :
    ∃ n, min (if all then 1 + (getPlayer s p w).stack.length + (getPlayer s p w).queue.length else 1) 255 ≤ n ∧
      waiting (playerKey p w) (stopPlayer p w all s) =
        some (.player p w (itemReport .itemEnd .stopped old old.readOffset (stoppedPlayer all (getPlayer s p w))), n) := by
  cases all
  · refine ⟨min (waitingCount (playerKey p w) s + 1) 255, ?_, ?_⟩
    · simp only [Bool.false_eq_true, if_false]
      omega
    · rw [stopPlayer, if_neg (by simp), waiting_endCurrent p w .stopped s hc]
      simp [stoppedPlayer, hc]
  · obtain ⟨n, hn, hw⟩ := waiting_clearPlayer p w .stopped s hc
    refine ⟨n, hn, ?_⟩
    rw [stopPlayer, if_pos rfl, hw]
    simp [stoppedPlayer, idlePlayer]

end

/-- Settles O43. -/
theorem stopEndsItemsAndWhispers : Obligations.StopEndsItemsAndWhispers := by
  unfold Obligations.StopEndsItemsAndWhispers
  refine ⟨fun s p tag player h => ⟨fun hp => ⟨?_, ?_⟩, fun scope hs => ?_⟩, fun s p w tag all h hp => ?_⟩
  · rw [exec_stopCurrent h.1, perform, stopCommand_bad h.2 _ _ _ (.inl hp), answered_refuse]
  · rw [exec_stopAll h.1, perform, stopCommand_bad h.2 _ _ _ (.inl hp), answered_refuse]
  · rw [exec_frameArrival h.1 .stop (by simp) rfl rfl]
    dsimp only [perform]
    rw [stopCommand_bad h.2 p player scope (.inr hs), answered_refuse]
    rfl
  · dsimp only
    have hl := stopPlayer_leaves (w := w) hp all
    have hnew : (if all = true ∨ (getPlayer s p w).current = none then (⟨none, [], []⟩ : Player)
      else succession (getPlayer s p w)) = stoppedPlayer all (getPlayer s p w) := rfl
    rw [hnew]
    have hr := raisesOnly_stopPlayer p w all s
    have hcall : (getPos (stopPlayer p w all s) p).call = (getPos s p).call := by rw [hl.getPos_self]; cases w <;> rfl
    by_cases hw : w = .agent ∧ (getPos s p).call = .announce ∧ (getPlayer s p w).current ≠ none ∧
        (stoppedPlayer all (getPlayer s p w)).current = none
    · obtain ⟨rfl, hann, hplay, hidle⟩ := hw
      have hpl : stoppedPlayer all (getPlayer s p .agent) = ⟨none, [], []⟩ := by
        revert hidle
        generalize getPlayer s p .agent = pl
        obtain ⟨c, stack, queue⟩ := pl
        unfold stoppedPlayer succession
        split
        · exact fun _ => rfl
        · cases queue <;> cases stack <;> simp
      have hwas : (getPos s p).agent.current.isSome = true := Option.isSome_iff_ne_none.2 hplay
      have hagent : (getPos (stopPlayer p .agent all s) p).agent.current = none := by rw [hl.getPos_self]; exact hidle
      have hdone : withWhisper p (stopPlayer p .agent all) s = whisperDone p (stopPlayer p .agent all s) :=
        whisperCheck_pos hwas (hcall.trans hann) hagent
      have hd := hl.whisperDone hp.1.1
      refine ⟨whisperDone p (stopPlayer p .agent all s), ?_, hd.2, fun hn => absurd ⟨rfl, hann, hplay, hidle⟩ hn, fun _ => ⟨?_, ?_, ?_, ?_⟩⟩
      · rw [exec_stop_awake h, hdone, hd.getPlayer_self, hpl]
        rfl
      · rw [hd.1, hpl]; rfl
      · have hrep := whisperReport_whisperDone hl hp.1.1
        exact hrep
      · have hc := clearedWaits_whisperDone p (stopPlayer p .agent all s)
        rw [hl.getPos_self] at hc
        exact hc.report
      · intro old ho
        obtain ⟨n, hn, hwait⟩ := waiting_stopPlayer all ho
        rw [hpl] at hwait
        exact itemLeft_of_waiting p .agent .stopped ((waiting_whisperDone (by simp) (by simp)).trans hwait) hn
    · have hno : withWhisper p (stopPlayer p w all) s = stopPlayer p w all s := by
        refine whisperCheck_neg fun ⟨h1, h2, h3⟩ => hw ?_
        rw [hcall] at h2
        rw [hl.getPos_self] at h3
        cases w with
        | net => exact absurd h1 (by simp [show (getPos s p).agent.current = none from h3])
        | agent => exact ⟨rfl, h2, Option.isSome_iff_ne_none.1 h1, h3⟩
      refine ⟨stopPlayer p w all s, ?_, hl.2, fun _ => ⟨hl.1, fun hc => by rw [stopPlayer_idle hp all hc], fun old ho => ?_⟩,
        fun hy => absurd hy hw⟩
      · rw [exec_stop_awake h, hno, hl.getPlayer_self, playerOf_withPlayer_self]
        rfl
      · obtain ⟨n, hn, hwait⟩ := waiting_stopPlayer all ho
        exact itemLeft_of_waiting p w .stopped hwait hn

end Sys2Proof.Machine

/-! # What the ports, the store and the search engine leave alone -/

namespace Sys2Proof.Machine

/-! ## The ports (chapter 10)

A state without its ports, its slice period and what the reports of a slip touch. -/

/-- A state without its ports, its slice period, its outbound queue with the read in progress, and the count of free values. -/
def portless (s : State) : State :=
  { s with ports := portsAtPowerOn, period := noPeriod, link := { s.link with outbound := [], reading := none }, draws := 0 }

section
variable {s t : State}

theorem positions_of_portless (h : portless t = portless s) : t.positions = s.positions := by
  have hf := congrArg State.positions h
  exact hf

theorem store_of_portless (h : portless t = portless s) : t.store = s.store := by
  have hf := congrArg State.store h
  exact hf

theorem streams_of_portless (h : portless t = portless s) : t.streams = s.streams := by
  have hf := congrArg State.streams h
  exact hf

end

section
variable (s : State)

@[simp] theorem portless_raise (b : ReportBody) : portless (raise b s) = portless s := by unfold raise; split <;> rfl
@[simp] theorem portless_raiseAll (bs : List ReportBody) : portless (raiseAll bs s) = portless s := by
  induction bs generalizing s with
  | nil => rfl
  | cons b rest ih => rw [raiseAll_cons, ih, portless_raise]
@[simp] theorem portless_putPorts (r : Ports) : portless (putPorts s r) = portless s := rfl
@[simp] theorem portless_putPeriod (r : Period) : portless (putPeriod s r) = portless s := rfl
@[simp] theorem portless_spendDraw : portless (spendDraw s) = portless s := rfl
@[simp] theorem portless_portEvent (ev : PortEvent) (id : PortId) (r : Ports) : portless (portEvent ev id r s) = portless s := by
  simp [portEvent]
@[simp] theorem portless_portsEvent (ev : PortEvent) (r : Ports) : portless (portsEvent ev r s) = portless s := by
  simp [portsEvent]
@[simp] theorem portless_setPort (id : PortId) (role : PortRole) (m : Vector (Fin 16) 16) :
    portless (setPort id role m s) = portless s := by unfold setPort; split <;> [rfl; split] <;> simp
@[simp] theorem portless_joinTx (x : AudioBlock) : portless (joinTx x s).1 = portless s := by
  unfold joinTx; split <;> [rfl; split] <;> rfl
@[simp] theorem portless_joinRx (x : AudioBlock) : portless (joinRx x s).1 = portless s := by unfold joinRx; split <;> rfl
@[simp] theorem portless_takeRx : portless (takeRx s).2.1 = portless s := by unfold takeRx; split <;> rfl
@[simp] theorem portless_takeTx : portless (takeTx s).1 = portless s := by unfold takeTx; split <;> rfl
@[simp] theorem portless_beginGroups : portless (beginGroups s) = portless s := by unfold beginGroups; split <;> simp
@[simp] theorem portless_completeGroup (x : AudioBlock) : portless (completeGroup x s) = portless s := by
  unfold completeGroup; split <;> simp
@[simp] theorem portless_takeSync (id : PortId) (d : Nat) : portless (takeSync id d s) = portless s := by
  unfold takeSync
  dsimp only
  split
  · rfl
  · split <;> [rfl; split] <;> simp [lockPort]
  · split
    · simp [frameBegins]; cases id <;> simp
    · simp [losePort]
@[simp] theorem portless_missSync (id : PortId) : portless (missSync id s) = portless s := by
  unfold missSync; split <;> simp [losePort]
@[simp] theorem portless_goToSleep : portless (goToSleep s) = portless s := by
  unfold goToSleep; cases s.period.active <;> simp
@[simp] theorem portless_handEarpiece : portless (handEarpiece s) = portless s := by simp [handEarpiece]
@[simp] theorem portless_groupFirst (g : Option AudioBlock) : portless (groupFirst g s) = portless s := by
  cases g <;> simp [groupFirst]
@[simp] theorem portless_groupLast (g : Option AudioBlock) : portless (groupLast g s) = portless s := by
  cases g <;> simp [groupLast]
@[simp] theorem portless_groupBefore (g : Option AudioBlock) : portless (groupBefore g s) = portless s := by
  cases g <;> simp [groupBefore]
@[simp] theorem portless_takeMic : portless (takeMic s) = portless s := by simp [takeMic]
@[simp] theorem portless_receiveMic (posIn : AudioBlock) (g : Option AudioBlock) : portless (receiveMic posIn g s) = portless s := by
  unfold receiveMic; split <;> [skip; split] <;> simp

end

/-! ## The store and the streams

A state without its store and its streams, and what the reports of a compaction or a fixing touch. -/

/-- A state without its store, its streams, its outbound queue with the read in progress, and the count of free values. -/
def storeless (s : State) : State :=
  { s with
    store := storeAtPowerOn [], streams := streamsAtReset, link := { s.link with outbound := [], reading := none }, draws := 0 }

section
variable {s t : State}

theorem positions_of_storeless (h : storeless t = storeless s) : t.positions = s.positions := by
  have hf := congrArg State.positions h
  exact hf

theorem ports_of_storeless (h : storeless t = storeless s) : t.ports = s.ports := by
  have hf := congrArg State.ports h
  exact hf

theorem period_of_storeless (h : storeless t = storeless s) : t.period = s.period := by
  have hf := congrArg State.period h
  exact hf

end

section
variable (s : State)

@[simp] theorem storeless_raise (b : ReportBody) : storeless (raise b s) = storeless s := by unfold raise; split <;> rfl
@[simp] theorem storeless_raiseAll (bs : List ReportBody) : storeless (raiseAll bs s) = storeless s := by
  induction bs generalizing s with
  | nil => rfl
  | cons b rest ih => rw [raiseAll_cons, ih, storeless_raise]
@[simp] theorem storeless_putClip (c : ClipIx) (r : Clip) : storeless (putClip s c r) = storeless s := rfl
@[simp] theorem storeless_putStream (i : StreamIx) (r : Stream) : storeless (putStream s i r) = storeless s := rfl
@[simp] theorem storeless_putMem (m : List Host.Cell) : storeless (putMem s m) = storeless s := rfl
@[simp] theorem storeless_putCompaction (k : Compaction) : storeless (putCompaction s k) = storeless s := rfl
@[simp] theorem storeless_spendDraw : storeless (spendDraw s) = storeless s := rfl
@[simp] theorem storeless_takeTurn : storeless (takeTurn s) = storeless s := by
  unfold takeTurn
  split
  · simp [endCompaction]
  · rename_i x _
    cases hx : x.2 with
    | ring i => rfl
    | clip c =>
      simp only [turnOf]
      split
      · rfl
      · split <;> rfl
@[simp] theorem storeless_turns (n : Nat) : storeless (turns n s) = storeless s := by
  induction n generalizing s with
  | zero => rfl
  | succ n ih =>
    rw [turns]
    split
    · rw [ih, storeless_takeTurn]
    · rfl
@[simp] theorem storeless_copyPages : storeless (copyPages s) = storeless s := by unfold copyPages; split <;> rfl
@[simp] theorem storeless_completeMove : storeless (completeMove s) = storeless s := by
  unfold completeMove
  split
  · rfl
  · rw [allTurns, storeless_turns]; rfl
@[simp] theorem storeless_finishMove : storeless (finishMove s) = storeless s := by unfold finishMove; split <;> simp
@[simp] theorem storeless_compactPeriod : storeless (compactPeriod s) = storeless s := by simp [compactPeriod, allTurns]
@[simp] theorem storeless_fixOne (i : StreamIx) : storeless (fixOne i s) = storeless s := by simp [fixOne]
@[simp] theorem storeless_emptyHalfOf (i : StreamIx) : storeless (emptyHalfOf i s) = storeless s := by
  unfold emptyHalfOf
  dsimp only
  split
  · rw [storeless_raiseAll, storeless_putStream]
  · rfl

end

/-! ## The positions' records but for the canceller and the last search -/

/-- The call state and the players of a record. -/
def callAndPlayers (r : Position) : CallState × Player × Player := (r.call, r.net, r.agent)

/-- Two states with the same call states and players. -/
def SamePlayers (s t : State) : Prop := ∀ p, callAndPlayers (getPos t p) = callAndPlayers (getPos s p)

section
variable {s t u : State}

theorem SamePlayers.rfl : SamePlayers s s := fun _ => Eq.refl _

theorem SamePlayers.trans (h : SamePlayers s t) (g : SamePlayers t u) : SamePlayers s u := fun p => (g p).trans (h p)

theorem SamePlayers.ite {c : Prop} [Decidable c] (h : SamePlayers s t) (g : SamePlayers s u) : SamePlayers s (if c then t else u) := by
  split
  · exact h
  · exact g

theorem samePlayers_of_positions (h : t.positions = s.positions) : SamePlayers s t := fun p => by rw [getPos, getPos, h]

theorem samePlayers_putPos {p : PosIx} {r : Position} (h : callAndPlayers r = callAndPlayers (getPos s p)) :
    SamePlayers s (putPos s p r) := by
  intro q
  rw [getPos_putPos]
  split
  · rename_i hq; rw [h, hq]
  · rfl

theorem samePlayers_putEngine (e : Engine) : SamePlayers s (putEngine s e) := fun _ => Eq.refl _

theorem samePlayers_cancelSearches (p : PosIx) (s : State) : SamePlayers s (cancelSearches p s) := by
  have h := (leaves_self s p).cancelSearches
  intro q
  by_cases hq : q = p
  · subst hq; rw [h.getPos_self]; rfl
  · rw [h.getPos_ne hq]

theorem samePlayers_placeRequest (p : PosIx) (r : SearchRequest) (s : State) : SamePlayers s (placeRequest p r s).1 := by
  rw [placeRequest_eq]; exact samePlayers_putEngine _

theorem samePlayers_startHead (s : State) : SamePlayers s (startHead s) := by
  rw [startHead_eq]; exact samePlayers_putEngine _

theorem samePlayers_endSearch (o : SearchOutcome) (lag : Option Nat) (f : InFlight) (s : State) :
    SamePlayers s (endSearch o lag f s).1 := by
  unfold endSearch
  dsimp only
  generalize f.entry.position = p
  refine SamePlayers.trans ?_ (samePlayers_startHead _)
  refine SamePlayers.trans ?_ (samePlayers_putEngine _)
  have hm : ∀ (f : SearchFields) (x : State), SamePlayers x (keepOutcome p f x) := fun _ _ => samePlayers_putPos (Eq.refl _)
  have hk : SamePlayers s (if o = .foundMoved then
      putCanceller s p (moveWindow (windowForPeak (lag.getD 0)) (getPos s p).canceller) else s) :=
    .ite (samePlayers_putPos (Eq.refl _)) .rfl
  exact .ite ((hk.trans (hm _ _)).trans (samePlayers_placeRequest _ _ _)) (hk.trans (hm _ _))

theorem samePlayers_judgeSearch (f : InFlight) (s : State) : SamePlayers s (judgeSearch f s).1 := by
  unfold judgeSearch
  split
  · exact samePlayers_endSearch _ _ _ _
  · split
    · exact samePlayers_endSearch _ _ _ _
    · exact .rfl

theorem samePlayers_changeMode (m : CancellerMode) (p : PosIx) (s : State) : SamePlayers s (changeMode m p s) := by
  unfold changeMode
  dsimp only
  split
  · exact .rfl
  · have h : SamePlayers s (putCanceller s p (enterMode m (getPos s p).call (getPos s p).canceller)) := samePlayers_putPos (Eq.refl _)
    split
    · exact h.trans (samePlayers_cancelSearches _ _)
    · exact h

end

end Sys2Proof.Machine

/-! # What every command and every event keeps of the players (R10, R11, R123, R125) -/

namespace Sys2Proof.Machine

/-! ## The link keeps what every command keeps -/

section
variable {P : State → Prop}

theorem taken_keeps {s : State} (h : P s) : P (taken s).1 := h

theorem onPosition_keeps {s : State} {act : PosIx → Answer} (src : Nat) (hs : P s) (h : ∀ p, P (act p).1) :
    P (onPosition s src act).1 := by
  obtain ⟨p, -, -, e⟩ | ⟨-, -, e⟩ | ⟨-, e⟩ := onPosition_cases s src act <;> rw [e]
  · exact h p
  · exact hs
  · exact hs

theorem onDevice_keeps {s : State} {act : Answer} (src : Nat) (hs : P s) (h : P act.1) : P (onDevice s src act).1 := by
  obtain ⟨-, e⟩ | ⟨-, e⟩ := onDevice_cases s src act <;> rw [e]
  · exact h
  · exact hs

theorem onClip_keeps {s : State} {act : ClipIx → Answer} (id : Nat) (hs : P s) (h : ∀ c, P (act c).1) : P (onClip s id act).1 := by
  unfold onClip
  split
  · exact h _
  · exact hs

theorem onStream_keeps {s : State} {act : StreamIx → Answer} (id : Nat) (hs : P s) (h : ∀ i, P (act i).1) :
    P (onStream s id act).1 := by
  unfold onStream
  split
  · exact h _
  · exact hs

/-- What every link and every command keeps, the taking of commands keeps (R177). -/
theorem drain_keeps (hl : ∀ s l, P s → P (putLink s l)) (hc : ∀ c src b s, P s → P (perform c src b s).1) (fuel : Nat) (s : State)
    (hs : P s) : P (drain fuel s) := by
  have hr : ∀ f t, P t → P (respond f t).1 := by
    intro f t ht
    unfold respond
    split
    · exact ht
    · split
      · exact hc _ _ _ t ht
      · exact ht
  induction fuel generalizing s with
  | zero => exact hs
  | succ fuel ih =>
    rw [drain]
    split
    · exact hs
    · split
      · exact ih _ (hl _ _ (hr _ _ (hl _ _ hs)))
      · exact hs

theorem linkEvent_keeps (hl : ∀ s l, P s → P (putLink s l)) (ev : LinkEvent) (l : Link) (s : State) (hs : P s) :
    P (linkEvent ev l s) := by
  unfold linkEvent raise
  split <;> exact hl _ _ (hl _ _ hs)

/-- What every link and every command keeps, a frame keeps (R174 to R177). -/
theorem writeFrame_keeps (hl : ∀ s l, P s → P (putLink s l)) (hc : ∀ c src b s, P s → P (perform c src b s).1) (f : Frame) (s : State)
    (hs : P s) : P (writeFrame f s) := by
  unfold writeFrame
  split
  · exact linkEvent_keeps hl _ _ _ hs
  · split
    · exact linkEvent_keeps hl _ _ _ hs
    · refine drain_keeps hl hc _ _ ?_
      unfold arrive
      split
      · exact linkEvent_keeps hl _ _ _ hs
      · exact hl _ _ hs

/-- What every link and every command keeps, a read keeps (R180). -/
theorem readTransaction_keeps (hl : ∀ s l, P s → P (putLink s l)) (hc : ∀ c src b s, P s → P (perform c src b s).1) (e : ReadEvent)
    (s : State) (hs : P s) : P (readTransaction e s) := by
  cases e with
  | start => exact hl _ _ hs
  | selHigh clocked =>
    rw [readTransaction]
    split
    · exact hs
    · unfold endRead
      dsimp only
      split
      · exact drain_keeps hl hc _ _ (hl _ _ hs)
      · exact hl _ _ hs

/-- What each thing of a list keeps, the list keeps. -/
theorem foldl_keeps {α : Type} {f : State → α → State} (h : ∀ t x, P t → P (f t x)) (l : List α) (s : State) (hs : P s) :
    P (l.foldl f s) := by
  induction l generalizing s with
  | nil => exact hs
  | cons x rest ih => exact ih _ (h _ _ hs)

end

/-! ## Players within their bounds -/

/-- Every position's players are within their bounds (R123). -/
def PlayersHold (s : State) : Prop := ∀ p, PlayersOk (getPos s p)

theorem playerOk_idle : PlayerOk idlePlayer := ⟨fun _ => ⟨rfl, rfl⟩, by simp [idlePlayer], by simp [idlePlayer]⟩

theorem playerOk_only (it : Item) : PlayerOk ⟨some it, [], []⟩ := ⟨by simp, by simp, by simp⟩

/-- The successor's player is within its bounds. -/
theorem playerOk_succession {pl : Player} (h : PlayerOk pl) : PlayerOk (succession pl) := by
  obtain ⟨-, hs, hq⟩ := h
  unfold succession
  split
  · rename_i it rest e
    rw [e] at hq
    exact ⟨by simp, hs, by simp at hq; dsimp only; omega⟩
  · rename_i it rest e1 e2
    rw [e2] at hs
    exact ⟨by simp, by simp at hs; dsimp only; omega, hq⟩
  · rename_i e1 e2
    exact ⟨fun _ => ⟨e2, e1⟩, hs, hq⟩

section
variable {s t u : State} {p : PosIx} {w : PlayerId} {r : Position} {e : Engine}

theorem playersOk_congr {x y : Position} (h : callAndPlayers x = callAndPlayers y) (hy : PlayersOk y) : PlayersOk x := by
  simp only [callAndPlayers, Prod.mk.injEq] at h
  obtain ⟨hc, hn, ha⟩ := h
  rwa [PlayersOk, hc, hn, ha]

theorem PlayersOk.player (h : PlayersOk r) (w : PlayerId) : PlayerOk (playerOf r w) := by
  obtain ⟨hn, ha, -, -⟩ := h
  cases w
  · exact hn
  · exact ha

/-- A player that plays may play (R11, R125). -/
theorem PlayersOk.mayPlay (h : PlayersOk r) (hc : (playerOf r w).current ≠ none) : mayPlay r.call w = true := by
  obtain ⟨-, -, hn, ha⟩ := h
  cases w
  · exact Bool.of_not_eq_false fun hf => hc (hn hf)
  · exact decide_eq_true fun hf => hc (ha hf)

/-- A new player within its bounds that plays only where it may. -/
theorem PlayersOk.withPlayer (h : PlayersOk r) {pl : Player} (hp : PlayerOk pl)
    (hm : pl.current ≠ none → Machine.mayPlay r.call w = true) : PlayersOk (Machine.withPlayer r w pl) := by
  obtain ⟨hn, ha, hnc, hac⟩ := h
  cases w
  · exact ⟨hp, ha, fun hf => by_contra fun hc => by simp_all [withPlayer, Machine.mayPlay], hac⟩
  · exact ⟨hn, hp, hnc, fun hf => by_contra fun hc => by simp_all [withPlayer, Machine.mayPlay]⟩

theorem PlayersHold.same (h : PlayersHold s) (hs : SamePlayers s t) : PlayersHold t := fun p => playersOk_congr (hs p) (h p)

theorem PlayersHold.of_positions (h : PlayersHold s) (hp : t.positions = s.positions) : PlayersHold t :=
  h.same (samePlayers_of_positions hp)

theorem PlayersHold.of_bare (h : PlayersHold s) (hb : bare t = bare s) : PlayersHold t := h.of_positions (positions_of_bare hb)

theorem PlayersHold.leaves (h : PlayersHold s) (hl : Leaves s p r e u) (hr : PlayersOk r) : PlayersHold u := by
  intro q
  by_cases hq : q = p
  · subst hq; rw [hl.getPos_self]; exact hr
  · rw [hl.getPos_ne hq]; exact h q

theorem PlayersHold.putPos (h : PlayersHold s) (p : PosIx) (hr : PlayersOk r) : PlayersHold (putPos s p r) :=
  h.leaves ((leaves_self s p).putPos r) hr

/-- What an operation makes of one player. -/
theorem PlayersHold.player (h : PlayersHold s) {pl : Player} (hb : bare t = bare (putPlayer s p w pl)) (hp : PlayerOk pl)
    (hm : pl.current ≠ none → Machine.mayPlay (getPos s p).call w = true) : PlayersHold t :=
  PlayersHold.of_bare (h.putPos p ((h p).withPlayer hp hm)) hb

/-! ## What the players' operations keep -/

theorem playersHold_clearPlayer (h : PlayersHold s) (p : PosIx) (w : PlayerId) (reason : LeaveReason) :
    PlayersHold (clearPlayer p w reason s) :=
  h.player (bare_clearPlayer p w reason s ((h p).player w).1) playerOk_idle fun hc => absurd rfl hc

theorem playersHold_endCurrent (h : PlayersHold s) (p : PosIx) (w : PlayerId) (reason : LeaveReason) :
    PlayersHold (endCurrent p w reason s) := by
  cases hc : (getPlayer s p w).current with
  | none => rw [endCurrent_idle p w reason s hc]; exact h
  | some it =>
    refine h.player (p := p) (w := w) (pl := succession (getPlayer s p w)) ?_ (playerOk_succession ((h p).player w)) fun _ => ?_
    · rw [bare_endCurrent, hc]; rfl
    · exact (h p).mayPlay (show (getPlayer s p w).current ≠ none by simp [hc])

theorem playersHold_dropLists (h : PlayersHold s) (p : PosIx) (w : PlayerId) (reason : LeaveReason) (sel : Item → Bool) :
    PlayersHold (dropLists p w reason sel s) := by
  obtain ⟨hi, hs, hq⟩ : PlayerOk (getPlayer s p w) := (h p).player w
  refine h.player (bare_dropLists p w reason sel s) ⟨fun hc => ?_, ?_, ?_⟩ (h p).mayPlay
  · obtain ⟨h1, h2⟩ := hi hc
    simp [h1, h2]
  · exact (List.length_filter_le _ _).trans hs
  · exact (List.length_filter_le _ _).trans hq

/-- A PLAY that its checks let pass (R125, R127 to R130). -/
theorem playersHold_playItem (h : PlayersHold s) {m : PlayMode} {it : Item} (hm : mayPlay (getPos s p).call w = true)
    (hf : ¬((decide (m = .next) && (getPlayer s p w).current.isSome) = true ∧ 4 ≤ (getPlayer s p w).queue.length)) :
    PlayersHold (playItem p w m it s) := by
  obtain ⟨hi, hs, hq⟩ : PlayerOk (getPlayer s p w) := (h p).player w
  have hnow : PlayerOk { getPlayer s p w with current := some it } := ⟨by simp, hs, hq⟩
  cases m with
  | now => exact h.player (bare_playNowItem p w it s) hnow fun _ => hm
  | interrupt =>
    refine h.player (bare_playInterruptItem p w it s) ?_ fun _ => hm
    cases (getPlayer s p w).current with
    | none => exact hnow
    | some old =>
      refine ⟨by simp, ?_, hq⟩
      dsimp only
      split
      · simp; omega
      · simp; omega
  | next =>
    refine h.player (bare_playNextItem p w it s) ?_ fun _ => hm
    cases hc : (getPlayer s p w).current with
    | none => simpa [hc] using hnow
    | some old =>
      simp only [hc, Option.isSome_some, decide_true, Bool.and_true, true_and, not_le] at hf
      exact ⟨by simp [hc], hs, by simp; omega⟩
  | only => exact h.player (bare_playOnlyItem p w it s) (playerOk_only it) fun _ => hm

theorem playersHold_whisperCheck (h : PlayersHold s) (p : PosIx) (was : Bool) : PlayersHold (whisperCheck p was s) := by
  unfold whisperCheck
  split
  · obtain ⟨hn, ha, -, -⟩ := h p
    exact h.leaves ((leaves_self s p).whisperDone hn.1) ⟨playerOk_idle, ha, fun _ => rfl, fun hv => nomatch hv⟩
  · exact h

theorem playersHold_giveUpStream (h : PlayersHold s) (i : StreamIx) (p : PosIx) (w : PlayerId) : PlayersHold (giveUpStream i p w s) := by
  unfold giveUpStream
  dsimp only
  split
  · exact playersHold_endCurrent (playersHold_dropLists h _ _ _ _) _ _ _
  · exact playersHold_dropLists h _ _ _ _

theorem playersHold_closeStream (h : PlayersHold s) (i : StreamIx) : PlayersHold (closeStream i s) := by
  have hg : PlayersHold ((streamHolders i s).foldl (fun t x => giveUpStream i x.1 x.2 t) s) :=
    foldl_keeps (P := PlayersHold) (fun _ _ ht => playersHold_giveUpStream ht _ _ _) _ _ h
  have hw : PlayersHold (closeWhispers (streamHolders i s) s ((streamHolders i s).foldl (fun t x => giveUpStream i x.1 x.2 t) s)) := by
    refine foldl_keeps (P := PlayersHold) (fun t x ht => ?_) _ _ hg
    split
    · exact playersHold_whisperCheck ht _ _
    · exact ht
  exact hw.of_positions rfl

/-! ## What the calls keep -/

theorem playersHold_clearCall (h : PlayersHold s) (p : PosIx) : PlayersHold (clearCall p s) :=
  h.leaves (clearCall_leaves (h p)) ⟨playerOk_idle, playerOk_idle, fun _ => rfl, fun _ => rfl⟩

theorem playersHold_closePosition (h : PlayersHold s) (p : PosIx) : PlayersHold (closePosition p s) := by
  have hu : PlayersHold (endIfCalled p s) ∧ callPresent (getPos (endIfCalled p s) p).call = false := by
    unfold endIfCalled
    split
    · exact ⟨playersHold_clearCall h p, by rw [(clearCall_leaves (h p)).getPos_self]; rfl⟩
    · rename_i hc
      exact ⟨h, by simpa using hc⟩
  obtain ⟨hk, hc⟩ := hu
  obtain ⟨hn, ha, hnc, -⟩ := hk p
  rw [closePosition_eq]
  have hl := ((((leaves_self (endIfCalled p s) p).setCall .vacant).clearPlayer .agent .cleared ha.1).clearTone)
  exact hk.leaves (hl.putPos _) (by rw [hl.getPos_self]; exact ⟨hn, playerOk_idle, fun _ => hnc hc, fun _ => rfl⟩)

theorem playersHold_closeIfOpen (h : PlayersHold s) (p : PosIx) : PlayersHold (closeIfOpen p s) := by
  unfold closeIfOpen
  split
  · exact h
  · exact playersHold_closePosition h p

theorem playersHold_resetPosition (h : PlayersHold s) (p : PosIx) : PlayersHold (resetPosition p s) := by
  have hz : PlayersHold (putCanceller s p { (getPos s p).canceller with window := 0 }) := h.same (samePlayers_putPos rfl)
  exact (playersHold_closeIfOpen hz p).same (samePlayers_putPos rfl)

theorem playersHold_takeOffer (h : PlayersHold s) (p : PosIx) (a b : Option Item) (hint : Option Nat) :
    PlayersHold (takeOffer p a b hint s) := by
  obtain ⟨hn, ha, -, -⟩ := h p
  refine h.leaves (takeOffer_leaves s p a b hint) ⟨?_, ?_, fun hc => ?_, fun hc => ?_⟩
  · cases b
    · exact hn
    · exact playerOk_only _
  · cases a
    · exact ha
    · exact playerOk_only _
  · cases a <;> nomatch hc
  · cases a <;> nomatch hc

end

/-! ## What every command keeps -/

theorem playersHold_reset (src : Nat) (b : List Byte) {s : State} (h : PlayersHold s) : PlayersHold (resetCommand src b s).1 := by
  unfold resetCommand
  split
  · exact h
  · split
    · refine onDevice_keeps src h ?_
      split
      · exact h
      · intro p
        have hr : getPos (taken (resetDevice (byteAt b 1 == 1) s)).1 p = positionAtReset p := getPos_reset p
        rw [hr]
        exact ⟨playerOk_idle, playerOk_idle, fun _ => rfl, fun _ => rfl⟩
    · exact onPosition_keeps src h fun p => playersHold_resetPosition h p

theorem playersHold_setParam (src : Nat) (b : List Byte) {s : State} (h : PlayersHold s) : PlayersHold (setParamCommand src b s).1 := by
  unfold setParamCommand
  dsimp only
  split
  · exact h
  · split
    · exact h.same (samePlayers_putPos rfl)
    · exact h
  · split
    · exact h
    · exact h

theorem playersHold_openPosition {s : State} (h : PlayersHold s) (p : PosIx) (hv : (getPos s p).call = .vacant) :
    PlayersHold (openPosition p s) := by
  obtain ⟨hn, ha, hnc, -⟩ := h p
  exact h.putPos p ⟨hn, ha, fun _ => hnc (by rw [hv]; rfl), fun hc => nomatch hc⟩

theorem playersHold_callOffer (src : Nat) (b : List Byte) {s : State} (h : PlayersHold s) :
    PlayersHold (callOfferCommand src b s).1 := by
  refine onPosition_keeps src h fun p => ?_
  split
  · exact h
  · split
    · exact h
    · split
      · exact h
      · split
        · exact h
        · dsimp only
          exact playersHold_takeOffer h _ _ _ _

theorem playersHold_callConnect (src : Nat) {s : State} (h : PlayersHold s) : PlayersHold (callConnectCommand src s).1 := by
  refine onPosition_keeps src h fun p => ?_
  obtain ⟨hn, ha, -, -⟩ := h p
  have hc := (leaves_self s p).setCall .connected
  split
  · exact taken_keeps (P := PlayersHold) (h.leaves ((hc.clearPlayer .agent .cleared ha.1).clearPlayer .net .cleared hn.1)
      ⟨playerOk_idle, playerOk_idle, fun _ => rfl, fun _ => rfl⟩)
  · exact taken_keeps (P := PlayersHold)
      (h.leaves (hc.clearPlayer .net .cleared hn.1) ⟨playerOk_idle, ha, fun _ => rfl, fun hv => nomatch hv⟩)
  · exact h
  · exact h
  · exact h

theorem playersHold_callHold (src : Nat) (b : List Byte) {s : State} (h : PlayersHold s) : PlayersHold (callHoldCommand src b s).1 := by
  refine onPosition_keeps src h fun p => ?_
  split
  · exact h
  · split
    · exact h
    · exact taken_keeps (P := PlayersHold) (h.leaves (((leaves_self s p).setCall .held).playOnlyItem .net _)
        ⟨playerOk_only _, (h p).2.1, fun hc => (nomatch hc), fun hv => nomatch hv⟩)

theorem playersHold_play (src : Nat) (b : List Byte) {s : State} (h : PlayersHold s) : PlayersHold (playCommand src b s).1 := by
  refine onPosition_keeps src h fun p => ?_
  split
  · split
    · exact h
    · rename_i hm
      split
      · exact h
      · dsimp only
        split
        · exact h
        · rename_i hf
          exact playersHold_playItem h (by simpa using hm) hf
  · exact h

theorem playersHold_stop (src : Nat) (b : List Byte) {s : State} (h : PlayersHold s) : PlayersHold (stopCommand src b s).1 := by
  refine onPosition_keeps src h fun p => ?_
  split
  · exact playersHold_whisperCheck (playersHold_endCurrent h _ _ _) _ _
  · exact playersHold_whisperCheck (playersHold_clearPlayer h _ _ _) _ _
  · exact h

/-- A tone, a canceller or a request of a position leaves its players (R77 to R79, R87, R157, R161). -/
theorem playersHold_unitCommands (src : Nat) (b : List Byte) {s : State} (h : PlayersHold s) :
    PlayersHold (muteCommand src b s).1 ∧ PlayersHold (ecModeCommand src b s).1 ∧ PlayersHold (ecFreezeCommand src b s).1 ∧
      PlayersHold (searchCommand src b s).1 ∧ PlayersHold (windowSetCommand src b s).1 ∧ PlayersHold (toneStartCommand src b s).1 ∧
      PlayersHold (toneStopCommand src s).1 := by
  have hput : ∀ {p r}, callAndPlayers r = callAndPlayers (getPos s p) → PlayersHold (putPos s p r) :=
    fun hr => h.same (samePlayers_putPos hr)
  have htone : ∀ p x, PlayersHold (spendDraw (putPos s p { getPos s p with tone := x })) := fun p x =>
    (hput (r := { getPos s p with tone := x }) rfl).of_positions rfl
  refine ⟨?_, ?_, ?_, ?_, ?_, ?_, ?_⟩ <;> refine onPosition_keeps src h fun p => ?_
  · split
    · exact h
    · split
      · exact h
      · exact hput rfl
  · split
    · exact h
    · exact h.same (samePlayers_changeMode _ _ _)
  · split
    · exact h
    · exact hput rfl
  · split
    · exact h
    · split
      · exact h.same (samePlayers_placeRequest _ _ _)
      · exact h
  · split
    · exact h
    · exact hput rfl
  · split
    · exact h
    · split
      · exact h
      · split
        · exact h
        · exact htone p _
  · exact htone p _

/-- The commands of the ports leave the positions (R163, R169, R170). -/
theorem playersHold_portCommands (src : Nat) (b : List Byte) {s : State} (h : PlayersHold s) :
    PlayersHold (sleepCommand src s).1 ∧ PlayersHold (wakeCommand src s).1 ∧ PlayersHold (portSetCommand src b s).1 ∧
      PlayersHold (portStatusCommand src s).1 := by
  have hput : ∀ {t}, portless t = portless s → PlayersHold t := fun ht => h.of_positions (positions_of_portless ht)
  refine ⟨?_, ?_, ?_, ?_⟩ <;> refine onDevice_keeps src h ?_
  · split
    · exact h
    · split
      · exact h
      · exact hput (portless_goToSleep s)
  · split
    · exact hput (portless_portsEvent ..)
    · exact h
  · split
    · split
      · exact h
      · split
        · exact h
        · exact hput (portless_setPort ..)
    · exact h
  · split
    · exact h
    · exact h

/-- The commands of the store leave the positions (R108 to R113, R116, R107). -/
theorem playersHold_storeCommands (src : Nat) (b : List Byte) {s : State} (h : PlayersHold s) :
    PlayersHold (clipAllocCommand src b s).1 ∧ PlayersHold (clipWriteCommand src b s).1 ∧ PlayersHold (clipEndCommand src b s).1 ∧
      PlayersHold (clipFreeCommand src b s).1 ∧ PlayersHold (storeCompactCommand src s).1 ∧
      PlayersHold (expandLoadCommand src b s).1 := by
  refine ⟨?_, ?_, ?_, ?_, ?_, ?_⟩ <;> refine onDevice_keeps src h ?_
  · refine onClip_keeps _ h fun c => ?_
    dsimp only
    (repeat' split) <;> exact h
  · refine onClip_keeps _ h fun c => ?_
    dsimp only
    (repeat' split) <;> exact h
  · refine onClip_keeps _ h fun c => ?_
    dsimp only
    split <;> exact h
  · refine onClip_keeps _ h fun c => ?_
    (repeat' split) <;> exact h
  · (repeat' split) <;> exact h
  · exact h

/-- The commands of the streams leave the positions, but for STREAM-CLOSE (R144 to R147, R152). -/
theorem playersHold_streamCommands (src : Nat) (b : List Byte) (act : Stream → Stream) {s : State} (h : PlayersHold s) :
    PlayersHold (streamOpenCommand src b s).1 ∧ PlayersHold (streamFillCommand src b s).1 ∧
      PlayersHold (streamRunCommand act src b s).1 ∧ PlayersHold (streamCloseCommand src b s).1 := by
  refine ⟨?_, ?_, ?_, ?_⟩ <;> refine onDevice_keeps src h ?_
  · refine onStream_keeps _ h fun i => ?_
    dsimp only
    (repeat' split) <;> exact h
  · refine onStream_keeps _ h fun i => ?_
    dsimp only
    (repeat' split) <;> exact h
  · split
    · exact h
    · refine onStream_keeps _ h fun i => ?_
      split <;> exact h
  · refine onStream_keeps _ h fun i => ?_
    split
    · exact h
    · exact playersHold_closeStream h i

/-- The queries draw free values at most (R13, R80, R113, R140, R154, R181). -/
theorem playersHold_queries (src : Nat) (b : List Byte) {s : State} (h : PlayersHold s) :
    PlayersHold (posStatusCommand src s).1 ∧ PlayersHold (ecStatusCommand src s).1 ∧ PlayersHold (playerStatusCommand src s).1 ∧
      PlayersHold (clipInfoCommand src b s).1 ∧ PlayersHold (streamStatusCommand src b s).1 ∧
      PlayersHold (getParamCommand src b s).1 := by
  refine ⟨onPosition_keeps src h fun _ => h, onPosition_keeps src h fun _ => h, onPosition_keeps src h fun _ => h,
    onDevice_keeps src h (onClip_keeps _ h fun _ => h), onDevice_keeps src h (onStream_keeps _ h fun _ => h), ?_⟩
  unfold getParamCommand
  dsimp only
  (repeat' split) <;> exact h

theorem playersHold_perform (c : Command) (src : Nat) (b : List Byte) (s : State) (h : PlayersHold s) :
    PlayersHold (perform c src b s).1 := by
  obtain ⟨hmute, hmode, hfreeze, hsearch, hwindow, htone, htoneStop⟩ := playersHold_unitCommands src b h
  obtain ⟨hsleep, hwake, hset, hports⟩ := playersHold_portCommands src b h
  obtain ⟨halloc, hwrite, hend, hfree, hcompact, hload⟩ := playersHold_storeCommands src b h
  obtain ⟨hopen, hfill, hrun, hclose⟩ := playersHold_streamCommands src b startedStream h
  obtain ⟨-, -, hhalt, -⟩ := playersHold_streamCommands src b haltedStream h
  obtain ⟨hpos, hec, hplayer, hinfo, hstream, hget⟩ := playersHold_queries src b h
  cases c with
  | reset => exact playersHold_reset src b h
  | sleep => exact hsleep
  | wake => exact hwake
  | portSet => exact hset
  | portStatus => exact hports
  | setParam => exact playersHold_setParam src b h
  | getParam => exact hget
  | posOpen =>
    refine onPosition_keeps src h fun p => ?_
    split
    · exact taken_keeps (P := PlayersHold) (playersHold_openPosition h p ‹_›)
    · exact h
  | posClose => exact onPosition_keeps src h fun p => taken_keeps (P := PlayersHold) (playersHold_closeIfOpen h p)
  | callOffer => exact playersHold_callOffer src b h
  | callConnect => exact playersHold_callConnect src h
  | callHold => exact playersHold_callHold src b h
  | callClear =>
    refine onPosition_keeps src h fun p => ?_
    split
    · exact taken_keeps (P := PlayersHold) (playersHold_clearCall h p)
    · exact h
  | mute => exact hmute
  | posStatus => exact hpos
  | ecMode => exact hmode
  | ecFreeze => exact hfreeze
  | search => exact hsearch
  | windowSet => exact hwindow
  | ecStatus => exact hec
  | play => exact playersHold_play src b h
  | stop => exact playersHold_stop src b h
  | playerStatus => exact hplayer
  | toneStart => exact htone
  | toneStop => exact htoneStop
  | clipAlloc => exact halloc
  | clipWrite => exact hwrite
  | clipEnd => exact hend
  | clipFree => exact hfree
  | clipInfo => exact hinfo
  | storeCompact => exact hcompact
  | expandLoad => exact hload
  | streamOpen => exact hopen
  | streamFill => exact hfill
  | streamStart => exact hrun
  | streamStop => exact hhalt
  | streamClose => exact hclose
  | streamStatus => exact hstream

end Sys2Proof.Machine

/-! # What a slice and the events keep of the players -/

namespace Sys2Proof.Machine

theorem playersHold_ite {s t : State} {c : Prop} [Decidable c] (h : PlayersHold t) (g : PlayersHold s) :
    PlayersHold (if c then t else s) := by
  split
  · exact h
  · exact g

/-! ## A player in a slice (R131 to R134) -/

/-- The counts of a run's sources are no part of the bare form. -/
theorem bare_settleRun (p : PosIx) (w : PlayerId) (r : PlayRun) (s : State) :
    bare (settleRun p w r s) = bare (putPlayer s p w r.player) := by
  refine foldl_keeps (P := fun t => bare t = bare (putPlayer s p w r.player)) (fun t x ht => (bare_listens ..).trans ht) _ _ ?_
  exact foldl_keeps (P := fun t => bare t = bare (putPlayer s p w r.player)) (fun t x ht => (bare_clipLeaves ..).trans ht) _ _ rfl

/-- A player in a slice that began with a player: within its bounds, and IDLE where that was. -/
def RunOk (pl : Player) (r : PlayRun) : Prop := PlayerOk r.player ∧ (pl.current = none → r.player.current = none)

/-- Another current item of a player that plays. -/
theorem RunOk.again {pl : Player} {r : PlayRun} {it : Item} (h : RunOk pl r) (hc : r.player.current = some it) (x : Item) :
    RunOk pl { r with player := { r.player with current := some x } } := by
  obtain ⟨⟨-, hs, hq⟩, hi⟩ := h
  exact ⟨⟨by simp, hs, hq⟩, fun hn => by rw [hi hn] at hc; nomatch hc⟩

theorem runOk_passEnds {pl : Player} {r : PlayRun} {it : Item} (h : RunOk pl r) (hc : r.player.current = some it) :
    RunOk pl (passEnds it r) := by
  unfold passEnds
  split
  · exact h.again hc _
  · split
    · exact h.again hc _
    · exact ⟨playerOk_succession h.1, fun hn => by rw [h.2 hn] at hc; nomatch hc⟩

theorem runOk_playSample {pl : Player} {r : PlayRun} (h : RunOk pl r) (s : State) (gain : Item → Int) (k : Nat) :
    RunOk pl (playSample s gain k r).2 := by
  unfold playSample
  split
  · exact h
  · rename_i it hc
    split
    · dsimp only [advanceClip]
      split
      · exact h.again hc _
      · exact runOk_passEnds h hc
    · exact h

theorem runOk_playSamples {pl : Player} (s : State) (gain : Item → Int) (n : Nat) :
    ∀ {k : Nat} {r : PlayRun}, RunOk pl r → RunOk pl (playSamples s gain n k r).2 := by
  induction n with
  | zero => exact fun h => h
  | succ n ih => exact fun h => ih (runOk_playSample h s gain _)

theorem runOk_beginRun {pl : Player} (h : PlayerOk pl) : RunOk pl (beginRun pl) := ⟨h, fun hn => hn⟩

section
variable {s t : State} {p : PosIx} {w : PlayerId}

theorem playersHold_settleRun (h : PlayersHold s) {r : PlayRun} (hr : RunOk (getPlayer s p w) r) :
    PlayersHold (settleRun p w r s) :=
  h.player (bare_settleRun p w r s) hr.1 fun hc => (h p).mayPlay fun hn => hc (hr.2 hn)

/-! ## The slice of a position (R15) -/

theorem searchSlice_positions (p : PosIx) (w : SliceWork) (s : State) : (searchSlice p w s).positions = s.positions := by
  unfold searchSlice
  split <;> rfl

theorem stages_net (p : PosIx) (s : State) :
    (stages p s).net = (playSamples s plainGain 64 0 (beginRun (getPos s p).net)).2 := by
  simp only [stages]

theorem stages_agent (p : PosIx) (s : State) :
    (stages p s).agent =
      (playSamples s (agentGain (stages p s).suppressor.vad (getPos s p).params.duck) 64 0 (beginRun (getPos s p).agent)).2 := by
  simp only [stages]

theorem playersHold_settleSlice (h : PlayersHold s) {x : SliceWork} (hn : RunOk (getPos s p).net x.net)
    (ha : RunOk (getPos s p).agent x.agent) : PlayersHold (settleSlice p x s) := by
  have hw : PlayersHold (putPos s p (workedRecord x (getPos s p))) := h.same (samePlayers_putPos rfl)
  have hnet : RunOk (getPlayer (putPos s p (workedRecord x (getPos s p))) p .net) x.net := by
    rw [getPlayer, getPos_putPos, if_pos rfl]
    exact hn
  have hagent : RunOk (getPlayer (settleRun p .net x.net (putPos s p (workedRecord x (getPos s p)))) p .agent) x.agent := by
    rw [getPlayer_of_bare p .agent (bare_settleRun ..), getPlayer, putPlayer, getPos_putPos, if_pos rfl, getPos_putPos, if_pos rfl]
    exact ha
  exact (playersHold_settleRun (playersHold_settleRun hw hnet) hagent).of_positions (searchSlice_positions ..)

/-- What the stages make of a position's players (R131, R133). -/
theorem runOk_stages (h : PlayersHold s) (p : PosIx) :
    RunOk (getPos s p).net (stages p s).net ∧ RunOk (getPos s p).agent (stages p s).agent := by
  obtain ⟨hn, ha, -, -⟩ := h p
  rw [stages_net, stages_agent]
  exact ⟨runOk_playSamples s _ _ (runOk_beginRun hn), runOk_playSamples s _ _ (runOk_beginRun ha)⟩

theorem samePlayers_sliceRequests (p : PosIx) (w : SliceWork) (s : State) : SamePlayers s (sliceRequests p w s) :=
  .ite (samePlayers_placeRequest _ _ _) .rfl

theorem samePlayers_sliceJudgement (p : PosIx) (b : Bool) (s : State) : SamePlayers s (sliceJudgement p b s).1 := by
  unfold sliceJudgement
  split
  · exact .rfl
  · split
    · exact samePlayers_judgeSearch _ _
    · exact .rfl

theorem playersHold_raiseAll (h : PlayersHold s) (bs : List ReportBody) : PlayersHold (raiseAll bs s) :=
  h.of_positions (raiseAll_positions bs s)

theorem playersHold_positionSlice (h : PlayersHold s) (p : PosIx) : PlayersHold (positionSlice p s) := by
  unfold positionSlice
  split
  · unfold processSlice
    refine inFreeOrder_keeps (P := PlayersHold) _ _ ?_ ?_ fun t ht => ht.of_positions rfl
    · obtain ⟨hn, ha⟩ := runOk_stages h p
      exact ((playersHold_settleSlice h hn ha).same (samePlayers_sliceRequests _ _ _)).same (samePlayers_sliceJudgement _ _ _)
    · intro act ha t ht
      simp only [List.mem_cons, List.not_mem_nil, or_false] at ha
      obtain rfl | rfl | rfl | rfl := ha
      · exact playersHold_raiseAll ht _
      · exact playersHold_whisperCheck (playersHold_raiseAll ht _) _ _
      · exact playersHold_raiseAll ht _
      · exact playersHold_raiseAll ht _
  · exact h

/-! ## The slice period (R24) -/

theorem getPos_dueSlices (s : State) (p : PosIx) :
    getPos (dueSlices s) p = { getPos s p with sliceDue := decide ((getPos s p).call ≠ .vacant) } := by
  simp only [getPos, dueSlices, Fin.getElem_fin, Vector.getElem_map]
  rfl

theorem playersHold_endPeriod (h : PlayersHold s) : PlayersHold (endPeriod s) := by
  unfold endPeriod
  split
  · have hf : PlayersHold (finishSlices s) :=
      (foldl_keeps (P := PlayersHold) (fun t p ht => playersHold_positionSlice ht p) _ _ h).of_positions rfl
    refine inFreeOrder_keeps (P := PlayersHold) _ _ hf ?_ fun t ht => ht.of_positions rfl
    intro act ha t ht
    simp only [List.mem_cons, List.not_mem_nil, or_false] at ha
    obtain rfl | rfl := ha
    · exact ht.of_positions (positions_of_portless (portless_handEarpiece t))
    · exact ht.of_positions (positions_of_storeless (storeless_finishMove t))
  · exact h

theorem playersHold_beginPeriod (h : PlayersHold s) (netIn posIn : AudioBlock) (group : Option AudioBlock) :
    PlayersHold (beginPeriod netIn posIn group s) := by
  refine inFreeOrder_keeps (P := PlayersHold) _ _ ?_ ?_ fun t ht => ht.of_positions rfl
  · exact h.same fun p => by rw [getPos_dueSlices]; rfl
  · intro act ha t ht
    simp only [List.mem_cons, List.not_mem_nil, or_false] at ha
    have hfix : ∀ i, PlayersHold (fixOne i t) := fun i => ht.of_positions (positions_of_storeless (storeless_fixOne t i))
    obtain rfl | rfl | rfl | rfl | rfl | rfl := ha
    · exact ht.of_positions (positions_of_portless (portless_receiveMic t _ _))
    · exact hfix 0
    · exact hfix 1
    · exact hfix 2
    · exact hfix 3
    · exact ht.of_positions (positions_of_storeless (storeless_compactPeriod t))

theorem playersHold_slicePeriod (h : PlayersHold s) (netIn posIn : AudioBlock) (group : Option AudioBlock) :
    PlayersHold (slicePeriod netIn posIn group s) := by
  unfold slicePeriod
  split
  · exact h
  · exact playersHold_beginPeriod (playersHold_endPeriod (h.of_positions (positions_of_portless (portless_groupBefore s group)))) _ _ _

/-! ## The events -/

/-- The suppressor's and the canceller's events leave the players (R30, R39, R47, R60, R65 to R68). -/
theorem playersHold_unitEvents (h : PlayersHold s) (p : PosIx) (a b : Nat) :
    PlayersHold (raiseMicFloor p a s) ∧ PlayersHold (raiseCallerFloor p a s) ∧ PlayersHold (expireVad p a s) ∧
      PlayersHold (refreshDue p s) ∧ PlayersHold (expireDoubleTalk p a b s) ∧ PlayersHold (converge p s) ∧
      PlayersHold (diverge p a b s) ∧ PlayersHold (loseErle p s) ∧ PlayersHold (expireResearch p s) := by
  have hsup : ∀ x, PlayersHold (putSuppressor s p x) := fun x => h.same (samePlayers_putPos rfl)
  have hcan : ∀ c, PlayersHold (putCanceller s p c) := fun c => h.same (samePlayers_putPos rfl)
  have hevent : ∀ ev c, PlayersHold (cancellerEvent p ev c s) := fun ev c => (hcan c).of_positions (raise_positions ..)
  have hask : ∀ c, PlayersHold (placeRequest p autoShort (putCanceller s p c)).1 := fun c =>
    (hcan c).same (samePlayers_placeRequest _ _ _)
  exact ⟨playersHold_ite (hsup _) h, playersHold_ite (hcan _) h, playersHold_ite (hsup _) h,
    playersHold_ite (playersHold_raiseAll (hsup _) _) h, playersHold_ite (hcan _) h, playersHold_ite (hevent _ _) h,
    playersHold_ite (hevent _ _) h, playersHold_ite (playersHold_ite (hask _) (hcan _)) h, playersHold_ite (hask _) h⟩

theorem playersHold_endInFlight (h : PlayersHold s) (due : InFlight → Bool) {finish : InFlight → State → State × ReportBody}
    (hf : ∀ f, SamePlayers s (finish f s).1) : PlayersHold (endInFlight due finish s) := by
  unfold endInFlight
  split
  · exact h
  · split
    · exact (h.same (hf _)).of_positions (raise_positions ..)
    · exact h

theorem playersHold_endPass (h : PlayersHold s) (p : PosIx) (w : PlayerId) : PlayersHold (endPass p w s) := by
  unfold endPass
  split
  · exact h
  · rename_i it hc
    split
    · refine playersHold_whisperCheck (playersHold_raiseAll (playersHold_settleRun h ?_) _) _ _
      exact runOk_passEnds (runOk_beginRun ((h p).player w)) hc
    · exact h

/-- The tone's events leave the players (R159). -/
theorem playersHold_toneEvents (h : PlayersHold s) (p : PosIx) : PlayersHold (completeBurst p s) ∧ PlayersHold (beginCycle p s) := by
  have hput : ∀ x, PlayersHold (putTone s p x) := fun x => h.same (samePlayers_putPos rfl)
  exact ⟨playersHold_ite (playersHold_raiseAll (hput _) _) h, playersHold_ite (hput _) h⟩

end

/-! ## Every step -/

/-- A command row of the link is the arrival of its frame, and keeps the players (R173, R175). -/
theorem playersHold_writeFrame (f : Frame) {s : State} (h : PlayersHold s) : PlayersHold (writeFrame f s) :=
  writeFrame_keeps (P := PlayersHold) (fun _ _ hs => hs.of_positions rfl) playersHold_perform f s h

theorem playersHold_exec (i : Instr) {s t : State} (h : PlayersHold s) (he : exec i s = .next t) : PlayersHold t := by
  have hframe : ∀ f, PlayersHold (writeFrame f s) := fun f => playersHold_writeFrame f h
  have hreset : ∀ m, PlayersHold (powerOnState s.pending m s.draws) := fun m p => by
    have hr : getPos (powerOnState s.pending m s.draws) p = positionAtReset p := getPos_reset p
    rw [hr]
    exact ⟨playerOk_idle, playerOk_idle, fun _ => rfl, fun _ => rfl⟩
  cases i with
  | powerOn | resetPin => cases he; exact hreset _
  | frameError len followed =>
    cases he
    exact playersHold_ite (linkEvent_keeps (P := PlayersHold) (fun _ _ hs => hs.of_positions rfl) _ _ _ h) h
  | read e =>
    cases he
    exact readTransaction_keeps (P := PlayersHold) (fun _ _ hs => hs.of_positions rfl) playersHold_perform e s h
  | frameArrival | linkClear | badKind | resetDevice | resetPosition | sleep | wake | portSet | portStatus | setParam | getParam
  | posOpen | posClose | callOffer | callConnect | callHold | callClear | mute | posStatus | ecMode | ecFreeze | search | windowSet
  | ecStatus | playNow | playInterrupt | playNext | playOnly | stopCurrent | stopAll | playerStatus | toneStart | toneStop | clipAlloc
  | clipWrite | clipEnd | clipFree | clipInfo | storeCompact | expandLoad | streamOpen | streamFill | streamStart | streamStop
  | streamClose | streamStatus => cases he; exact hframe _
  | slicePeriod netIn posIn group => cases he; exact playersHold_slicePeriod h netIn posIn group
  | positionSlice p => cases he; exact playersHold_positionSlice h p
  | floorTrackerRise p which level =>
    cases he
    obtain ⟨hmic, hcaller, -⟩ := playersHold_unitEvents h p level 0
    cases which
    · exact hmic
    · exact hcaller
  | vadHangoverExpiry p ratio => cases he; exact (playersHold_unitEvents h p ratio 0).2.2.1
  | boostRefresh p => cases he; exact (playersHold_unitEvents h p 0 0).2.2.2.1
  | doubleTalkHangoverExpiry p a b => cases he; exact (playersHold_unitEvents h p a b).2.2.2.2.1
  | converged p => cases he; exact (playersHold_unitEvents h p 0 0).2.2.2.2.2.1
  | diverged p a b => cases he; exact (playersHold_unitEvents h p a b).2.2.2.2.2.2.1
  | lossOfErle p => cases he; exact (playersHold_unitEvents h p 0 0).2.2.2.2.2.2.2.1
  | researchPeriodExpiry p => cases he; exact (playersHold_unitEvents h p 0 0).2.2.2.2.2.2.2.2
  | searchStart => cases he; exact h.same (samePlayers_startHead s)
  | searchCompletes => cases he; exact playersHold_endInFlight h _ fun f => samePlayers_endSearch _ _ f s
  | timedOut => cases he; exact playersHold_endInFlight h _ fun f => samePlayers_endSearch _ _ f s
  | passEnd p which => cases he; exact playersHold_endPass h p which
  | burstComplete p => cases he; exact (playersHold_toneEvents h p).1
  | newCycle p => cases he; exact (playersHold_toneEvents h p).2
  | halfEmpty k => cases he; exact h.of_positions (positions_of_storeless (storeless_emptyHalfOf s k))
  | turn => cases he; exact playersHold_ite (h.of_positions (positions_of_storeless (storeless_takeTurn s))) h
  | moveCompletes => cases he; exact h.of_positions (positions_of_storeless (storeless_finishMove s))
  | frameSync port d => cases he; exact playersHold_ite (h.of_positions (positions_of_portless (portless_takeSync s port d))) h
  | missingSync port => cases he; exact playersHold_ite (h.of_positions (positions_of_portless (portless_missSync s port))) h
  | positionPortGroup x => cases he; exact h.of_positions (positions_of_portless (portless_completeGroup s x))

/-- Settles O8: each command's and each event's part keeps every player within its bounds. -/
theorem stepKeepsThePlayers : Obligations.StepKeepsThePlayers := by
  unfold Obligations.StepKeepsThePlayers
  intro s t h hs
  have hp : PlayersHold s := h
  rw [step] at hs
  split at hs
  · cases hs
    exact hp
  · rename_i c rest _
    exact playersHold_exec c (s := { s with pending := rest }) (hp.of_positions rfl) hs

end Sys2Proof.Machine

/-! # Network transmit and the earpiece (R17 to R19) -/

namespace Sys2Proof.Machine

/-! ## Slices of 64 samples -/

theorem getD_zipWith (f : Int → Int → Int) {a b : List Int} {k : Nat} (ha : k < a.length) (hb : k < b.length) :
    (List.zipWith f a b).getD k 0 = f (a.getD k 0) (b.getD k 0) := by
  rw [List.getD_eq_getElem _ _ (by simp; omega), List.getD_eq_getElem _ _ ha, List.getD_eq_getElem _ _ hb, List.getElem_zipWith]

theorem getD_map_zero {f : Int → Int} (hf : f 0 = 0) (a : List Int) (k : Nat) : (a.map f).getD k 0 = f (a.getD k 0) := by
  rw [List.getD_eq_getElem?_getD, List.getD_eq_getElem?_getD, List.getElem?_map]
  cases a[k]? with
  | none => exact hf.symm
  | some x => rfl

@[simp] theorem scale_zero (g : Int) : scale 0 g = 0 := by simp [scale]

theorem getD_map_scale (g : Int) (a : List Int) (k : Nat) : (a.map fun v => scale v g).getD k 0 = scale (a.getD k 0) g :=
  getD_map_zero (f := fun v => scale v g) (scale_zero g) a k

theorem saturate_eq (v : Int) : saturate v = max (-32768) (min v 32767) := rfl

/-- A slice of 64 samples. -/
def IsSlice (a : List Int) : Prop := a.length = 64

theorem isSlice_silence : IsSlice silence := by simp [IsSlice, silence]

theorem isSlice_map {a : List Int} (f : Int → Int) (h : IsSlice a) : IsSlice (a.map f) := by simpa [IsSlice] using h

theorem isSlice_gated {a : List Int} (b : Bool) (h : IsSlice a) : IsSlice (gated b a) := by
  cases b
  · exact isSlice_silence
  · exact h

theorem isSlice_zipWith {a b : List Int} (f : Int → Int → Int) (ha : IsSlice a) (hb : IsSlice b) : IsSlice (List.zipWith f a b) := by
  simp only [IsSlice, List.length_zipWith] at *
  omega

theorem getD_silence (k : Nat) : silence.getD k 0 = 0 := by
  rw [silence, List.getD_eq_getElem?_getD]
  cases h : (List.replicate 64 (0 : Int))[k]? with
  | none => rfl
  | some x => exact List.eq_of_mem_replicate (List.mem_of_getElem? h)

theorem getD_gated (b : Bool) (a : List Int) (k : Nat) : (gated b a).getD k 0 = if b then a.getD k 0 else 0 := by
  cases b
  · exact getD_silence k
  · rfl

section
variable {a b c : List Int} {k : Nat}

theorem isSlice_sum3 (ha : IsSlice a) (hb : IsSlice b) (hc : IsSlice c) : IsSlice (sum3 a b c) :=
  isSlice_zipWith _ (isSlice_zipWith _ ha hb) hc

theorem getD_sum3 (ha : IsSlice a) (hb : IsSlice b) (hc : IsSlice c) (hk : k < 64) :
    (sum3 a b c).getD k 0 = a.getD k 0 + b.getD k 0 + c.getD k 0 := by
  have hab : IsSlice (List.zipWith (· + ·) a b) := isSlice_zipWith _ ha hb
  rw [sum3, getD_zipWith _ (by rw [hab]; exact hk) (by rw [hc]; exact hk), getD_zipWith _ (by rw [ha]; exact hk) (by rw [hb]; exact hk)]

theorem getD_networkTransmit (ha : IsSlice a) (hb : IsSlice b) (hc : IsSlice c) (hk : k < 64) :
    (networkTransmit a b c).getD k 0 = saturate (a.getD k 0 + b.getD k 0 + c.getD k 0) := by
  rw [networkTransmit, getD_map_zero rfl, getD_sum3 ha hb hc hk]

theorem getD_earpieceSlice (boost volume : Nat) (ha : IsSlice a) (hb : IsSlice b) (hk : k < 64) :
    (earpieceSlice boost volume a b).getD k 0 = saturate (scale (a.getD k 0) ((boost : Int) - volume) + b.getD k 0) := by
  rw [earpieceSlice, getD_zipWith _ (by rw [ha]; exact hk) (by rw [hb]; exact hk)]

end

/-! ## What each unit hands to the sums -/

theorem isSlice_slotSamples (m : Vector (Fin 16) 16) (x : AudioBlock) (p : PosIx) : IsSlice (slotSamples m x p) := by
  simp [IsSlice, slotSamples]

theorem isSlice_playSamples (s : State) (gain : Item → Int) (r : PlayRun) : IsSlice (playSamples s gain 64 0 r).1 := by
  rw [playSamples_eq]
  simp [IsSlice]

theorem isSlice_toneSlice (t : Tone) : IsSlice (toneSlice t).1 := by
  unfold toneSlice
  split
  · rw [toneSamples_eq]
    simp [IsSlice]
  · exact isSlice_silence

theorem isSlice_micTerm (r : Position) {v : List Int} (h : IsSlice v) : IsSlice (micTerm r v) := by
  unfold micTerm
  split
  · exact isSlice_map _ h
  · exact isSlice_silence

theorem getD_micTerm (r : Position) (v : List Int) (k : Nat) :
    (micTerm r v).getD k 0 = if r.call = .connected ∧ r.mute = false then scale (v.getD k 0) (-(r.params.txAtt : Int)) else 0 := by
  have hm : micIncluded r = true ↔ r.call = .connected ∧ r.mute = false := by simp [micIncluded]
  by_cases h : micIncluded r = true
  · rw [micTerm, if_pos h, if_pos (hm.mp h), getD_map_scale]
  · rw [micTerm, if_neg h, if_neg fun hc => h (hm.mpr hc), getD_silence]

theorem isSlice_sideTone (n : Nat) {v : List Int} (h : IsSlice v) : IsSlice (sideTone n v) := by
  unfold sideTone
  split
  · exact isSlice_silence
  · exact isSlice_map _ h

theorem getD_sideTone (n : Nat) (v : List Int) (k : Nat) :
    (sideTone n v).getD k 0 = if n = 64 then 0 else scale (v.getD k 0) (-(n : Int)) := by
  unfold sideTone
  split
  · exact getD_silence k
  · exact getD_map_scale _ v k

/-- The caller slice is no longer than the errors, the noise or the return it is made of. -/
theorem finishResearch_caller (t : PosParams) (was : Bool) (x : CancellerSlice) : (finishResearch t was x).caller = x.caller := by
  unfold finishResearch
  split <;> rfl

theorem adaptingCounters_caller (t : PosParams) (ly le lest : Nat) (caller : List Int) (c : Canceller) :
    (adaptingCounters t ly le lest caller c).caller = caller := by
  unfold adaptingCounters
  dsimp only
  split
  · rfl
  · split <;> rfl

theorem length_cancelSamples (mu : Int) (adapting : Bool) (h : List Int) (d : Nat) (ys : List Int) :
    ∀ (j : Nat) (c : List Int), (cancelSamples mu adapting h d j ys c).2.1.length = ys.length := by
  induction ys with
  | nil => exact fun _ _ => rfl
  | cons y ys ih => intro j c; simp [cancelSamples, ih]

theorem length_noiseRun (n : Nat) : ∀ r : BitVec 16, (noiseRun n r).1.length = n := by
  induction n with
  | zero => exact fun _ => rfl
  | succ n ih => intro r; simp [noiseRun, ih]

theorem isSlice_cancellerStage (t : PosParams) (locked active : Bool) {ys : List Int} (c : Canceller) (h : IsSlice ys) :
    IsSlice (cancellerStage t locked active ys c).caller := by
  unfold cancellerStage
  split
  · split
    · rw [cancelSlice]
      rw [finishResearch_caller]
      have hc : ∀ (b : Bool) (m : Nat) (mu : Int) (x : Bool), IsSlice (if b then (noiseRun 64 c.noise).1.map (comfortSample m)
          else (cancelSamples mu x c.history c.window 0 ys c.coeffs).2.1) := by
        intro b m mu x
        cases b
        · exact (length_cancelSamples ..).trans h
        · simp [IsSlice, length_noiseRun]
      split
      · rw [adaptingCounters_caller]
        exact hc ..
      · exact hc ..
    · rw [unlockedSlice]
      rw [finishResearch_caller]
      simp [IsSlice]
  · exact h

/-! ## The sums of a slice -/

/-- The microphone samples after suppression (R44). -/
def suppressedMic (s : State) (p : PosIx) : List Int := suppressedSlice (stages p s).suppressor.applied (micSlice s p)

theorem isSlice_suppressedMic (s : State) (p : PosIx) : IsSlice (suppressedMic s p) := isSlice_map _ (isSlice_slotSamples ..)

theorem getD_suppressedMic (s : State) (p : PosIx) (k : Nat) :
    (suppressedMic s p).getD k 0 = scale ((micSlice s p).getD k 0) (-((stages p s).suppressor.applied : Int)) :=
  getD_map_scale _ _ k

/-- The samples of the NET and the AGENT player of a position in its slice (R131). -/
def netSamples (s : State) (p : PosIx) : List Int := (playSamples s plainGain 64 0 (beginRun (getPos s p).net)).1

def agentSamples (s : State) (p : PosIx) : List Int :=
  (playSamples s (agentGain (stages p s).suppressor.vad (getPos s p).params.duck) 64 0 (beginRun (getPos s p).agent)).1

theorem stages_transmit (p : PosIx) (s : State) :
    (stages p s).transmit =
      networkTransmit (micTerm (getPos s p) (suppressedMic s p)) (netSamples s p)
        (gated (routeHasNet (getPos s p).tone.route) (toneSlice (getPos s p).tone).1) := by
  simp only [stages, suppressedMic, netSamples]

theorem stages_earpiece (p : PosIx) (s : State) :
    (stages p s).earpiece =
      earpieceSlice (stages p s).suppressor.boost (getPos s p).params.volume
        (sum3 (gated (decide ((getPos s p).call = .connected)) (stages p s).canceller.caller) (agentSamples s p)
          (gated (routeHasEar (getPos s p).tone.route) (toneSlice (getPos s p).tone).1))
        (sideTone (getPos s p).params.sidetone (suppressedMic s p)) := by
  simp only [stages, suppressedMic, agentSamples]

theorem stages_tone (p : PosIx) (s : State) :
    (stages p s).tone = (cadenceStep (toneSlice (getPos s p).tone).2).1 ∧
      (stages p s).toneEnded = (cadenceStep (toneSlice (getPos s p).tone).2).2 := by
  simp only [stages, and_self]

theorem isSlice_caller (p : PosIx) (s : State) : IsSlice (stages p s).canceller.caller := by
  simp only [stages]
  exact isSlice_cancellerStage _ _ _ _ (isSlice_slotSamples ..)

theorem routeHasNet_iff (r : Route) : routeHasNet r = true ↔ r ≠ .ear := by cases r <;> simp [routeHasNet]

theorem routeHasEar_iff (r : Route) : routeHasEar r = true ↔ r ≠ .net := by cases r <;> simp [routeHasEar]

theorem getD_transmit (p : PosIx) (s : State) {k : Nat} (hk : k < 64) :
    (stages p s).transmit.getD k 0 =
      saturate ((if (getPos s p).call = .connected ∧ (getPos s p).mute = false then
          scale ((suppressedMic s p).getD k 0) (-((getPos s p).params.txAtt : Int)) else 0) + (netSamples s p).getD k 0 +
        (if (getPos s p).tone.route = .ear then 0 else (toneSlice (getPos s p).tone).1.getD k 0)) := by
  have hn : IsSlice (netSamples s p) := isSlice_playSamples ..
  rw [stages_transmit, getD_networkTransmit (isSlice_micTerm _ (isSlice_suppressedMic s p)) hn
    (isSlice_gated _ (isSlice_toneSlice _)) hk, getD_micTerm, getD_gated]
  simp only [routeHasNet_iff, ite_not]

theorem getD_earpiece (p : PosIx) (s : State) {k : Nat} (hk : k < 64) :
    (stages p s).earpiece.getD k 0 =
      saturate (scale ((if (getPos s p).call = .connected then (stages p s).canceller.caller.getD k 0 else 0) +
            (agentSamples s p).getD k 0 +
            (if (getPos s p).tone.route = .net then 0 else (toneSlice (getPos s p).tone).1.getD k 0))
          (((stages p s).suppressor.boost : Int) - (getPos s p).params.volume) +
        if (getPos s p).params.sidetone = 64 then 0
        else scale ((suppressedMic s p).getD k 0) (-((getPos s p).params.sidetone : Int))) := by
  have hc : IsSlice (gated (decide ((getPos s p).call = .connected)) (stages p s).canceller.caller) :=
    isSlice_gated _ (isSlice_caller p s)
  have ha : IsSlice (agentSamples s p) := isSlice_playSamples ..
  have ht : IsSlice (gated (routeHasEar (getPos s p).tone.route) (toneSlice (getPos s p).tone).1) :=
    isSlice_gated _ (isSlice_toneSlice _)
  rw [stages_earpiece, getD_earpieceSlice _ _ (isSlice_sum3 hc ha ht) (isSlice_sideTone _ (isSlice_suppressedMic s p)) hk,
    getD_sum3 hc ha ht hk, getD_gated, getD_gated, getD_sideTone]
  simp only [routeHasEar_iff, ite_not, decide_eq_true_eq]

/-- The players of a position before each sample of its slice (R131, R133). -/
def netPlayers (s : State) (p : PosIx) (k : Nat) : Player := (runAfter s plainGain (beginRun (getPos s p).net) k).player

def agentPlayers (s : State) (p : PosIx) (k : Nat) : Player :=
  (runAfter s (agentGain (stages p s).suppressor.vad (getPos s p).params.duck) (beginRun (getPos s p).agent) k).player

theorem agentGain_eq (vad : Bool) (duck : Nat) :
    agentGain vad duck = fun it => -((if vad then min 63 (it.level + duck) else it.level : Nat) : Int) := by
  funext it
  cases vad <;> rfl

/-- Both players of a position do in its slice what R131 to R133 say. -/
theorem players_play (p : PosIx) (s : State) :
    PlayerInSlice s (fun it => -(it.level : Int)) (netPlayers s p) (fun k => (netSamples s p).getD k 0) ∧
      PlayerInSlice s
        (fun it => -((if (stages p s).suppressor.vad then min 63 (it.level + (getPos s p).params.duck) else it.level : Nat) : Int))
        (agentPlayers s p) (fun k => (agentSamples s p).getD k 0) := by
  rw [← agentGain_eq]
  exact ⟨playSamples_does s plainGain _, playSamples_does s _ _⟩

theorem tone_plays (p : PosIx) (s : State) :
    ToneInSlice (getPos s p).tone (stages p s).tone (stages p s).toneEnded fun k => (toneSlice (getPos s p).tone).1.getD k 0 := by
  obtain ⟨htone, hended⟩ := stages_tone p s
  rw [htone, hended]
  exact toneSlice_does (getPos s p).tone

/-! ## What the network is sent does not depend on the AGENT players -/

/-- Two states whose clips, bytes and fixed slices read the same, counts apart. -/
def SoundAlike (s t : State) : Prop :=
  (bare s).store = (bare t).store ∧ (bare s).streams = (bare t).streams

section
variable {s t : State} {p : PosIx}

theorem SoundAlike.clip (h : SoundAlike s t) (c : ClipIx) : { getClip s c with refCount := 0 } = { getClip t c with refCount := 0 } := by
  have hc := congrArg (fun st : Store => st.clips[c]) h.1
  simpa [bare, getClip] using hc

theorem SoundAlike.stream (h : SoundAlike s t) (i : StreamIx) :
    { getStream s i with listeners := 0 } = { getStream t i with listeners := 0 } := by
  have hc := congrArg (fun v : Vector Stream 4 => v[i]) h.2
  simpa [bare, getStream] using hc

theorem SoundAlike.samples (h : SoundAlike s t) (c : ClipIx) (offset : Nat) : clipSample s c offset = clipSample t c offset := by
  have hf := congrArg Clip.format (h.clip c)
  have hp := congrArg Clip.firstPage (h.clip c)
  have hm := congrArg Store.mem h.1
  have hx := congrArg Store.expansion h.1
  simp only [bare] at hf hp hm hx
  rw [clipSample, clipSample, hf, hp]
  unfold readSample
  rw [hm, hx]

theorem SoundAlike.heard (h : SoundAlike s t) (i : StreamIx) (k : Nat) : streamSample s i k = streamSample t i k := by
  have hs := congrArg Stream.slice (h.stream i)
  have hx := congrArg Store.expansion h.1
  simp only [bare] at hs hx
  rw [streamSample, streamSample, hs, hx]

theorem SoundAlike.playSample (h : SoundAlike s t) (gain : Item → Int) (k : Nat) (r : PlayRun) :
    Machine.playSample s gain k r = Machine.playSample t gain k r := by
  unfold Machine.playSample
  cases r.player.current with
  | none => rfl
  | some it =>
    dsimp only
    cases it.source with
    | clip c =>
      have hl := congrArg Clip.length (h.clip c)
      dsimp only at hl ⊢
      rw [h.samples, hl]
    | stream i => dsimp only; rw [h.heard]

theorem SoundAlike.playSamples (h : SoundAlike s t) (gain : Item → Int) (n : Nat) :
    ∀ (k : Nat) (r : PlayRun), Machine.playSamples s gain n k r = Machine.playSamples t gain n k r := by
  induction n with
  | zero => exact fun _ _ => rfl
  | succ n ih => intro k r; rw [Machine.playSamples, Machine.playSamples, h.playSample, ih]

theorem micTerm_congr {r r' : Position} (hc : r.call = r'.call) (hm : r.mute = r'.mute) (hp : r.params = r'.params) (v : List Int) :
    micTerm r v = micTerm r' v := by
  unfold micTerm micIncluded
  rw [hc, hm, hp]

/-- What the network transmit of a position reads of its state. -/
theorem transmit_congr (hs : SoundAlike s t) (hr : { getPos s p with agent := idlePlayer } = { getPos t p with agent := idlePlayer })
    (hports : s.ports = t.ports) (hperiod : s.period = t.period) : (stages p s).transmit = (stages p t).transmit := by
  have hcall := congrArg Position.call hr
  have hmute := congrArg Position.mute hr
  have hparams := congrArg Position.params hr
  have hsup := congrArg Position.suppressor hr
  have hnet := congrArg Position.net hr
  have htone := congrArg Position.tone hr
  dsimp only at hcall hmute hparams hsup hnet htone
  have hmic : micSlice s p = micSlice t p := by rw [micSlice, micSlice, hports, hperiod]
  have hx : (stages p s).suppressor = (stages p t).suppressor := by
    simp only [stages, hparams, hsup, hmic, hperiod]
  rw [stages_transmit, stages_transmit, netSamples, netSamples, hs.playSamples, hnet, suppressedMic, suppressedMic, hx, hmic, htone,
    micTerm_congr hcall hmute hparams]

/-! ## The outputs of a slice -/

theorem clearPlayer_ports (p : PosIx) (w : PlayerId) (reason : LeaveReason) (s : State) :
    (clearPlayer p w reason s).ports = s.ports := by
  have hd : (dropLists p w reason (fun _ => true) s).ports = s.ports := (ports_of_bare (bare_dropLists p w reason _ s)).trans rfl
  rw [clearPlayer, ports_of_bare (bare_endCurrent p w reason _)]
  split
  · exact hd
  · exact hd

theorem whisperCheck_ports (p : PosIx) (was : Bool) (s : State) : (whisperCheck p was s).ports = s.ports := by
  unfold whisperCheck
  split
  · rw [whisperDone_eq, raise_ports, whisperCleared, clearPlayer_ports]
    rfl
  · rfl

theorem settleSlice_ports (p : PosIx) (w : SliceWork) (s : State) :
    (settleSlice p w s).ports.ndout =
      if s.ports.network.state = .locked then putSlot s.ports.network.slotMap p w.transmit s.ports.ndout else s.ports.ndout := by
  have hp : (settleRun p .agent w.agent (settleRun p .net w.net (putPos s p (workedRecord w (getPos s p))))).ports = s.ports := by
    have hn := ports_of_bare (bare_settleRun p .net w.net (putPos s p (workedRecord w (getPos s p))))
    exact (ports_of_bare (bare_settleRun ..)).trans (hn.trans rfl)
  have hsearch : ∀ x, (searchSlice p w x).ports = x.ports := by
    intro x
    unfold searchSlice
    split <;> rfl
  rw [settleSlice, hsearch, sendSlice]
  dsimp only [putPeriod, putPorts]
  rw [hp]

theorem ports_placeRequest (p : PosIx) (q : SearchRequest) (s : State) : (placeRequest p q s).1.ports = s.ports := by
  rw [placeRequest_eq]
  rfl

/-- The record of a position whose search ends (R93 to R95). -/
def searchedRecord (o : SearchOutcome) (lag : Option Nat) (f : InFlight) (r : Position) : Position :=
  { r with
    canceller := if o = .foundMoved then moveWindow (windowForPeak (lag.getD 0)) r.canceller else r.canceller
    lastSearch := some ⟨f.entry.request, o, f.eligible, f.elapsed, lag⟩ }

/-- The end of a search changes the record of its position and the engine (R95). -/
theorem endSearch_eq (o : SearchOutcome) (lag : Option Nat) (f : InFlight) (s : State) :
    (endSearch o lag f s).1 =
      putEngine (putPos s f.entry.position (searchedRecord o lag f (getPos s f.entry.position))) (endSearch o lag f s).1.engine := by
  have hk : keepOutcome f.entry.position ⟨f.entry.request, o, f.eligible, f.elapsed, lag⟩
      (if o = .foundMoved then
        putCanceller s f.entry.position (moveWindow (windowForPeak (lag.getD 0)) (getPos s f.entry.position).canceller)
      else s) = putPos s f.entry.position (searchedRecord o lag f (getPos s f.entry.position)) := by
    unfold searchedRecord keepOutcome
    split
    · rw [putCanceller, putPos_putPos, getPos_putPos, if_pos rfl]
    · rfl
  unfold endSearch
  dsimp only
  rw [hk, releaseEngine, startHead_eq]
  split
  · rw [placeRequest_eq]
    rfl
  · rfl

theorem ports_endSearch (o : SearchOutcome) (lag : Option Nat) (f : InFlight) (s : State) : (endSearch o lag f s).1.ports = s.ports := by
  rw [endSearch_eq]
  rfl

theorem ports_sliceJudgement (p : PosIx) (b : Bool) (s : State) : (sliceJudgement p b s).1.ports = s.ports := by
  unfold sliceJudgement judgeSearch completeSearch
  split
  · rfl
  · split
    · split
      · exact ports_endSearch ..
      · split
        · exact ports_endSearch ..
        · rfl
    · rfl

/-- The transmit block after a position's slice (R162). -/
theorem processSlice_ndout (p : PosIx) (s : State) :
    (processSlice p s).ports.ndout = (settleSlice p (stages p s) s).ports.ndout := by
  unfold processSlice
  refine inFreeOrder_keeps (P := fun t => t.ports.ndout = (settleSlice p (stages p s) s).ports.ndout) _ _ ?_ ?_ fun _ ht => ht
  · rw [ports_sliceJudgement, sliceRequests]
    split
    · rw [ports_placeRequest]
    · rfl
  · intro act ha t ht
    simp only [List.mem_cons, List.not_mem_nil, or_false] at ha
    obtain rfl | rfl | rfl | rfl := ha
    · rw [raiseAll_ports]; exact ht
    · rw [whisperCheck_ports, raiseAll_ports]; exact ht
    · rw [raiseAll_ports]; exact ht
    · rw [raiseAll_ports]; exact ht

theorem positionSlice_ndout_congr (hs : SoundAlike s t)
    (hr : { getPos s p with agent := idlePlayer } = { getPos t p with agent := idlePlayer }) (hports : s.ports = t.ports)
    (hperiod : s.period = t.period) : (positionSlice p s).ports.ndout = (positionSlice p t).ports.ndout := by
  have hready : sliceReady s p = sliceReady t p := by
    have hcall := congrArg Position.call hr
    have hdue := congrArg Position.sliceDue hr
    dsimp only at hcall hdue
    rw [sliceReady, sliceReady, processes, processes, hports, hperiod, hcall, hdue]
  unfold positionSlice
  rw [hready]
  split
  · rw [processSlice_ndout, processSlice_ndout, settleSlice_ports, settleSlice_ports, transmit_congr hs hr hports hperiod, hports]
  · rw [hports]

end

/-- Settles O55: the sums sample by sample, and the transmit block of states that differ in the AGENT players alone. -/
theorem transmitIsTheSumAndHidesTheAgent : Obligations.TransmitIsTheSumAndHidesTheAgent := by
  unfold Obligations.TransmitIsTheSumAndHidesTheAgent
  constructor
  · intro s p
    dsimp only
    obtain ⟨hnet, hagent⟩ := players_play p s
    refine ⟨netPlayers s p, agentPlayers s p, _, _, _, ⟨hnet, rfl⟩, ⟨hagent, rfl⟩, tone_plays p s, fun k hk => ⟨?_, ?_⟩⟩
    · rw [getD_transmit p s hk, getD_suppressedMic, saturate_eq]
    · rw [getD_earpiece p s hk, getD_suppressedMic, saturate_eq]
  · intro s s' t t' p h hs hs'
    have ht : positionSlice p s = t := Host.Outcome.next.inj hs
    have ht' : positionSlice p s' = t' := Host.Outcome.next.inj hs'
    have hr := congrArg (fun x : State => getPos x p) h
    simp only [withoutAgents, getPos, Fin.getElem_fin, Vector.getElem_map] at hr
    have hstore := congrArg State.store h
    have hstreams := congrArg State.streams h
    have hports := congrArg State.ports h
    have hperiod := congrArg State.period h
    rw [← ht, ← ht']
    exact positionSlice_ndout_congr ⟨hstore, hstreams⟩ hr hports hperiod

end Sys2Proof.Machine

/-! # STREAM-CLOSE (R138, R152) -/

namespace Sys2Proof.Machine

@[simp] theorem sameReport_callKey_callKey (p q : PosIx) : sameReport (callKey p) (callKey q) = decide (p = q) := by
  simp [callKey, sameReport, reportKind, reportSource, beq_eq_decide, sourceOf_injective]

@[simp] theorem sameReport_callKey_playerKey (p q : PosIx) (w : PlayerId) : sameReport (callKey p) (playerKey q w) = false := by
  rw [sameReport_comm, sameReport_playerKey_callKey]

/-! ## What a fold over different things keeps of those done -/

/-- An invariant of the things done, kept by doing one more. -/
theorem foldl_done {α : Type} {f : State → α → State} {I : List α → State → Prop}
    (h : ∀ done x t, x ∉ done → I done t → I (x :: done) (f t x)) :
    ∀ (l done : List α) (s : State), l.Nodup → (∀ x ∈ l, x ∉ done) → I done s → I (l.reverse ++ done) (l.foldl f s)
  | [], _, _, _, _, hs => hs
  | x :: rest, done, s, hn, hd, hs => by
    obtain ⟨hx, hr⟩ := List.nodup_cons.mp hn
    have ih := foldl_done h rest (x :: done) (f s x) hr
      (fun y hy => by
        rw [List.mem_cons, not_or]
        exact ⟨fun e => hx (e ▸ hy), hd y (List.mem_cons_of_mem _ hy)⟩)
      (h done x s (hd x List.mem_cons_self) hs)
    simpa using ih

/-! ## Dropped items and their reports -/

section
variable (p : PosIx) (w : PlayerId) (reason : LeaveReason) (sel : Item → Bool)

theorem dropQueued_none (l : List Item) (kept : List Item) (s : State) (h : l.filter sel = []) :
    dropQueued p w reason sel kept l s = s := by
  induction l generalizing kept with
  | nil => rfl
  | cons it rest ih =>
    have hs : sel it = false := by simpa using List.filter_eq_nil_iff.mp h it List.mem_cons_self
    rw [dropQueued, if_neg (by simp [hs])]
    exact ih _ (by simpa [hs] using h)

theorem dropStacked_none (l : List Item) (kept : List Item) (s : State) (h : l.filter sel = []) :
    dropStacked p w reason sel kept l s = s := by
  induction l generalizing kept with
  | nil => rfl
  | cons it rest ih =>
    have hs : sel it = false := by simpa using List.filter_eq_nil_iff.mp h it List.mem_cons_self
    rw [dropStacked, if_neg (by simp [hs])]
    exact ih _ (by simpa [hs] using h)

theorem filter_not_of_filter {l : List Item} (h : l.filter sel = []) : (l.filter fun it => !sel it) = l := by
  rw [List.filter_eq_self]
  intro it hi
  simpa using List.filter_eq_nil_iff.mp h it hi

/-- The last queued item to be dropped is reported with the queue that is left (R139). -/
theorem waiting_dropQueued {it : Item} (l : List Item) (kept : List Item) (s : State) (hl : (l.filter sel).getLast? = some it) :
    ∃ n, waiting (playerKey p w) (dropQueued p w reason sel kept l s) =
      some (.player p w (itemReport .itemDropped reason it 0
        { getPlayer s p w with queue := kept ++ l.filter fun x => !sel x }), n) := by
  induction l generalizing kept s with
  | nil => nomatch hl
  | cons x rest ih =>
    by_cases hx : sel x = true
    · obtain ⟨t, ht, -, -, hp⟩ := dropQueued_drops p w reason sel hx kept rest s
      rw [List.filter_cons_of_pos hx] at hl
      rw [List.filter_cons_of_neg (by simp [hx])]
      cases hr : rest.filter sel with
      | nil =>
        rw [hr] at hl
        cases hl
        rw [ht, dropQueued_none p w reason sel rest kept _ hr, waiting_reportItem, hp, filter_not_of_filter sel hr]
        exact ⟨_, rfl⟩
      | cons y ys =>
        rw [hr, List.getLast?_cons_cons, ← hr] at hl
        obtain ⟨n, hn⟩ := ih kept (reportItem p w .itemDropped reason x 0 t) hl
        rw [getPlayer_reportItem, hp] at hn
        exact ⟨n, ht ▸ hn⟩
    · rw [List.filter_cons_of_neg hx] at hl
      obtain ⟨n, hn⟩ := ih (kept ++ [x]) s hl
      rw [dropQueued, if_neg hx]
      rw [List.filter_cons_of_pos (by simpa using hx)]
      exact ⟨n, by simpa using hn⟩

/-- The last stacked item to be dropped is reported with the stack that is left (R139). -/
theorem waiting_dropStacked {it : Item} (l : List Item) (kept : List Item) (s : State) (hl : (l.filter sel).getLast? = some it) :
    ∃ n, waiting (playerKey p w) (dropStacked p w reason sel kept l s) =
      some (.player p w (itemReport .itemDropped reason it it.readOffset
        { getPlayer s p w with stack := kept ++ l.filter fun x => !sel x }), n) := by
  induction l generalizing kept s with
  | nil => nomatch hl
  | cons x rest ih =>
    by_cases hx : sel x = true
    · obtain ⟨t, ht, -, -, hp⟩ := dropStacked_drops p w reason sel hx kept rest s
      rw [List.filter_cons_of_pos hx] at hl
      rw [List.filter_cons_of_neg (by simp [hx])]
      cases hr : rest.filter sel with
      | nil =>
        rw [hr] at hl
        cases hl
        rw [ht, dropStacked_none p w reason sel rest kept _ hr, waiting_reportItem, hp, filter_not_of_filter sel hr]
        exact ⟨_, rfl⟩
      | cons y ys =>
        rw [hr, List.getLast?_cons_cons, ← hr] at hl
        obtain ⟨n, hn⟩ := ih kept (reportItem p w .itemDropped reason x x.readOffset t) hl
        rw [getPlayer_reportItem, hp] at hn
        exact ⟨n, ht ▸ hn⟩
    · rw [List.filter_cons_of_neg hx] at hl
      obtain ⟨n, hn⟩ := ih (kept ++ [x]) s hl
      rw [dropStacked, if_neg hx]
      rw [List.filter_cons_of_pos (by simpa using hx)]
      exact ⟨n, by simpa using hn⟩

end

/-! ## A player gives up a stream -/

section
variable {s t u : State} {p : PosIx} {w : PlayerId} {i : StreamIx}

/-- What a player gives up, in the order in which it is reported (R138, R139). -/
def itemsGone (i : StreamIx) (pl : Player) : List Item :=
  pl.queue.filter (namesStream i) ++ pl.stack.filter (namesStream i) ++ pl.current.toList.filter (namesStream i)

/-- A player without its queued and stacked items that name a stream. -/
def listsGiven (i : StreamIx) (pl : Player) : Player :=
  ⟨pl.current, pl.stack.filter fun it => !namesStream i it, pl.queue.filter fun it => !namesStream i it⟩

theorem givenUp_eq (i : StreamIx) (pl : Player) :
    givenUp i pl = if pl.current.any (namesStream i) then succession (listsGiven i pl) else listsGiven i pl := rfl

theorem itemsGone_of_holds_not {pl : Player} (h : holdsStream i pl = false) : itemsGone i pl = [] ∧ givenUp i pl = pl := by
  simp only [holdsStream, Bool.or_eq_false_iff, List.any_eq_false, Option.any_eq_false] at h
  obtain ⟨⟨hc, hs⟩, hq⟩ := h
  have hqf : pl.queue.filter (namesStream i) = [] := List.filter_eq_nil_iff.mpr hq
  have hsf : pl.stack.filter (namesStream i) = [] := List.filter_eq_nil_iff.mpr hs
  have hany : pl.current.any (namesStream i) = false := (Option.any_eq_false _ _).mpr hc
  refine ⟨?_, ?_⟩
  · rw [itemsGone, hqf, hsf]
    cases hcur : pl.current with
    | none => rfl
    | some it =>
      rw [hcur] at hany
      have hn : namesStream i it = false := hany
      simp [hn]
  · rw [givenUp_eq, hany, if_neg (by simp), listsGiven, filter_not_of_filter _ hsf, filter_not_of_filter _ hqf]

/-- The event that the last item to be given up is reported with (R139). -/
def givenEvent (i : StreamIx) (pl : Player) : ItemEvent := if pl.current.any (namesStream i) then .itemEnd else .itemDropped

/-- The report of what a player gave up waits (R138, R139). -/
def GivenWaits (i : StreamIx) (u : State) (p : PosIx) (w : PlayerId) (pl : Player) : Prop :=
  ∀ it, (itemsGone i pl).getLast? = some it → ∃ n, min (itemsGone i pl).length 255 ≤ n ∧
    waiting (playerKey p w) u = some (.player p w (itemReport (givenEvent i pl) .sourceClosed it 0 (givenUp i pl)), n)

theorem GivenWaits.mono {pl : Player} (h : GivenWaits i t p w pl) (hw : waiting (playerKey p w) u = waiting (playerKey p w) t) :
    GivenWaits i u p w pl := fun it hi => let ⟨n, hn, e⟩ := h it hi; ⟨n, hn, hw.trans e⟩

/-- A stream item has no read offset to report. -/
theorem itemReport_stream {it : Item} (h : namesStream i it = true) (ev : ItemEvent) (reason : LeaveReason) (a b : Nat)
    (pl : Player) : itemReport ev reason it a pl = itemReport ev reason it b pl := by
  have hs : it.source = .stream i := by simpa [namesStream] using h
  simp [itemReport, clipOffset, hs]

theorem bare_giveUpStream (i : StreamIx) (p : PosIx) (w : PlayerId) (s : State) :
    bare (giveUpStream i p w s) = bare (putPlayer s p w (givenUp i (getPlayer s p w))) := by
  have hd := bare_dropLists p w .sourceClosed (namesStream i) s
  have hg := getPlayer_dropLists p w .sourceClosed (namesStream i) s
  have hc : (getPlayer (dropLists p w .sourceClosed (namesStream i) s) p w).current = (getPlayer s p w).current := by rw [hg]
  unfold giveUpStream
  dsimp only
  rw [hc, givenUp_eq]
  by_cases ha : (getPlayer s p w).current.any (namesStream i) = true
  · have hsome : (getPlayer s p w).current.isSome = true := by
      cases hx : (getPlayer s p w).current <;> simp_all
    rw [if_pos ha, if_pos ha, bare_endCurrent, hc, if_pos hsome, hg, bare_putPlayer p w hd, putPlayer_putPlayer]
    rfl
  · rw [if_neg ha, if_neg ha, hd]
    rfl

theorem raisesOnly_giveUpStream (i : StreamIx) (p : PosIx) (w : PlayerId) (s : State) :
    RaisesOnly (playerKey p w) s (giveUpStream i p w s) := by
  unfold giveUpStream
  dsimp only
  split
  · exact (raisesOnly_dropLists ..).trans (raisesOnly_endCurrent ..)
  · exact raisesOnly_dropLists ..

/-- The last item of the lists to be dropped is reported with the lists that are left (R138, R139). -/
theorem waiting_dropLists_stream {it : Item}
    (hl : ((getPlayer s p w).queue.filter (namesStream i) ++ (getPlayer s p w).stack.filter (namesStream i)).getLast? = some it) :
    ∃ n, waiting (playerKey p w) (dropLists p w .sourceClosed (namesStream i) s) =
      some (.player p w (itemReport .itemDropped .sourceClosed it 0 (listsGiven i (getPlayer s p w))), n) := by
  have hq := getPlayer_dropQueued p w .sourceClosed (namesStream i) s (getPlayer s p w).queue [] rfl
  rw [dropLists, hq]
  cases hst : (getPlayer s p w).stack.filter (namesStream i) with
  | nil =>
    rw [hst, List.append_nil] at hl
    rw [dropStacked_none p w _ _ _ _ _ hst]
    obtain ⟨n, hn⟩ := waiting_dropQueued p w .sourceClosed (namesStream i) _ [] s hl
    rw [listsGiven, filter_not_of_filter _ hst]
    exact ⟨n, hn⟩
  | cons y ys =>
    have hlast : ((getPlayer s p w).stack.filter (namesStream i)).getLast? = some it := by
      rw [hst] at hl ⊢
      rwa [List.getLast?_append_cons] at hl
    obtain ⟨n, hn⟩ := waiting_dropStacked p w .sourceClosed (namesStream i) _ []
      (dropQueued p w .sourceClosed (namesStream i) [] (getPlayer s p w).queue s) hlast
    rw [hq] at hn
    have hname : namesStream i it = true := (List.mem_filter.mp (List.mem_of_getLast? hlast)).2
    exact ⟨n, by rw [hn, itemReport_stream hname _ _ it.readOffset 0]; rfl⟩

/-- What a player gives up is reported, last first (R138, R139). -/
theorem givenWaits_giveUpStream (i : StreamIx) (p : PosIx) (w : PlayerId) (s : State) :
    GivenWaits i (giveUpStream i p w s) p w (getPlayer s p w) := by
  intro it hit
  have hg := getPlayer_dropLists p w .sourceClosed (namesStream i) s
  have hcount := waitingCount_dropLists p w .sourceClosed (namesStream i) s
  have hc : (getPlayer (dropLists p w .sourceClosed (namesStream i) s) p w).current = (getPlayer s p w).current := by rw [hg]
  unfold giveUpStream givenEvent
  dsimp only
  rw [hc, givenUp_eq]
  by_cases ha : (getPlayer s p w).current.any (namesStream i) = true
  · obtain ⟨cur, hcur, hname⟩ := (Option.any_eq_true _ _).mp ha
    have hgone : itemsGone i (getPlayer s p w) =
        (getPlayer s p w).queue.filter (namesStream i) ++ (getPlayer s p w).stack.filter (namesStream i) ++ [cur] := by
      rw [itemsGone, hcur]
      simp [hname]
    rw [hgone, List.getLast?_concat] at hit
    cases hit
    rw [if_pos ha, if_pos ha, if_pos ha, waiting_endCurrent p w _ _ (hc.trans hcur), hg,
      itemReport_stream hname _ _ it.readOffset 0]
    refine ⟨_, ?_, rfl⟩
    rw [hgone]
    simp only [List.length_append, List.length_singleton]
    omega
  · have hgone : itemsGone i (getPlayer s p w) =
        (getPlayer s p w).queue.filter (namesStream i) ++ (getPlayer s p w).stack.filter (namesStream i) := by
      rw [itemsGone]
      cases hcur : (getPlayer s p w).current with
      | none => simp
      | some cur =>
        rw [hcur] at ha
        have hn : namesStream i cur = false := by simpa using ha
        simp [hn]
    rw [hgone] at hit ⊢
    rw [if_neg ha, if_neg ha, if_neg ha]
    obtain ⟨n, hn⟩ := waiting_dropLists_stream hit
    refine ⟨n, ?_, hn⟩
    have hwc : waitingCount (playerKey p w) (dropLists p w .sourceClosed (namesStream i) s) = n := by rw [waitingCount, hn]; rfl
    rw [hwc] at hcount
    rw [List.length_append]
    omega

/-! ## Every holder gives up the stream -/

/-- A player after the give-ups of those in a list. -/
def givenIn (i : StreamIx) (s : State) (done : List (PosIx × PlayerId)) (p : PosIx) (w : PlayerId) : Player :=
  if (p, w) ∈ done then givenUp i (getPlayer s p w) else getPlayer s p w

/-- What the give-ups of the players in a list have made of a state (R138). -/
structure GaveUp (i : StreamIx) (s : State) (done : List (PosIx × PlayerId)) (t : State) : Prop where
  frame : bare t = { bare s with positions := t.positions }
  draws : t.draws = s.draws
  records : ∀ q, getPos t q = { getPos s q with net := givenIn i s done q .net, agent := givenIn i s done q .agent }
  reports : ∀ x ∈ done, GivenWaits i t x.1 x.2 (getPlayer s x.1 x.2)

theorem GaveUp.start (i : StreamIx) (s : State) : GaveUp i s [] s :=
  ⟨rfl, rfl, fun _ => by simp [givenIn, getPlayer, playerOf], fun _ h => nomatch h⟩

theorem GaveUp.getPlayer {done : List (PosIx × PlayerId)} (h : GaveUp i s done t) (q : PosIx) (v : PlayerId) :
    getPlayer t q v = givenIn i s done q v := by
  rw [Machine.getPlayer, h.records q]
  cases v <;> rfl

/-- A frame of the positions alone, through a change of one record. -/
theorem frame_putPos {r : Position} (h : bare t = { bare s with positions := t.positions }) (hu : bare u = bare (putPos t p r)) :
    bare u = { bare s with positions := u.positions } := by
  have hp := positions_of_bare hu
  rw [hu, hp]
  show { bare t with positions := (putPos t p r).positions } = _
  rw [h]

theorem GaveUp.more {done : List (PosIx × PlayerId)} (h : GaveUp i s done t) {x : PosIx × PlayerId} (hx : x ∉ done) :
    GaveUp i s (x :: done) (giveUpStream i x.1 x.2 t) := by
  obtain ⟨p, w⟩ := x
  have hb := bare_giveUpStream i p w t
  have hraise := raisesOnly_giveUpStream i p w t
  have hpl : Machine.getPlayer t p w = Machine.getPlayer s p w := by rw [h.getPlayer, givenIn, if_neg hx]
  rw [hpl] at hb
  refine ⟨frame_putPos h.frame hb, hraise.1.trans h.draws, fun q => ?_, fun y hy => ?_⟩
  · rw [getPos_of_bare hb, putPlayer, getPos_putPos]
    by_cases hq : p = q
    · subst hq
      rw [if_pos rfl, h.records p]
      cases w <;> simp [withPlayer, givenIn]
    · rw [if_neg hq, h.records q]
      have hne : ∀ v, ((q, v) ∈ (p, w) :: done) ↔ (q, v) ∈ done := by
        intro v
        simp [Ne.symm hq]
      simp only [givenIn, hne]
  · obtain rfl | hy := List.mem_cons.mp hy
    · have hw := givenWaits_giveUpStream i p w t
      rwa [hpl] at hw
    · refine (h.reports y hy).mono (hraise.2 _ ?_)
      rw [sameReport_playerKey_playerKey]
      refine decide_eq_false fun he => hx ?_
      obtain ⟨q, v⟩ := y
      obtain ⟨h1, h2⟩ := he
      dsimp only at h1 h2
      rwa [← h1, ← h2]

theorem nodup_allPlayers : allPlayers.Nodup := by decide

theorem mem_allPlayers (p : PosIx) (w : PlayerId) : (p, w) ∈ allPlayers := by
  cases w <;> simp [allPlayers, allPositions]

theorem nodup_streamHolders (i : StreamIx) (s : State) : (streamHolders i s).Nodup :=
  (freeOrder_perm _ _).nodup_iff.mpr (nodup_allPlayers.filter _)

theorem mem_streamHolders (i : StreamIx) (s : State) (p : PosIx) (w : PlayerId) :
    (p, w) ∈ streamHolders i s ↔ holdsStream i (getPlayer s p w) = true := by
  rw [streamHolders, (freeOrder_perm _ _).mem_iff, List.mem_filter]
  exact ⟨fun h => h.2, fun h => ⟨mem_allPlayers p w, h⟩⟩

/-- The state after every give-up (R138). -/
def streamGiven (i : StreamIx) (s : State) : State := (streamHolders i s).foldl (fun t x => giveUpStream i x.1 x.2 t) s

theorem gaveUp_streamGiven (i : StreamIx) (s : State) : GaveUp i s (streamHolders i s).reverse (streamGiven i s) := by
  have h := foldl_done (f := fun t x => giveUpStream i x.1 x.2 t) (I := GaveUp i s) (fun done x t hx ht => ht.more hx)
    (streamHolders i s) [] s (nodup_streamHolders i s) (fun _ _ => List.not_mem_nil) (.start i s)
  rwa [List.append_nil] at h

theorem givenIn_holders (i : StreamIx) (s : State) (p : PosIx) (w : PlayerId) :
    givenIn i s (streamHolders i s).reverse p w = givenUp i (getPlayer s p w) := by
  have hm : (p, w) ∈ (streamHolders i s).reverse ↔ holdsStream i (getPlayer s p w) = true :=
    List.mem_reverse.trans (mem_streamHolders i s p w)
  unfold givenIn
  split
  · rfl
  · rename_i h
    exact (itemsGone_of_holds_not (by simpa using mt hm.mpr h)).2.symm

theorem streamGiven_record (i : StreamIx) (s : State) (p : PosIx) :
    getPos (streamGiven i s) p =
      { getPos s p with net := givenUp i (getPos s p).net, agent := givenUp i (getPos s p).agent } := by
  rw [(gaveUp_streamGiven i s).records, givenIn_holders, givenIn_holders]
  rfl

theorem streamGiven_reports (i : StreamIx) (s : State) (p : PosIx) (w : PlayerId) :
    GivenWaits i (streamGiven i s) p w (getPlayer s p w) := by
  by_cases h : holdsStream i (getPlayer s p w) = true
  · exact (gaveUp_streamGiven i s).reports (p, w) (List.mem_reverse.mpr ((mem_streamHolders i s p w).mpr h))
  · intro it hit
    rw [(itemsGone_of_holds_not (by simpa using h)).1] at hit
    nomatch hit

/-! ## The whispers that follow -/

/-- A whisper done of a position is due: its AGENT player played in one state and is IDLE in the next (R7). -/
def WhisperDue (s g : State) (q : PosIx) : Prop :=
  (getPos s q).agent.current.isSome = true ∧ (getPos g q).call = .announce ∧ (getPos g q).agent.current = none

/-- The CALL report of a whisper done waits (R14). -/
def WhisperWaits (u : State) (p : PosIx) (r : Position) : Prop :=
  ∃ n, waiting (callKey p) u = some (.call p .connected r.mute r.announceTag, n)

theorem WhisperWaits.mono {r : Position} (h : WhisperWaits t p r) (hw : waiting (callKey p) u = waiting (callKey p) t) :
    WhisperWaits u p r := let ⟨n, e⟩ := h; ⟨n, hw.trans e⟩

theorem WhisperWaits.report {r : Position} (h : WhisperWaits u p r) : WhisperReport u p r := let ⟨n, e⟩ := h; ⟨n, waiting_mem e⟩

theorem whisperWaits_whisperDone (p : PosIx) (u : State) (hn : PlayerOk (getPos u p).net) :
    WhisperWaits (whisperDone p u) p (getPos u p) := by
  have hc : callReport p (whisperCleared p u) = .call p .connected (getPos u p).mute (getPos u p).announceTag := by
    rw [callReport, ((leaves_self u p).whisperCleared hn.1).getPos_self]
  rw [WhisperWaits, whisperDone_eq, hc, waiting_raise_same (sameReport_callKey ..)]
  exact ⟨_, rfl⟩

/-- Another report than the call's stays, and the NET player's where that is IDLE. -/
theorem waiting_whisperDone_idle {b : ReportBody} (hc : sameReport b (callKey p) = false)
    (hn : sameReport b (playerKey p .net) = false ∨ (getPos u p).net = idlePlayer) : waiting b (whisperDone p u) = waiting b u := by
  obtain hn | hn := hn
  · exact waiting_whisperDone hn hc
  · have hidle : getPlayer (putPos u p { getPos u p with call := .connected }) p .net = idlePlayer := by
      simp [getPlayer, playerOf, hn]
    rw [whisperDone_eq, (raisesOnly_raise (k := callKey p) (b := callReport p _) (sameReport_callKey ..)).2 b hc, whisperCleared,
      clearPlayer_idle p .net .cleared _ hidle, waiting_putPos]

/-- What the whispers of the players in a list have made of a state (R7, R138). -/
structure Whispered (s g : State) (done : List (PosIx × PlayerId)) (t : State) : Prop where
  frame : bare t = { bare g with positions := t.positions }
  draws : t.draws = g.draws
  others : ∀ q, ¬((q, .agent) ∈ done ∧ WhisperDue s g q) → getPos t q = getPos g q
  records : ∀ q, (q, .agent) ∈ done → WhisperDue s g q → getPos t q = { getPos g q with call := .connected, net := idlePlayer }
  reports : ∀ q, (q, .agent) ∈ done → WhisperDue s g q → WhisperWaits t q (getPos g q) ∧ ClearedWaits t q .net (getPos g q).net
  waits : ∀ b, (∀ q, WhisperDue s g q → sameReport b (callKey q) = false ∧
    (sameReport b (playerKey q .net) = false ∨ (getPos g q).net = idlePlayer)) → waiting b t = waiting b g

/-- The whisper check that follows the give-up of a player (R138). -/
def closeWhisper (s : State) (t : State) (x : PosIx × PlayerId) : State :=
  if x.2 = .agent then whisperCheck x.1 (getPlayer s x.1 .agent).current.isSome t else t

theorem Whispered.start (s g : State) : Whispered s g [] g :=
  ⟨rfl, rfl, fun _ _ => rfl, fun _ h => absurd h List.not_mem_nil, fun _ h => absurd h List.not_mem_nil, fun _ _ => rfl⟩

/-- A thing done that whispers nothing. -/
theorem Whispered.quiet {g : State} {done : List (PosIx × PlayerId)} {x : PosIx × PlayerId} (h : Whispered s g done t)
    (hx : ¬(x.2 = .agent ∧ WhisperDue s g x.1)) : Whispered s g (x :: done) t := by
  have hm : ∀ q, WhisperDue s g q → (q, .agent) ∈ x :: done → (q, .agent) ∈ done := by
    intro q hq hmem
    obtain rfl | hmem := List.mem_cons.mp hmem
    · exact absurd ⟨rfl, hq⟩ hx
    · exact hmem
  exact ⟨h.frame, h.draws, fun q hq => h.others q fun hc => hq ⟨List.mem_cons_of_mem _ hc.1, hc.2⟩,
    fun q hmem hq => h.records q (hm q hq hmem) hq, fun q hmem hq => h.reports q (hm q hq hmem) hq, h.waits⟩

theorem Whispered.more {g : State} {done : List (PosIx × PlayerId)} (hg : PlayersHold g) (h : Whispered s g done t)
    {x : PosIx × PlayerId} (hx : x ∉ done) : Whispered s g (x :: done) (closeWhisper s t x) := by
  obtain ⟨p, w⟩ := x
  by_cases hw : w = .agent
  swap
  · rw [closeWhisper, if_neg hw]
    exact h.quiet fun hc => hw hc.1
  subst hw
  have hp : getPos t p = getPos g p := h.others p fun hc => hx hc.1
  rw [closeWhisper, if_pos rfl]
  show Whispered s g _ (whisperCheck p (getPos s p).agent.current.isSome t)
  by_cases hd : WhisperDue s g p
  swap
  · rw [whisperCheck_neg (by rw [hp]; exact hd)]
    exact h.quiet fun hc => hd hc.2
  obtain ⟨h1, h2, h3⟩ := hd
  rw [whisperCheck_pos h1 (by rw [hp]; exact h2) (by rw [hp]; exact h3)]
  have hn : PlayerOk (getPos t p).net := by rw [hp]; exact (hg p).1
  have hl := (leaves_self t p).whisperDone hn.1
  have hother : ∀ {q}, (q, PlayerId.agent) ∈ done → p ≠ q := fun hq e => hx (e ▸ hq)
  refine ⟨frame_putPos h.frame hl.1, hl.2.trans h.draws, fun q hq => ?_, fun q hmem hq => ?_, fun q hmem hq => ?_, fun b hb => ?_⟩
  · have hne : q ≠ p := fun e => hq ⟨e ▸ List.mem_cons_self, e ▸ ⟨h1, h2, h3⟩⟩
    rw [hl.getPos_ne hne]
    exact h.others q fun hc => hq ⟨List.mem_cons_of_mem _ hc.1, hc.2⟩
  · obtain he | hmem := List.mem_cons.mp hmem
    · cases he
      rw [hl.getPos_self, hp]
    · rw [hl.getPos_ne (hother hmem).symm]
      exact h.records q hmem hq
  · obtain he | hmem := List.mem_cons.mp hmem
    · cases he
      have hr := whisperWaits_whisperDone p t hn
      have hc := clearedWaits_whisperDone p t
      rw [hp] at hr hc
      exact ⟨hr, hc⟩
    · obtain ⟨hr, hc⟩ := h.reports q hmem hq
      have hne := (hother hmem).symm
      exact ⟨hr.mono (waiting_whisperDone (by simp) (by simp [hne])), hc.mono (waiting_whisperDone (by simp [hne]) (by simp))⟩
  · obtain ⟨hcall, hnet⟩ := hb p ⟨h1, h2, h3⟩
    rw [waiting_whisperDone_idle hcall (by rw [hp]; exact hnet)]
    exact h.waits b hb

theorem whispered_closeWhispers {g : State} (hg : PlayersHold g) {l : List (PosIx × PlayerId)} (hl : l.Nodup) :
    Whispered s g l.reverse (closeWhispers l s g) := by
  have h := foldl_done (f := closeWhisper s) (I := Whispered s g) (fun done x t hx ht => ht.more hg hx) l [] g hl
    (fun _ _ => List.not_mem_nil) (.start s g)
  rwa [List.append_nil] at h

/-! ## The close -/

/-- What a close leaves before the record is closed (R138, R152). -/
def streamLeft (i : StreamIx) (s : State) : State := closeWhispers (streamHolders i s) s (streamGiven i s)

theorem closeStream_eq (i : StreamIx) (s : State) :
    closeStream i s = putStream (spendDraw (streamLeft i s)) i (keepSlice (getStream s i) closedStream) := rfl

theorem playersHold_streamGiven (h : PlayersHold s) (i : StreamIx) : PlayersHold (streamGiven i s) :=
  foldl_keeps (P := PlayersHold) (fun _ _ ht => playersHold_giveUpStream ht _ _ _) _ _ h

theorem whispered_streamLeft (h : PlayersHold s) (i : StreamIx) :
    Whispered s (streamGiven i s) (streamHolders i s).reverse (streamLeft i s) :=
  whispered_closeWhispers (playersHold_streamGiven h i) (nodup_streamHolders i s)

/-- A close leaves the AGENT player of a whispering position IDLE. -/
theorem whisperDue_iff (i : StreamIx) (s : State) (p : PosIx) :
    WhisperDue s (streamGiven i s) p ↔
      (getPos s p).call = .announce ∧ (getPos s p).agent.current ≠ none ∧ (givenUp i (getPos s p).agent).current = none := by
  rw [WhisperDue, streamGiven_record, Option.isSome_iff_ne_none]
  exact ⟨fun ⟨a, b, c⟩ => ⟨b, a, c⟩, fun ⟨a, b, c⟩ => ⟨b, a, c⟩⟩

theorem mem_holders_of_whisperDue {i : StreamIx} (hd : WhisperDue s (streamGiven i s) p) :
    (p, .agent) ∈ (streamHolders i s).reverse := by
  rw [List.mem_reverse, mem_streamHolders]
  obtain ⟨-, ha, hg⟩ := (whisperDue_iff i s p).mp hd
  refine Bool.of_not_eq_false fun hf => ha ?_
  have he : givenUp i (getPos s p).agent = (getPos s p).agent := (itemsGone_of_holds_not hf).2
  rwa [he] at hg

theorem bare_putStream {s t : State} (h : bare s = bare t) (i : StreamIx) (r : Stream) :
    bare (putStream s i r) = bare (putStream t i r) := by
  have hs := congrArg State.streams h
  have hx : ∀ x : State, bare (putStream x i r) = putStream (bare x) i { r with listeners := 0 } := by
    intro x
    simp [bare, putStream, Vector.map_set]
  rw [hx, hx, h]

end

/-- Settles O52: every holder gives up the stream, then the whispers that are due follow, then the record is closed. -/
theorem streamCloseEndsEveryItem : Obligations.StreamCloseEndsEveryItem := by
  unfold Obligations.StreamCloseEndsEveryItem
  refine ⟨fun s tag stream h hi => ?_, fun s tag i h hp => ?_⟩
  · rw [exec_streamClose h, perform, streamCloseCommand, onDevice_device, byteAt_cons_zero, onStream_bad s hi, answered_refuse]
  dsimp only
  have he : ∀ a : StreamIx → Answer, onDevice s (0xFF : Byte).toNat (onStream s (byteAt [streamByte i] 0) fun i => a i) = a i := by
    intro a
    rw [onDevice_device, byteAt_cons_zero, onStream_streamByte]
  refine ⟨fun hc => ?_, fun hc => ?_⟩
  · rw [exec_streamClose h, perform, streamCloseCommand, he, if_pos hc, answered_taken]
  have hold : PlayersHold s := hp
  have hw := whispered_streamLeft hold i
  have hg := gaveUp_streamGiven i s
  have hdue := whisperDue_iff i s
  have hwait : ∀ b, waiting b (closeStream i s) = waiting b (streamLeft i s) := fun b => rfl
  have hrecord : ∀ p, getPos (closeStream i s) p = getPos (streamLeft i s) p := fun p => rfl
  refine ⟨closeStream i s, ?_, ?_, ?_, fun p hn => ?_, fun p hn => ?_, fun p w hn => ?_, fun p hn => ?_, ?_⟩
  · rw [exec_streamClose h, perform, streamCloseCommand, he, if_neg hc, answered_taken]
  · rw [closeStream_eq, getStream_reset]
    simp [getStream, putStream, keepSlice]
  · rw [closeStream_eq, getStream_reset]
    refine bare_putStream ?_ i _
    rw [bare_spendDraw, hw.frame, hg.frame]
    rfl
  · rw [hrecord, hw.others p fun hx => hn ((hdue p).mp hx.2), streamGiven_record]
  · have hd := (hdue p).mpr hn
    rw [hrecord, hw.records p (mem_holders_of_whisperDue hd) hd, streamGiven_record]
    rfl
  · intro it hit
    obtain ⟨n, hcount, hw'⟩ := streamGiven_reports i s p w it hit
    refine itemLeft_of_waiting p w .sourceClosed (n := n) ?_ hcount
    rw [hwait, hw.waits _ fun q hq => ⟨by simp, ?_⟩]
    · exact hw'
    · rw [sameReport_playerKey_playerKey]
      by_cases hpq : p = q ∧ w = .net
      · obtain ⟨rfl, rfl⟩ := hpq
        have hidle : (givenUp i (getPos s p).net).current = none := by
          by_contra hx
          exact hn ⟨(hdue p).mp hq, rfl, hx⟩
        obtain ⟨h1, h2⟩ := (playersHold_streamGiven hold i p).1.1 (by rw [streamGiven_record]; exact hidle)
        rw [streamGiven_record] at h1 h2 ⊢
        refine .inr ?_
        cases hx : givenUp i (getPos s p).net
        simp_all [idlePlayer]
      · exact .inl (decide_eq_false hpq)
  · have hd := (hdue p).mpr hn
    obtain ⟨hr, hcl⟩ := hw.reports p (mem_holders_of_whisperDue hd) hd
    rw [streamGiven_record] at hr hcl
    exact ⟨(hr.mono (hwait _)).report, (hcl.mono (hwait _)).report⟩
  · show (streamLeft i s).draws + 1 = s.draws + 1
    rw [hw.draws, hg.draws]

end Sys2Proof.Machine

/-! # Reference and listener counts of a cleared player and of a slice (R114, R135) -/

namespace Sys2Proof.Machine

/-! ## Sums over the players -/

/-- Two sums over different things that agree in all but one. -/
theorem sum_map_of_one_differs {α : Type} {f g : α → Nat} {x : α} :
    ∀ {l : List α}, l.Nodup → x ∈ l → (∀ y ∈ l, y ≠ x → f y = g y) → (l.map f).sum + g x = (l.map g).sum + f x
  | y :: rest, hn, hx, h => by
    obtain ⟨hy, hr⟩ := List.nodup_cons.mp hn
    simp only [List.map_cons, List.sum_cons]
    by_cases he : y = x
    · subst he
      have hrest : rest.map f = rest.map g :=
        List.map_congr_left fun z hz => h z (List.mem_cons_of_mem _ hz) fun e => hy (e ▸ hz)
      rw [hrest]
      omega
    · have hx' : x ∈ rest := (List.mem_cons.mp hx).resolve_left (Ne.symm he)
      have ih := sum_map_of_one_differs (f := f) (g := g) hr hx' fun z hz => h z (List.mem_cons_of_mem _ hz)
      rw [h y List.mem_cons_self he]
      omega

theorem countP_eq_sum {α : Type} (q : α → Bool) (l : List α) : l.countP q = (l.map fun x => if q x then 1 else 0).sum := by
  induction l with
  | nil => rfl
  | cons x rest ih => rw [List.countP_cons, ih, List.map_cons, List.sum_cons, Nat.add_comm]

/-- The items of a player that name a clip. -/
def namedBy (c : ClipIx) (pl : Player) : Nat := (heldItems pl).countP fun it => it.source == .clip c

/-- 1 where a player's current item names a stream. -/
def hears (i : StreamIx) (pl : Player) : Nat := if pl.current.any (namesStream i) then 1 else 0

section
variable {s t : State} {p : PosIx} {w : PlayerId} {pl : Player}

theorem itemsNaming_eq (s : State) (c : ClipIx) : itemsNaming s c = (allPlayers.map fun x => namedBy c (getPlayer s x.1 x.2)).sum :=
  List.countP_flatMap ..

theorem listenersOf_eq (s : State) (i : StreamIx) : listenersOf s i = (allPlayers.map fun x => hears i (getPlayer s x.1 x.2)).sum :=
  countP_eq_sum ..

theorem getPlayer_putPlayer_of_ne (s : State) (pl : Player) {x : PosIx × PlayerId} (h : x ≠ (p, w)) :
    getPlayer (putPlayer s p w pl) x.1 x.2 = getPlayer s x.1 x.2 := by
  obtain ⟨q, v⟩ := x
  by_cases hq : p = q
  · subst hq
    exact getPlayer_putPlayer_other s p w v pl fun e => h (by rw [e])
  · exact getPlayer_putPlayer_ne s p q w v pl hq

/-- A sum over the players when one player changes. -/
theorem sum_putPlayer (f : Player → Nat) (hb : bare t = bare (putPlayer s p w pl)) :
    (allPlayers.map fun x => f (getPlayer t x.1 x.2)).sum + f (getPlayer s p w) =
      (allPlayers.map fun x => f (getPlayer s x.1 x.2)).sum + f pl := by
  have h := sum_map_of_one_differs (f := fun x : PosIx × PlayerId => f (getPlayer t x.1 x.2))
    (g := fun x : PosIx × PlayerId => f (getPlayer s x.1 x.2)) nodup_allPlayers (mem_allPlayers p w) fun y _ hy => by
      rw [getPlayer_of_bare _ _ hb, getPlayer_putPlayer_of_ne s pl hy]
  dsimp only at h
  rwa [getPlayer_of_bare _ _ hb, getPlayer_putPlayer_self] at h

theorem mem_allItems (s : State) (it : Item) : it ∈ allItems s ↔ ∃ p w, it ∈ heldItems (getPlayer s p w) := by
  simp only [allItems, List.mem_flatMap]
  exact ⟨fun ⟨x, _, h⟩ => ⟨x.1, x.2, h⟩, fun ⟨p, w, h⟩ => ⟨(p, w), mem_allPlayers p w, h⟩⟩

/-! ## Counts that follow one player -/

theorem clip_of_bare (h : bare s = bare t) (c : ClipIx) : { getClip s c with refCount := 0 } = { getClip t c with refCount := 0 } :=
  SoundAlike.clip ⟨congrArg State.store h, congrArg State.streams h⟩ c

theorem stream_of_bare (h : bare s = bare t) (i : StreamIx) :
    { getStream s i with listeners := 0 } = { getStream t i with listeners := 0 } :=
  SoundAlike.stream ⟨congrArg State.store h, congrArg State.streams h⟩ i

/-- Items left a player, and the reference counts fell with them (R114). -/
theorem CountsOk.leave (h : CountsOk s) (hb : bare t = bare (putPlayer s p w pl))
    (hr : ∀ c, (getClip t c).refCount + namedBy c (getPlayer s p w) = (getClip s c).refCount + namedBy c pl)
    (hle : ∀ c, (getClip t c).refCount ≤ (getClip s c).refCount) : CountsOk t := by
  intro c
  obtain ⟨hc, hz⟩ := h c
  have hs : (getClip t c).state = (getClip s c).state := (congrArg Clip.state (clip_of_bare hb c)).trans rfl
  have hsum := sum_putPlayer (namedBy c) hb
  have := hr c
  rw [← itemsNaming_eq, ← itemsNaming_eq] at hsum
  refine ⟨by omega, fun hne => ?_⟩
  have := hz (hs ▸ hne)
  have := hle c
  omega

/-- A player's items changed, and the listener counts with its current item (R135). -/
theorem ListenersOk.change (h : ListenersOk s) (hb : bare t = bare (putPlayer s p w pl))
    (hl : ∀ i, (getStream t i).listeners + hears i (getPlayer s p w) = (getStream s i).listeners + hears i pl)
    (hsub : ∀ it ∈ heldItems pl, ∃ jt ∈ heldItems (getPlayer s p w), jt.source = it.source) : ListenersOk t := by
  intro i
  obtain ⟨hc, hz⟩ := h i
  have hs : (getStream t i).state = (getStream s i).state := (congrArg Stream.state (stream_of_bare hb i)).trans rfl
  have hsum := sum_putPlayer (hears i) hb
  have := hl i
  rw [← listenersOf_eq, ← listenersOf_eq] at hsum
  refine ⟨by omega, fun hcl => ?_⟩
  have hnone := List.any_eq_false.mp (hz (hs ▸ hcl))
  refine List.any_eq_false.mpr fun it hit => ?_
  obtain ⟨q, v, hm⟩ := (mem_allItems t it).mp hit
  rw [getPlayer_of_bare q v hb] at hm
  by_cases he : (q, v) = (p, w)
  · cases he
    rw [getPlayer_putPlayer_self] at hm
    obtain ⟨jt, hj, hsrc⟩ := hsub it hm
    have := hnone jt ((mem_allItems s jt).mpr ⟨_, _, hj⟩)
    rwa [namesStream, hsrc] at this
  · have hne : getPlayer (putPlayer s p w pl) q v = getPlayer s q v := getPlayer_putPlayer_of_ne s pl (x := (q, v)) he
    rw [hne] at hm
    exact hnone it ((mem_allItems s it).mpr ⟨q, v, hm⟩)

end

/-! ## The counts after each operation -/

section
variable (c : ClipIx) (i : StreamIx) (src : Source) (s : State)

theorem refCount_clipLeaves :
    (getClip (clipLeaves src s) c).refCount = (getClip s c).refCount - if src == .clip c then 1 else 0 := by
  cases src with
  | stream j => rfl
  | clip d =>
    rw [clipLeaves, getClip_putClip]
    by_cases h : d = c
    · subst h; simp
    · simp [h]

@[simp] theorem getClip_listens : getClip (listens src s) c = getClip s c := by cases src <;> rfl
@[simp] theorem getClip_unlistens : getClip (unlistens src s) c = getClip s c := by cases src <;> rfl
@[simp] theorem getStream_clipLeaves : getStream (clipLeaves src s) i = getStream s i := by cases src <;> rfl
@[simp] theorem getClip_listensCurrent (pl : Player) : getClip (listensCurrent pl s) c = getClip s c := by
  unfold listensCurrent; split <;> simp

theorem listeners_listens :
    (getStream (listens src s) i).listeners = (getStream s i).listeners + if src == .stream i then 1 else 0 := by
  cases src with
  | clip d => rfl
  | stream j =>
    rw [listens, getStream_putStream]
    by_cases h : j = i
    · subst h; simp
    · simp [h]

theorem listeners_unlistens :
    (getStream (unlistens src s) i).listeners = (getStream s i).listeners - if src == .stream i then 1 else 0 := by
  cases src with
  | clip d => rfl
  | stream j =>
    rw [unlistens, getStream_putStream]
    by_cases h : j = i
    · subst h; simp
    · simp [h]

end

section
variable (p : PosIx) (w : PlayerId) (reason : LeaveReason) (sel : Item → Bool) (c : ClipIx) (i : StreamIx)

theorem refCount_dropQueued (l kept : List Item) (s : State) :
    (getClip (dropQueued p w reason sel kept l s) c).refCount =
      (getClip s c).refCount - (l.filter sel).countP fun it => it.source == .clip c := by
  induction l generalizing kept s with
  | nil => rfl
  | cons it rest ih =>
    rw [dropQueued]
    by_cases h : sel it = true
    · rw [if_pos h, ih, reportItem, getClip_raise, refCount_clipLeaves, List.filter_cons_of_pos h, List.countP_cons, Nat.sub_sub,
        Nat.add_comm]
      rfl
    · rw [if_neg h, ih, List.filter_cons_of_neg h]

theorem refCount_dropStacked (l kept : List Item) (s : State) :
    (getClip (dropStacked p w reason sel kept l s) c).refCount =
      (getClip s c).refCount - (l.filter sel).countP fun it => it.source == .clip c := by
  induction l generalizing kept s with
  | nil => rfl
  | cons it rest ih =>
    rw [dropStacked]
    by_cases h : sel it = true
    · rw [if_pos h, ih, reportItem, getClip_raise, refCount_clipLeaves, List.filter_cons_of_pos h, List.countP_cons, Nat.sub_sub,
        Nat.add_comm]
      rfl
    · rw [if_neg h, ih, List.filter_cons_of_neg h]

theorem getStream_dropQueued (l kept : List Item) (s : State) :
    getStream (dropQueued p w reason sel kept l s) i = getStream s i := by
  induction l generalizing kept s with
  | nil => rfl
  | cons it rest ih =>
    rw [dropQueued]
    split
    · rw [ih, reportItem, getStream_raise, getStream_clipLeaves]
      rfl
    · exact ih ..

theorem getStream_dropStacked (l kept : List Item) (s : State) :
    getStream (dropStacked p w reason sel kept l s) i = getStream s i := by
  induction l generalizing kept s with
  | nil => rfl
  | cons it rest ih =>
    rw [dropStacked]
    split
    · rw [ih, reportItem, getStream_raise, getStream_clipLeaves]
      rfl
    · exact ih ..

theorem refCount_endCurrent (s : State) :
    (getClip (endCurrent p w reason s) c).refCount =
      (getClip s c).refCount - (getPlayer s p w).current.toList.countP fun it => it.source == .clip c := by
  unfold endCurrent
  cases h : (getPlayer s p w).current with
  | none => rfl
  | some it =>
    dsimp only
    rw [reportItem, getClip_raise, getClip_listensCurrent]
    show (getClip (clipLeaves it.source (unlistens it.source s)) c).refCount = _
    rw [refCount_clipLeaves, getClip_unlistens, Option.toList_some, List.countP_singleton]

theorem listeners_listensCurrent (pl : Player) (s : State) :
    (getStream (listensCurrent pl s) i).listeners = (getStream s i).listeners + hears i pl := by
  unfold listensCurrent hears
  cases pl.current with
  | none => rfl
  | some it => exact listeners_listens i it.source s

theorem listeners_endCurrent {it : Item} (s : State) (h : (getPlayer s p w).current = some it) :
    (getStream (endCurrent p w reason s) i).listeners =
      (getStream s i).listeners - hears i (getPlayer s p w) + hears i (succession (getPlayer s p w)) := by
  have hh : hears i (getPlayer s p w) = if it.source == .stream i then 1 else 0 := by rw [hears, h]; rfl
  unfold endCurrent
  rw [h]
  dsimp only
  rw [reportItem, getStream_raise, listeners_listensCurrent, hh]
  show (getStream (clipLeaves it.source (unlistens it.source s)) i).listeners + _ = _
  rw [getStream_clipLeaves, listeners_unlistens]

/-- A cleared player's items leave the reference counts (R114). -/
theorem refCount_clearPlayer (s : State) :
    (getClip (clearPlayer p w reason s) c).refCount = (getClip s c).refCount - namedBy c (getPlayer s p w) := by
  have hg := getPlayer_dropLists p w reason (fun _ => true) s
  have hq := getPlayer_dropQueued p w reason (fun _ => true) s (getPlayer s p w).queue [] rfl
  rw [clearPlayer, refCount_endCurrent, hg, dropLists, refCount_dropStacked, refCount_dropQueued, hq]
  simp only [List.filter_true, namedBy, heldItems, List.countP_append]
  omega

/-- A cleared player's current item leaves the listener counts (R135). -/
theorem listeners_clearPlayer (s : State) :
    (getStream (clearPlayer p w reason s) i).listeners = (getStream s i).listeners - hears i (getPlayer s p w) := by
  have hg := getPlayer_dropLists p w reason (fun _ => true) s
  have hs : getStream (dropLists p w reason (fun _ => true) s) i = getStream s i := by
    rw [dropLists, getStream_dropStacked, getStream_dropQueued]
  rw [clearPlayer]
  cases hc : (getPlayer s p w).current with
  | none =>
    rw [endCurrent_idle p w reason _ (by rw [hg]; exact hc), hs, hears, hc]
    rfl
  | some it =>
    rw [listeners_endCurrent p w reason i _ (by rw [hg]; exact hc), hs, hg]
    simp [hears, succession]

end

/-! ## What keeps the counts in step -/

section
variable {s t : State}

theorem namedBy_le (s : State) (p : PosIx) (w : PlayerId) (c : ClipIx) : namedBy c (getPlayer s p w) ≤ itemsNaming s c := by
  have h := sum_putPlayer (s := s) (p := p) (w := w) (pl := idlePlayer) (namedBy c) rfl
  rw [← itemsNaming_eq, ← itemsNaming_eq] at h
  have hz : namedBy c idlePlayer = 0 := rfl
  omega

theorem hears_le (s : State) (p : PosIx) (w : PlayerId) (i : StreamIx) : hears i (getPlayer s p w) ≤ listenersOf s i := by
  have h := sum_putPlayer (s := s) (p := p) (w := w) (pl := idlePlayer) (hears i) rfl
  rw [← listenersOf_eq, ← listenersOf_eq] at h
  have hz : hears i idlePlayer = 0 := rfl
  omega

theorem countsOk_clearPlayer (h : CountsOk s) {p : PosIx} {w : PlayerId} (hp : PlayerOk (getPlayer s p w)) (reason : LeaveReason) :
    CountsOk (clearPlayer p w reason s) := by
  refine h.leave (bare_clearPlayer p w reason s hp.1) (fun c => ?_) fun c => ?_
  · have hle := namedBy_le s p w c
    have hc := (h c).1
    have hz : namedBy c idlePlayer = 0 := rfl
    rw [refCount_clearPlayer]
    omega
  · rw [refCount_clearPlayer]
    omega

theorem listenersOk_clearPlayer (h : ListenersOk s) {p : PosIx} {w : PlayerId} (hp : PlayerOk (getPlayer s p w))
    (reason : LeaveReason) : ListenersOk (clearPlayer p w reason s) := by
  refine h.change (bare_clearPlayer p w reason s hp.1) (fun i => ?_) fun it hi => nomatch hi
  have hle := hears_le s p w i
  have hc := (h i).1
  have hz : hears i idlePlayer = 0 := rfl
  rw [listeners_clearPlayer]
  omega

/-- Only the players, the clips and the streams of a state are counted. -/
theorem countsOk_congr (hs : t.store.clips = s.store.clips) (hp : ∀ p w, getPlayer t p w = getPlayer s p w) :
    CountsOk t ↔ CountsOk s := by
  have hc : ∀ c, getClip t c = getClip s c := fun c => by rw [getClip, getClip, hs]
  simp only [CountsOk, hc, itemsNaming_eq, hp]

theorem listenersOk_congr (hs : t.streams = s.streams) (hp : ∀ p w, getPlayer t p w = getPlayer s p w) :
    ListenersOk t ↔ ListenersOk s := by
  have hc : ∀ i, getStream t i = getStream s i := fun i => by rw [getStream, getStream, hs]
  have ha : allItems t = allItems s := by simp only [allItems, hp]
  simp only [ListenersOk, hc, listenersOf_eq, hp, ha]

end

/-! ## A player's run in a slice -/

/-- What a run has made of a player's items: what completed was held, what is current listens, and nothing new is named. -/
structure RunCounts (pl : Player) (r : PlayRun) : Prop where
  named : ∀ c, namedBy c pl = namedBy c r.player + r.completed.countP fun x => x.1 == .clip c
  heard : ∀ i, hears i r.player = hears i pl + r.started.countP fun x => x == .stream i
  held : ∀ it ∈ heldItems r.player, ∃ jt ∈ heldItems pl, jt.source = it.source

theorem runCounts_beginRun (pl : Player) : RunCounts pl (beginRun pl) := ⟨fun _ => rfl, fun _ => rfl, fun it hi => ⟨it, hi, rfl⟩⟩

theorem mem_heldItems {pl : Player} {it x : Item} (hc : pl.current = some it) :
    x ∈ heldItems pl ↔ x = it ∨ x ∈ pl.stack ∨ x ∈ pl.queue := by
  simp [heldItems, hc]

theorem namedBy_playing {pl : Player} {it : Item} (hc : pl.current = some it) (c : ClipIx) :
    namedBy c pl = (pl.stack ++ pl.queue).countP (fun x => x.source == .clip c) + if it.source == .clip c then 1 else 0 := by
  simp [namedBy, heldItems, hc, List.countP_cons]

/-- Another read offset or pass count of the current item. -/
theorem RunCounts.again {pl : Player} {r : PlayRun} {it x : Item} (h : RunCounts pl r) (hc : r.player.current = some it)
    (hx : x.source = it.source) : RunCounts pl { r with player := { r.player with current := some x } } := by
  refine ⟨fun c => ?_, fun i => ?_, fun jt hj => ?_⟩
  · rw [h.named c, namedBy_playing hc, namedBy_playing (it := x) rfl, hx]
  · rw [← h.heard i]
    simp [hears, namesStream, hc, hx]
  · obtain rfl | hj := (mem_heldItems (it := x) rfl).mp hj
    · rw [hx]
      exact h.held it ((mem_heldItems hc).mpr (.inl rfl))
    · exact h.held jt ((mem_heldItems hc).mpr (.inr hj))

/-- What a succession does to the counts of a player that plays. -/
theorem namedBy_succession {pl : Player} {it : Item} (hc : pl.current = some it) (c : ClipIx) :
    namedBy c pl = namedBy c (succession pl) + if it.source == .clip c then 1 else 0 := by
  obtain ⟨cur, stack, queue⟩ := pl
  cases hc
  cases queue with
  | cons q rest => simp [namedBy, heldItems, succession, List.countP_cons]; omega
  | nil =>
    cases stack with
    | cons x rest => simp [namedBy, heldItems, succession, List.countP_cons]
    | nil => simp [namedBy, heldItems, succession, List.countP_cons]

theorem held_succession {pl : Player} {it : Item} (h : it ∈ heldItems (succession pl)) : it ∈ heldItems pl := by
  obtain ⟨cur, stack, queue⟩ := pl
  cases queue with
  | cons q rest =>
    simp only [heldItems, succession, Option.toList_some, List.mem_append, List.mem_cons] at h ⊢
    tauto
  | nil =>
    cases stack with
    | cons x rest =>
      simp only [heldItems, succession, Option.toList_some, List.mem_append, List.mem_cons] at h ⊢
      tauto
    | nil => simp [heldItems, succession] at h

theorem hears_none {pl : Player} (i : StreamIx) (h : pl.current = none) : hears i pl = 0 := by simp [hears, h]

theorem hears_some {pl : Player} {it : Item} (i : StreamIx) (h : pl.current = some it) :
    hears i pl = if it.source == .stream i then 1 else 0 := by
  rw [hears, h]
  rfl

theorem runCounts_passEnds {pl : Player} {r : PlayRun} {it : Item} {c : ClipIx} (h : RunCounts pl r)
    (hc : r.player.current = some it) (hs : it.source = .clip c) : RunCounts pl (passEnds it r) := by
  unfold passEnds
  split
  · exact h.again hc rfl
  · split
    · exact h.again hc rfl
    · refine ⟨fun d => ?_, fun i => ?_, fun jt hj => h.held jt (held_succession hj)⟩
      · rw [h.named d, namedBy_succession hc d]
        simp only [List.countP_append, List.countP_singleton]
        omega
      · have hz : hears i r.player = 0 := by simp [hears, hc, namesStream, hs]
        have hh := h.heard i
        dsimp only
        rw [List.countP_append]
        cases hnext : (succession r.player).current with
        | none =>
          rw [hears_none i hnext, List.countP_nil]
          omega
        | some x =>
          rw [hears_some i hnext, List.countP_singleton]
          omega

theorem runCounts_playSample {pl : Player} {r : PlayRun} (h : RunCounts pl r) (s : State) (gain : Item → Int) (k : Nat) :
    RunCounts pl (playSample s gain k r).2 := by
  unfold playSample
  split
  · exact h
  · rename_i it hc
    split
    · rename_i c hs
      dsimp only [advanceClip]
      split
      · exact h.again hc rfl
      · exact runCounts_passEnds h hc hs
    · exact h

theorem runCounts_playSamples {pl : Player} (s : State) (gain : Item → Int) (n : Nat) :
    ∀ {k : Nat} {r : PlayRun}, RunCounts pl r → RunCounts pl (playSamples s gain n k r).2 := by
  induction n with
  | zero => exact fun h => h
  | succ n ih => exact fun h => ih (runCounts_playSample h s gain _)

section
variable {s : State} {p : PosIx} {w : PlayerId} {r : PlayRun}

theorem refCount_settleRun (c : ClipIx) :
    (getClip (settleRun p w r s) c).refCount = (getClip s c).refCount - r.completed.countP fun x => x.1 == .clip c := by
  have hstart : ∀ (l : List Source) (t : State), getClip (l.foldl (fun t src => listens src t) t) c = getClip t c := by
    intro l t
    induction l generalizing t with
    | nil => rfl
    | cons x rest ih => rw [List.foldl_cons, ih, getClip_listens]
  have hleave : ∀ (l : List (Source × ItemReport)) (t : State), (getClip (l.foldl (fun t c => clipLeaves c.1 t) t) c).refCount =
      (getClip t c).refCount - l.countP fun x => x.1 == .clip c := by
    intro l t
    induction l generalizing t with
    | nil => rfl
    | cons x rest ih => rw [List.foldl_cons, ih, refCount_clipLeaves, List.countP_cons, Nat.sub_sub, Nat.add_comm]
  rw [settleRun, hstart, hleave]
  rfl

theorem listeners_settleRun (i : StreamIx) :
    (getStream (settleRun p w r s) i).listeners = (getStream s i).listeners + r.started.countP fun x => x == .stream i := by
  have hstart : ∀ (l : List Source) (t : State), (getStream (l.foldl (fun t src => listens src t) t) i).listeners =
      (getStream t i).listeners + l.countP fun x => x == .stream i := by
    intro l t
    induction l generalizing t with
    | nil => rfl
    | cons x rest ih => rw [List.foldl_cons, ih, listeners_listens, List.countP_cons]; omega
  have hleave : ∀ (l : List (Source × ItemReport)) (t : State), getStream (l.foldl (fun t c => clipLeaves c.1 t) t) i = getStream t i := by
    intro l t
    induction l generalizing t with
    | nil => rfl
    | cons x rest ih => rw [List.foldl_cons, ih, getStream_clipLeaves]
  rw [settleRun, hstart, hleave]
  rfl

theorem countsOk_settleRun (h : CountsOk s) (hr : RunCounts (getPlayer s p w) r) : CountsOk (settleRun p w r s) := by
  refine h.leave (bare_settleRun p w r s) (fun c => ?_) fun c => ?_
  · have hle := namedBy_le s p w c
    have hc := (h c).1
    have hn := hr.named c
    rw [refCount_settleRun]
    omega
  · rw [refCount_settleRun]
    omega

theorem listenersOk_settleRun (h : ListenersOk s) (hr : RunCounts (getPlayer s p w) r) : ListenersOk (settleRun p w r s) := by
  refine h.change (bare_settleRun p w r s) (fun i => ?_) hr.held
  rw [listeners_settleRun, hr.heard i]
  omega

end

end Sys2Proof.Machine

/-! # What a position's slice hands over (R15, R134) -/

namespace Sys2Proof.Machine

/-! ## Free orders of named acts (log entry 5) -/

theorem freeOrder_map {α β : Type} (f : α → β) (draw : Nat) (l : List α) : freeOrder draw (l.map f) = (freeOrder draw l).map f := by
  induction l with
  | nil => rfl
  | cons x rest ih =>
    rw [List.map_cons, freeOrder, freeOrder, ih]
    cases freeOrder draw rest with
    | nil => rfl
    | cons y ys => simp [putIn, List.map_take, List.map_drop]

/-- Named acts in a free order: an invariant of those done holds of all at the end. -/
theorem inFreeOrder_done {α : Type} {f : α → State → State} {I : List α → State → Prop} {l : List α} {s : State} (hn : l.Nodup)
    (h : ∀ done x t, x ∉ done → I done t → I (x :: done) (f x t)) (hs : I [] s) :
    ∃ done t, (∀ x, x ∈ done ↔ x ∈ l) ∧ I done t ∧ inFreeOrder (l.map f) s = spendDraw t := by
  have hp := freeOrder_perm s.draws l
  refine ⟨(freeOrder s.draws l).reverse ++ [], (freeOrder s.draws l).foldl (fun t x => f x t) s, fun x => ?_, ?_, ?_⟩
  · rw [List.append_nil, List.mem_reverse, hp.mem_iff]
  · exact foldl_done (f := fun t x => f x t) h _ [] s (hp.nodup_iff.mpr hn) (fun _ _ => List.not_mem_nil) hs
  · rw [inFreeOrder, freeOrder_map, List.foldl_map]

/-! ## Reports that wait -/

/-- The last of some reports waits. -/
def LastWaits (k : ReportBody) (bs : List ReportBody) (t : State) : Prop :=
  ∀ b, bs.getLast? = some b → ∃ n, 1 ≤ n ∧ waiting k t = some (b, n)

section
variable {k : ReportBody} {bs : List ReportBody} {t u : State}

theorem LastWaits.mono (h : LastWaits k bs t) (hw : waiting k u = waiting k t) : LastWaits k bs u :=
  fun b hb => let ⟨n, hn, e⟩ := h b hb; ⟨n, hn, hw.trans e⟩

/-- Raised in order, the last report of a kind and source is the one that waits. -/
theorem lastWaits_raiseAll (t : State) (h : ∀ b ∈ bs, sameReport k b = true) : LastWaits k bs (raiseAll bs t) := by
  intro b hb
  obtain ⟨xs, rfl⟩ := List.getLast?_eq_some_iff.mp hb
  obtain ⟨n, hn, hw⟩ := waiting_raiseAll_last (b := b) xs t
  have hk := h b (by simp)
  refine ⟨n, hn, ?_⟩
  rw [waiting, firstSame_same hk]
  exact hw

/-- Reports of another kind or source leave the waiting one. -/
theorem waiting_raiseAll_keys {d : ReportBody} (t : State) (h : ∀ b ∈ bs, sameReport k b = true) (hd : sameReport d k = false) :
    waiting d (raiseAll bs t) = waiting d t :=
  waiting_raiseAll_other bs t fun b hb => by rw [← sameReport_congr (h b hb)]; exact hd

theorem LastWaits.report (h : LastWaits k bs t) {b : ReportBody} (hb : bs.getLast? = some b) :
    ∃ n, Message.report b n ∈ t.link.outbound := let ⟨n, _, e⟩ := h b hb; ⟨n, waiting_mem e⟩

end

section
variable (p q : PosIx) (w : PlayerId)

@[simp] theorem sameReport_levelKey_toneKey : sameReport (levelKey p) (toneKey q) = false :=
  sameReport_of_kind (by simp [levelKey, toneKey, reportKind])
@[simp] theorem sameReport_levelKey_echoKey : sameReport (levelKey p) (echoKey q) = false :=
  sameReport_of_kind (by simp [levelKey, echoKey, reportKind])
@[simp] theorem sameReport_toneKey_levelKey : sameReport (toneKey p) (levelKey q) = false :=
  sameReport_of_kind (by simp [levelKey, toneKey, reportKind])
@[simp] theorem sameReport_echoKey_levelKey : sameReport (echoKey p) (levelKey q) = false :=
  sameReport_of_kind (by simp [echoKey, levelKey, reportKind])
@[simp] theorem sameReport_playerKey_levelKey : sameReport (playerKey p w) (levelKey q) = false :=
  sameReport_of_kind (by cases w <;> simp [playerKey, levelKey, reportKind])
@[simp] theorem sameReport_callKey_levelKey : sameReport (callKey p) (levelKey q) = false :=
  sameReport_of_kind (by simp [callKey, levelKey, reportKind])
@[simp] theorem sameReport_callKey_toneKey : sameReport (callKey p) (toneKey q) = false :=
  sameReport_of_kind (by simp [callKey, toneKey, reportKind])
@[simp] theorem sameReport_callKey_echoKey : sameReport (callKey p) (echoKey q) = false :=
  sameReport_of_kind (by simp [callKey, echoKey, reportKind])

end

/-! ## The items that complete in a slice (R134, R139) -/

section
variable {s : State} {gain : Item → Int} {k : Nat} {r : PlayRun} {it : Item}

/-- An item at its last sample in its last pass completes with that sample. -/
theorem playSample_completes (h : CompletesNext s r.player it) :
    (playSample s gain k r).2.completed =
      r.completed ++ [(it.source, itemReport .itemEnd .completed it 0 (playSample s gain k r).2.player)] := by
  obtain ⟨hc, hp, c, hs, hl⟩ := h
  obtain ⟨source, start, loops, level, tag, offset, passes⟩ := it
  dsimp only at hp hs hl
  subst hp hs
  simp [playSample, hc, advanceClip, passEnds, Nat.not_lt.mpr hl]

/-- No other item completes. -/
theorem playSample_completes_not (h : ∀ it, ¬CompletesNext s r.player it) : (playSample s gain k r).2.completed = r.completed := by
  unfold playSample
  split
  · rfl
  · rename_i it hc
    split
    · rename_i c hs
      dsimp only [advanceClip]
      split
      · rfl
      · unfold passEnds
        split
        · rfl
        · split
          · rfl
          · exact absurd ⟨hc, by omega, c, hs, by omega⟩ (h it)
    · rfl

theorem runAfter_succ (s : State) (gain : Item → Int) (r : PlayRun) (n : Nat) :
    runAfter s gain r (n + 1) = (playSample s gain n (runAfter s gain r n)).2 := by
  simp [runAfter, playSamples_last]

/-- The last item to complete before a sample is the last of those completed. -/
theorem completed_getLast (hk : CompletesNext s (runAfter s gain r k).player it) :
    ∀ n, k < n → (∀ j jt, k < j → j < n → ¬CompletesNext s (runAfter s gain r j).player jt) →
      (runAfter s gain r n).completed.getLast? =
        some (it.source, itemReport .itemEnd .completed it 0 (runAfter s gain r (k + 1)).player)
  | n + 1, hn, hno => by
    rw [runAfter_succ]
    by_cases he : n = k
    · subst he
      rw [playSample_completes hk, runAfter_succ, List.getLast?_concat]
    · rw [playSample_completes_not fun jt => hno n jt (by omega) (by omega)]
      exact completed_getLast hk n (by omega) fun j jt h1 h2 => hno j jt h1 (by omega)

end

/-- The report of the last item to complete, where it waits. -/
theorem completedReport_of_waits {s t : State} {p : PosIx} {w : PlayerId} {gain : Item → Int} {r : PlayRun}
    (h : LastWaits (playerKey p w) (runReports p w (runAfter s gain r 64)) t) :
    CompletedReport s t p w fun k => (runAfter s gain r k).player := by
  intro k it hk hc hno
  have hlast := completed_getLast hc 64 hk hno
  obtain ⟨n, hn, hw⟩ := h (.player p w (itemReport .itemEnd .completed it 0 (runAfter s gain r (k + 1)).player))
    (by rw [runReports, List.getLast?_map, hlast]; rfl)
  exact itemLeft_of_waiting p w .completed hw (by omega)

/-! ## The acts of a slice's completion -/

/-- What is handed over at the completion of a slice (R134). -/
inductive SliceAct where
  | level
  | players
  | tone
  | echo

/-- The judgement at the end of a slice, with the reports of a search that ended (R92). -/
def judgedSlice (p : PosIx) (s : State) : State × List ReportBody :=
  sliceJudgement p (inFlightFor s p).isSome (sliceRequests p (stages p s) (settleSlice p (stages p s) s))

/-- The reports that each act raises. -/
def sliceBodies (p : PosIx) (s : State) : SliceAct → List ReportBody
  | .level => levelReports p (getPos s p).suppressor (stages p s).suppressor
  | .players => runReports p .net (stages p s).net ++ runReports p .agent (stages p s).agent
  | .tone => toneReports p (stages p s)
  | .echo => cancellerReports p (stages p s) (settleSlice p (stages p s) s) ++ (judgedSlice p s).2

def sliceAct (p : PosIx) (s : State) (x : SliceAct) (t : State) : State :=
  match x with
  | .players => whisperCheck p (getPos s p).agent.current.isSome (raiseAll (sliceBodies p s .players) t)
  | x => raiseAll (sliceBodies p s x) t

/-- The acts in the order of the model. -/
def sliceActs : List SliceAct := [.level, .players, .tone, .echo]

theorem nodup_sliceActs : sliceActs.Nodup := by simp [sliceActs]

theorem processSlice_eq (p : PosIx) (s : State) :
    processSlice p s = inFreeOrder (sliceActs.map (sliceAct p s)) (judgedSlice p s).1 := rfl

/-- The kind and source of each act's reports, but for the players'. -/
def sliceKey (p : PosIx) : SliceAct → ReportBody
  | .level => levelKey p
  | .players => callKey p
  | .tone => toneKey p
  | .echo => echoKey p

theorem sliceKey_ne (p : PosIx) {x y : SliceAct} (h : x ≠ y) : sameReport (sliceKey p x) (sliceKey p y) = false := by
  cases x <;> cases y <;> simp [sliceKey] at h ⊢

theorem playerKey_sliceKey (p : PosIx) (w : PlayerId) (x : SliceAct) : sameReport (playerKey p w) (sliceKey p x) = false := by
  cases x <;> simp [sliceKey]

/-- A search that ends reports for its position (R81, R97). -/
theorem judgedSlice_echo (p : PosIx) (s : State) : ∀ b ∈ (judgedSlice p s).2, sameReport (echoKey p) b = true := by
  intro b hb
  have hend : ∀ (o : SearchOutcome) (lag : Option Nat) (f : InFlight) (t : State), f.entry.position = p →
      sameReport (echoKey p) (endSearch o lag f t).2 = true := by
    rintro o lag f t rfl
    exact sameReport_echoKey ..
  unfold judgedSlice sliceJudgement at hb
  split at hb
  · nomatch hb
  · rename_i f hf
    have hp : f.entry.position = p := by
      have h := Option.filter_eq_some_iff.mp hf
      simpa using h.2
    split at hb
    · unfold judgeSearch at hb
      split at hb
      · rw [List.mem_singleton.mp hb]
        exact hend _ _ _ _ hp
      · split at hb
        · rw [List.mem_singleton.mp hb]
          exact hend _ _ _ _ hp
        · nomatch hb
    · nomatch hb

theorem sliceBodies_key (p : PosIx) (s : State) {x : SliceAct} (hx : x ≠ .players) :
    ∀ b ∈ sliceBodies p s x, sameReport (sliceKey p x) b = true := by
  intro b hb
  cases x with
  | players => exact absurd rfl hx
  | level =>
    rw [sliceBodies, levelReports] at hb
    split at hb
    · nomatch hb
    · rw [List.mem_singleton.mp hb]
      exact sameReport_levelKey ..
  | tone =>
    rw [sliceBodies, toneReports] at hb
    split at hb
    · rw [List.mem_singleton.mp hb]
      exact sameReport_toneKey ..
    · nomatch hb
  | echo =>
    rw [sliceBodies, List.mem_append, cancellerReports] at hb
    obtain hb | hb := hb
    · split at hb
      · nomatch hb
      · rw [List.mem_singleton.mp hb]
        exact sameReport_echoKey ..
    · exact judgedSlice_echo p s b hb

theorem runReports_key (p : PosIx) (w : PlayerId) (r : PlayRun) : ∀ b ∈ runReports p w r, sameReport (playerKey p w) b = true := by
  intro b hb
  obtain ⟨x, -, rfl⟩ := List.mem_map.mp hb
  exact sameReport_playerKey ..

/-! ## What the acts have left -/

/-- A whisper done is due at the end of a position's slice (R7). -/
def SliceWhispers (p : PosIx) (s : State) : Prop :=
  (getPos s p).agent.current.isSome = true ∧ (getPos (judgedSlice p s).1 p).call = .announce ∧
    (getPos (judgedSlice p s).1 p).agent.current = none

/-- What the acts done have made of the state that the judgement left. -/
structure HandedOver (p : PosIx) (s : State) (done : List SliceAct) (t : State) : Prop where
  quiet : ¬(SliceAct.players ∈ done ∧ SliceWhispers p s) → bare t = bare (judgedSlice p s).1
  whispered : SliceAct.players ∈ done → SliceWhispers p s → bare t = bare (putPos (judgedSlice p s).1 p
    { getPos (judgedSlice p s).1 p with call := .connected, net := idlePlayer })
  last : ∀ x ∈ done, x ≠ .players → LastWaits (sliceKey p x) (sliceBodies p s x) t
  agent : SliceAct.players ∈ done → LastWaits (playerKey p .agent) (runReports p .agent (stages p s).agent) t
  net : SliceAct.players ∈ done → ¬(SliceWhispers p s ∧ (getPos (judgedSlice p s).1 p).net.current ≠ none) →
    LastWaits (playerKey p .net) (runReports p .net (stages p s).net) t
  call : SliceAct.players ∈ done → SliceWhispers p s →
    WhisperWaits t p (getPos (judgedSlice p s).1 p) ∧ ClearedWaits t p .net (getPos (judgedSlice p s).1 p).net
  counts : CountsOk (judgedSlice p s).1 → CountsOk t
  listeners : ListenersOk (judgedSlice p s).1 → ListenersOk t

section
variable {p : PosIx} {s t : State} {done : List SliceAct}

theorem HandedOver.start (p : PosIx) (s : State) : HandedOver p s [] (judgedSlice p s).1 where
  quiet _ := rfl
  whispered h := absurd h List.not_mem_nil
  last _ h := absurd h List.not_mem_nil
  agent h := absurd h List.not_mem_nil
  net h := absurd h List.not_mem_nil
  call h := absurd h List.not_mem_nil
  counts h := h
  listeners h := h

theorem countsOk_raiseAll (bs : List ReportBody) (t : State) : CountsOk (raiseAll bs t) ↔ CountsOk t :=
  countsOk_congr (congrArg Store.clips (raiseAll_store bs t)) fun _ _ => by rw [getPlayer, getPlayer, getPos_raiseAll]

theorem listenersOk_raiseAll (bs : List ReportBody) (t : State) : ListenersOk (raiseAll bs t) ↔ ListenersOk t :=
  listenersOk_congr (raiseAll_streams bs t) fun _ _ => by rw [getPlayer, getPlayer, getPos_raiseAll]

/-- An act that raises reports alone. -/
theorem HandedOver.raises (h : HandedOver p s done t) {x : SliceAct} (hx : x ≠ .players) (hd : x ∉ done) :
    HandedOver p s (x :: done) (raiseAll (sliceBodies p s x) t) := by
  have hkey := sliceBodies_key p s hx
  have hkeep : ∀ {d}, sameReport d (sliceKey p x) = false → waiting d (raiseAll (sliceBodies p s x) t) = waiting d t :=
    fun hk => waiting_raiseAll_keys t hkey hk
  have hm : SliceAct.players ∈ x :: done → SliceAct.players ∈ done := fun hp => (List.mem_cons.mp hp).resolve_left (Ne.symm hx)
  refine ⟨fun hq => ?_, fun hp hw => ?_, fun y hy hyp => ?_, fun hp => ?_, fun hp hn => ?_, fun hp hw => ?_, fun hc => ?_,
    fun hl => ?_⟩
  · rw [bare_raiseAll]
    exact h.quiet fun hc => hq ⟨List.mem_cons_of_mem _ hc.1, hc.2⟩
  · rw [bare_raiseAll]
    exact h.whispered (hm hp) hw
  · obtain rfl | hy := List.mem_cons.mp hy
    · exact lastWaits_raiseAll t hkey
    · exact (h.last y hy hyp).mono (hkeep (sliceKey_ne p fun e => hd (e ▸ hy)))
  · exact (h.agent (hm hp)).mono (hkeep (playerKey_sliceKey ..))
  · exact (h.net (hm hp) hn).mono (hkeep (playerKey_sliceKey ..))
  · obtain ⟨hr, hcl⟩ := h.call (hm hp) hw
    exact ⟨hr.mono (hkeep (sliceKey_ne (x := .players) p (Ne.symm hx))), hcl.mono (hkeep (playerKey_sliceKey ..))⟩
  · exact (countsOk_raiseAll _ t).mpr (h.counts hc)
  · exact (listenersOk_raiseAll _ t).mpr (h.listeners hl)

theorem bare_whisperDone {u v : State} (h : bare u = bare v) (hn : PlayerOk (getPos u p).net) :
    bare (whisperDone p u) = bare (putPos v p { getPos v p with call := .connected, net := idlePlayer }) := by
  rw [((leaves_self u p).whisperDone hn.1).1, ← getPos_of_bare h]
  exact bare_putPos h p _

theorem getPlayer_setCall (p q : PosIx) (c : CallState) (w : PlayerId) (u : State) :
    getPlayer (setCall p c u) q w = getPlayer u q w := by
  rw [getPlayer, getPlayer, setCall, getPos_putPos]
  by_cases hq : p = q
  · subst hq; rw [if_pos rfl]; cases w <;> rfl
  · rw [if_neg hq]

theorem countsOk_whisperDone {u : State} (hn : PlayerOk (getPos u p).net) (h : CountsOk u) : CountsOk (whisperDone p u) := by
  have hu : CountsOk (setCall p .connected u) :=
    (countsOk_congr (s := u) (t := setCall p .connected u) rfl fun q w => getPlayer_setCall p q .connected w u).mpr h
  exact (countsOk_raiseAll [_] _).mpr (countsOk_clearPlayer hu (by rw [getPlayer_setCall]; exact hn) .cleared)

theorem listenersOk_whisperDone {u : State} (hn : PlayerOk (getPos u p).net) (h : ListenersOk u) : ListenersOk (whisperDone p u) := by
  have hu : ListenersOk (setCall p .connected u) :=
    (listenersOk_congr (s := u) (t := setCall p .connected u) rfl fun q w => getPlayer_setCall p q .connected w u).mpr h
  exact (listenersOk_raiseAll [_] _).mpr (listenersOk_clearPlayer hu (by rw [getPlayer_setCall]; exact hn) .cleared)

/-- The players' act, where no whisper done is due: reports alone. -/
theorem HandedOver.completes (h : HandedOver p s done t) (hd : SliceAct.players ∉ done) :
    let u := raiseAll (sliceBodies p s .players) t
    bare u = bare (judgedSlice p s).1 ∧ LastWaits (playerKey p .net) (runReports p .net (stages p s).net) u ∧
      LastWaits (playerKey p .agent) (runReports p .agent (stages p s).agent) u ∧
      (∀ x ∈ done, x ≠ .players → LastWaits (sliceKey p x) (sliceBodies p s x) u) ∧
      (CountsOk (judgedSlice p s).1 → CountsOk u) ∧ (ListenersOk (judgedSlice p s).1 → ListenersOk u) := by
  have hnet := runReports_key p .net (stages p s).net
  have hagent := runReports_key p .agent (stages p s).agent
  refine ⟨?_, ?_, ?_, fun x hx hxp => ?_, fun hc => (countsOk_raiseAll _ t).mpr (h.counts hc),
    fun hl => (listenersOk_raiseAll _ t).mpr (h.listeners hl)⟩
  · rw [bare_raiseAll]
    exact h.quiet fun hc => hd hc.1
  · rw [sliceBodies, raiseAll_append]
    exact (lastWaits_raiseAll t hnet).mono (waiting_raiseAll_keys _ hagent (by simp))
  · rw [sliceBodies, raiseAll_append]
    exact lastWaits_raiseAll _ hagent
  · refine (h.last x hx hxp).mono ?_
    have hk : ∀ w, sameReport (sliceKey p x) (playerKey p w) = false := fun w => by
      rw [sameReport_comm]; exact playerKey_sliceKey ..
    rw [sliceBodies, raiseAll_append, waiting_raiseAll_keys _ hagent (hk _), waiting_raiseAll_keys _ hnet (hk _)]

theorem HandedOver.plays (hn : PlayerOk (getPos (judgedSlice p s).1 p).net) (h : HandedOver p s done t)
    (hd : SliceAct.players ∉ done) : HandedOver p s (.players :: done) (sliceAct p s .players t) := by
  obtain ⟨hb, hnet, hagent, hlast, hcounts, hlisten⟩ := h.completes hd
  rw [sliceAct]
  generalize raiseAll (sliceBodies p s .players) t = u at hb hnet hagent hlast hcounts hlisten
  have hrec := getPos_of_bare hb p
  have hmem : ∀ x, x ∈ SliceAct.players :: done → x ≠ .players → x ∈ done := fun x hx hxp => (List.mem_cons.mp hx).resolve_left hxp
  by_cases hw : SliceWhispers p s
  · have hwas := hw
    obtain ⟨h1, h2, h3⟩ := hwas
    have hnu : PlayerOk (getPos u p).net := by rw [hrec]; exact hn
    rw [whisperCheck_pos h1 (by rw [hrec]; exact h2) (by rw [hrec]; exact h3)]
    refine ⟨fun hq => absurd ⟨List.mem_cons_self, hw⟩ hq, fun _ _ => bare_whisperDone hb hnu, fun x hx hxp => ?_, fun _ => ?_,
      fun _ hnot => ?_, fun _ _ => ?_, fun hc => countsOk_whisperDone hnu (hcounts hc),
      fun hl => listenersOk_whisperDone hnu (hlisten hl)⟩
    · refine (hlast x (hmem x hx hxp) hxp).mono (waiting_whisperDone ?_ (sliceKey_ne (y := .players) p hxp))
      rw [sameReport_comm]
      exact playerKey_sliceKey ..
    · exact hagent.mono (waiting_whisperDone (by simp) (by simp))
    · have hidle : (getPos u p).net = idlePlayer := by
        have hc : (getPos u p).net.current = none := by
          rw [hrec]
          by_contra hx
          exact hnot ⟨hw, hx⟩
        obtain ⟨hs, hq⟩ := hnu.1 hc
        cases hx : (getPos u p).net
        simp_all [idlePlayer]
      exact hnet.mono (waiting_whisperDone_idle (by simp) (.inr hidle))
    · have hr := whisperWaits_whisperDone p u hnu
      have hc := clearedWaits_whisperDone p u
      rw [hrec] at hr hc
      exact ⟨hr, hc⟩
  · rw [whisperCheck_neg (by rw [hrec]; exact hw)]
    exact ⟨fun _ => hb, fun _ hx => absurd hx hw, fun x hx hxp => hlast x (hmem x hx hxp) hxp, fun _ => hagent, fun _ _ => hnet,
      fun _ hx => absurd hx hw, hcounts, hlisten⟩

theorem HandedOver.act (hn : PlayerOk (getPos (judgedSlice p s).1 p).net) (h : HandedOver p s done t) {x : SliceAct}
    (hd : x ∉ done) : HandedOver p s (x :: done) (sliceAct p s x t) := by
  cases x with
  | players => exact h.plays hn hd
  | level => exact h.raises (by simp) hd
  | tone => exact h.raises (by simp) hd
  | echo => exact h.raises (by simp) hd

/-- Everything is handed over at the completion of a slice (R134). -/
theorem handedOver_processSlice (hn : PlayerOk (getPos (judgedSlice p s).1 p).net) :
    ∃ t, HandedOver p s sliceActs t ∧ processSlice p s = spendDraw t := by
  obtain ⟨done, t, hm, h, he⟩ := inFreeOrder_done (f := sliceAct p s) (I := HandedOver p s) nodup_sliceActs
    (fun done x t hd h => h.act hn hd) (.start p s)
  refine ⟨t, ?_, (processSlice_eq p s).trans he⟩
  have hall : ∀ x, x ∈ sliceActs := fun x => by cases x <;> simp [sliceActs]
  have hp := (hm .players).mpr (hall _)
  exact ⟨fun hq => h.quiet fun hc => hq ⟨hall _, hc.2⟩, fun _ => h.whispered hp, fun x _ => h.last x ((hm x).mpr (hall x)),
    fun _ => h.agent hp, fun _ => h.net hp, fun _ => h.call hp, h.counts, h.listeners⟩

end

end Sys2Proof.Machine

/-! # The engine's part of a slice (R90 to R95) and POSITION_SLICE (R15) -/

namespace Sys2Proof.Machine

/-! ## States that differ in the outputs of a slice -/

/-- One bare form but for the ports and the slice period. -/
def Beside (q : Ports) (d : Period) (s u : State) : Prop := bare u = { bare s with ports := q, period := d }

section
variable {s u v : State} {q : Ports} {d : Period}

theorem Beside.positions (h : Beside q d s u) : u.positions = s.positions := by
  have hf := congrArg State.positions h
  exact hf

theorem Beside.engine (h : Beside q d s u) : u.engine = s.engine := by
  have hf := congrArg State.engine h
  exact hf

theorem Beside.device (h : Beside q d s u) : u.device = s.device := by
  have hf := congrArg State.device h
  exact hf

theorem Beside.getPos (h : Beside q d s u) (p : PosIx) : getPos u p = getPos s p := by rw [Machine.getPos, Machine.getPos, h.positions]

theorem Beside.putPos (h : Beside q d s u) (p : PosIx) (r : Position) : Beside q d (putPos s p r) (putPos u p r) := by
  have hp := h.positions
  have hb : ∀ x : State, bare (Machine.putPos x p r) = { bare x with positions := x.positions.set p r } := fun _ => rfl
  rw [Beside, hb, hb, h, hp]

theorem Beside.putEngine (h : Beside q d s u) (e : Engine) : Beside q d (putEngine s e) (putEngine u e) := by
  have hb : ∀ x : State, bare (Machine.putEngine x e) = { bare x with engine := e } := fun _ => rfl
  rw [Beside, hb, hb, h]

theorem Beside.placeRequest (h : Beside q d s u) (p : PosIx) (r : SearchRequest) :
    Beside q d (placeRequest p r s).1 (placeRequest p r u).1 := by
  rw [placeRequest_eq, placeRequest_eq p r u, placeRequest_engine p r h.engine (by rw [h.getPos])]
  exact h.putEngine _

/-- What the end of a search makes of the engine depends on the positions and the engine alone (R95). -/
theorem endSearch_engine (o : SearchOutcome) (lag : Option Nat) (f : InFlight) (he : u.engine = s.engine)
    (hp : ∀ p, getPos u p = getPos s p) : (endSearch o lag f u).1.engine = (endSearch o lag f s).1.engine := by
  generalize hP : f.entry.position = p
  have hmoved : ∀ x : State, (∀ q, Machine.getPos x q = Machine.getPos s q) → x.engine = s.engine →
      let y := keepOutcome p ⟨f.entry.request, o, f.eligible, f.elapsed, lag⟩
        (if o = .foundMoved then
          putCanceller x p (moveWindow (windowForPeak (lag.getD 0)) (Machine.getPos x p).canceller) else x)
      y.engine = s.engine ∧ ∀ q, Machine.getPos y q =
        if p = q then searchedRecord o lag f (Machine.getPos s p) else Machine.getPos s q := by
    intro x hx hxe
    unfold searchedRecord keepOutcome
    by_cases ho : o = .foundMoved
    · simp only [if_pos ho]
      refine ⟨hxe, fun q => ?_⟩
      rw [putCanceller, putPos_putPos, getPos_putPos, getPos_putPos, if_pos rfl, hx p, hx q]
    · simp only [if_neg ho]
      refine ⟨hxe, fun q => ?_⟩
      rw [getPos_putPos, hx p, hx q]
  obtain ⟨heu, hpu⟩ := hmoved u hp he
  obtain ⟨hes, hps⟩ := hmoved s (fun _ => rfl) rfl
  unfold endSearch
  rw [hP]
  dsimp only
  generalize keepOutcome p ⟨f.entry.request, o, f.eligible, f.elapsed, lag⟩ _ = a at heu hpu ⊢
  generalize keepOutcome p ⟨f.entry.request, o, f.eligible, f.elapsed, lag⟩ _ = b at hes hps ⊢
  have hab : ∀ q, Machine.getPos a q = Machine.getPos b q := fun q => by rw [hpu, hps]
  have heab : a.engine = b.engine := by rw [heu, hes]
  have hrel : ∀ x y : State, x.engine = y.engine → (∀ q, Machine.getPos x q = Machine.getPos y q) →
      (releaseEngine p x).engine = (releaseEngine p y).engine := by
    intro x y hxe hxp
    unfold releaseEngine
    rw [hxe]
    exact startHead_engine rfl fun q => by rw [getPos_putEngine, getPos_putEngine, hxp]
  rw [hab p]
  split
  · refine hrel _ _ (placeRequest_engine p _ heab (by rw [hab])) fun q => ?_
    rw [placeRequest_eq, placeRequest_eq p _ b]
    exact hab q
  · exact hrel _ _ heab hab

theorem Beside.endSearch (h : Beside q d s u) (o : SearchOutcome) (lag : Option Nat) (f : InFlight) :
    Beside q d (endSearch o lag f s).1 (endSearch o lag f u).1 ∧ (endSearch o lag f u).2 = (endSearch o lag f s).2 := by
  constructor
  · rw [endSearch_eq, endSearch_eq o lag f u, endSearch_engine o lag f h.engine h.getPos, h.getPos]
    exact (h.putPos _ _).putEngine _
  · have hr : ∀ x : State, (Machine.endSearch o lag f x).2 = .echo f.entry.position (.outcome o)
        (searchedRecord o lag f (Machine.getPos x f.entry.position)).canceller.state
        (searchedRecord o lag f (Machine.getPos x f.entry.position)).canceller.window
        (searchedRecord o lag f (Machine.getPos x f.entry.position)).canceller.erle
        (searchedRecord o lag f (Machine.getPos x f.entry.position)).lastSearch := by
      intro x
      unfold Machine.endSearch echoReport keepOutcome searchedRecord
      by_cases ho : o = .foundMoved
      · simp [ho, putCanceller]
      · simp [ho]
    rw [hr, hr, h.getPos]

end

/-! ## The judgement of a search (R92) -/

/-- The search is at its end: complete, or timed out (R92). -/
def AtEnd (s : State) (f : InFlight) : Prop :=
  slicesNeeded f.entry.request.kind ≤ f.eligible ∨ s.device.searchTimeout ≤ f.elapsed

section
variable {s u : State} {q : Ports} {d : Period} {f : InFlight}

/-- The three ways of a judgement (R92). -/
theorem judgeSearch_cases (f : InFlight) (s : State) :
    (∃ o lag, AtEnd s f ∧ judgeSearch f s = ((endSearch o lag f s).1, [(endSearch o lag f s).2])) ∨
      (¬AtEnd s f ∧ judgeSearch f s = (s, [])) := by
  unfold judgeSearch AtEnd
  by_cases hc : searchComplete f = true
  · rw [if_pos hc]
    exact .inl ⟨_, _, .inl (by simpa [searchComplete] using hc), rfl⟩
  · have hc' : ¬slicesNeeded f.entry.request.kind ≤ f.eligible := by simpa [searchComplete] using hc
    rw [if_neg hc]
    by_cases ht : searchTimedOut s.device.searchTimeout f = true
    · rw [if_pos ht]
      simp only [searchTimedOut, Bool.and_eq_true, decide_eq_true_eq] at ht
      exact .inl ⟨_, _, .inr ht.2, rfl⟩
    · rw [if_neg ht]
      simp only [searchTimedOut, hc, Bool.not_false, Bool.true_and, decide_eq_true_eq] at ht
      exact .inr ⟨not_or.mpr ⟨hc', ht⟩, rfl⟩

theorem Beside.judgeSearch (h : Beside q d s u) (f : InFlight) :
    Beside q d (judgeSearch f s).1 (judgeSearch f u).1 ∧ (judgeSearch f u).2 = (judgeSearch f s).2 := by
  have he : ∀ o lag, Beside q d (Machine.endSearch o lag f s).1 (Machine.endSearch o lag f u).1 ∧
      (Machine.endSearch o lag f u).2 = (Machine.endSearch o lag f s).2 := fun o lag => h.endSearch o lag f
  unfold Machine.judgeSearch completeSearch
  rw [h.device, h.engine, h.getPos]
  dsimp only
  split
  · exact ⟨(he _ _).1, congrArg (fun b => [b]) (he _ _).2⟩
  · split
    · exact ⟨(he _ _).1, congrArg (fun b => [b]) (he _ _).2⟩
    · exact ⟨h, rfl⟩

/-- A judgement changes a position's canceller and last search alone. -/
theorem getPos_judgeSearch (f : InFlight) (s : State) (p : PosIx) :
    ∃ c l, getPos (judgeSearch f s).1 p = { getPos s p with canceller := c, lastSearch := l } := by
  obtain ⟨o, lag, -, he⟩ | ⟨-, he⟩ := judgeSearch_cases f s
  · rw [he, endSearch_eq, getPos_putEngine, getPos_putPos]
    split
    · rename_i hp
      rw [hp]
      exact ⟨_, _, rfl⟩
    · exact ⟨_, _, rfl⟩
  · rw [he]
    exact ⟨_, _, rfl⟩

/-- The report of a search that ended shows what it left (R81, R97). -/
theorem judgeSearch_report (h : AtEnd s f) {kept : SearchFields}
    (hk : (getPos (judgeSearch f s).1 f.entry.position).lastSearch = some kept) :
    (judgeSearch f s).2 = [.echo f.entry.position (.outcome kept.outcome)
      (getPos (judgeSearch f s).1 f.entry.position).canceller.state
      (getPos (judgeSearch f s).1 f.entry.position).canceller.window
      (getPos (judgeSearch f s).1 f.entry.position).canceller.erle (some kept)] := by
  obtain ⟨o, lag, -, he⟩ | ⟨hn, -⟩ := judgeSearch_cases f s
  · rw [he] at hk ⊢
    dsimp only at hk ⊢
    have hr : getPos (endSearch o lag f s).1 f.entry.position = searchedRecord o lag f (getPos s f.entry.position) := by
      rw [endSearch_eq, getPos_putEngine, getPos_putPos, if_pos rfl]
    rw [hr] at hk ⊢
    cases hk
    unfold endSearch echoReport keepOutcome searchedRecord
    by_cases ho : o = .foundMoved
    · simp [ho, putCanceller]
    · simp [ho]
  · exact absurd h hn

/-- The row of a search that completes or times out leaves what the judgement leaves (R92, R95). -/
theorem endInFlight_judges (hf : s.engine.inFlight = some f) (hp : processes s f.entry.position = true) :
    bare (if slicesNeeded f.entry.request.kind ≤ f.eligible then endInFlight searchComplete completeSearch s
      else endInFlight (searchTimedOut s.device.searchTimeout) (endSearch .timedOut none) s) = bare (judgeSearch f s).1 := by
  unfold endInFlight judgeSearch
  rw [hf]
  dsimp only
  rw [hp]
  by_cases hc : searchComplete f = true
  · have hn : slicesNeeded f.entry.request.kind ≤ f.eligible := by simpa [searchComplete] using hc
    rw [if_pos hn, if_pos hc, if_pos (by rw [hc]; rfl), bare_raise]
  · have hn : ¬slicesNeeded f.entry.request.kind ≤ f.eligible := by simpa [searchComplete] using hc
    rw [if_neg hn, if_neg hc]
    by_cases ht : searchTimedOut s.device.searchTimeout f = true
    · rw [if_pos ht, if_pos (by rw [ht]; rfl), bare_raise]
    · rw [if_neg ht, if_neg (by simpa using ht)]

end

/-! ## Accumulating (R90, R91) -/

/-- The sum of products of a lag, as a sum over the slice's samples. -/
theorem sliceSum_eq {h y : List Int} {l : Nat} (hh : h.length = 2112) (hy : y.length = 64) (hl : l ≤ 2047) :
    sliceSum h y l = ((List.range 64).map fun j => refSample h j l * y.getD j 0).sum := by
  have hz : List.zipWith (· * ·) (h.drop (2048 - l)) y = (List.range 64).map fun j => refSample h j l * y.getD j 0 := by
    refine List.ext_getElem (by simp; omega) fun j hj hj' => ?_
    simp only [List.length_map, List.length_range] at hj'
    rw [List.getElem_zipWith, List.getElem_map, List.getElem_range, List.getElem_drop, refSample,
      List.getD_eq_getElem _ _ (by omega), List.getD_eq_getElem _ _ (by omega)]
    congr 2
    omega
  rw [sliceSum, dot, hz]

/-- The accumulators after an eligible slice, lag by lag. -/
theorem accumulateSpan_eq {h y acc : List Int} {first last : Nat} (hh : h.length = 2112) (hy : y.length = 64) (hl : last ≤ 2047) :
    accumulateSpan h y first last acc = acc.mapIdx fun l a =>
      if first ≤ l ∧ l ≤ last then
        max (-140737488355328) (min (a + ((List.range 64).map fun j => refSample h j l * y.getD j 0).sum) 140737488355327)
      else a := by
  unfold accumulateSpan
  congr 1
  funext l a
  by_cases hc : first ≤ l ∧ l ≤ last
  · rw [if_pos hc, if_pos hc, sliceSum_eq hh hy (by omega)]
    rfl
  · rw [if_neg hc, if_neg hc]

/-- Stage 4 leaves the history that stage 3 made (R54, R56). -/
theorem cancellerStage_history (t : PosParams) (locked active : Bool) (ys : List Int) (c : Canceller) :
    (cancellerStage t locked active ys c).canceller.history = c.history := by
  have hresearch : ∀ (was : Bool) (x : CancellerSlice), (finishResearch t was x).canceller.history = x.canceller.history := by
    intro was x
    unfold finishResearch researchStep
    split
    · dsimp only
      split
      · rfl
      · split <;> rfl
    · rfl
  have hd : ∀ lest ly c, (divergenceStep lest ly c).1.history = c.history := by
    intro lest ly c
    unfold divergenceStep zeroedCanceller zeroCounters
    (repeat' split) <;> rfl
  have hcv : ∀ n c, (convergenceStep n c).1.history = c.history := by
    intro n c
    unfold convergenceStep zeroCounters
    (repeat' split) <;> rfl
  have hls : ∀ n c, (lossStep n c).1.history = c.history := by
    intro n c
    unfold lossStep
    (repeat' split) <;> rfl
  have hcount : ∀ ly le lest caller c, (adaptingCounters t ly le lest caller c).canceller.history = c.history := by
    intro ly le lest caller c
    unfold adaptingCounters
    dsimp only
    split
    · exact hd ..
    · split
      · exact (hcv ..).trans (hd ..)
      · exact (hls ..).trans (hd ..)
  unfold cancellerStage
  split
  · split
    · rw [cancelSlice, hresearch]
      split
      · exact hcount ..
      · rfl
    · rw [unlockedSlice, hresearch]
  · rfl

/-! ## The state that a slice's judgement leaves -/

/-- The record of a position as its slice leaves it. -/
def sliceRecord (w : SliceWork) (r : Position) : Position :=
  { r with
    suppressor := w.suppressor, canceller := w.canceller.canceller, net := w.net.player, agent := w.agent.player
    tone := w.tone, sliceDue := false }

/-- The ports with the outputs of a slice (R162). -/
def sentPorts (p : PosIx) (w : SliceWork) (r : Ports) : Ports :=
  { r with
    ndout := if r.network.state = .locked then r.ndout.set r.network.slotMap[p] (slotWords w.transmit) else r.ndout
    pdout := if r.position.state = .locked ∧ r.position.role = .master then
      r.pdout.set r.position.slotMap[p] (slotWords w.earpiece) else r.pdout }

/-- The slice period with the earpiece slice of a position. -/
def sentPeriod (p : PosIx) (w : SliceWork) (r : Ports) (d : Period) : Period :=
  { d with earpiece := d.earpiece.set r.position.slotMap[p] (slotWords w.earpiece) }

/-- A record in flight that counted a slice (R90, R92). -/
def countedFlight (active : Bool) (f : InFlight) : InFlight :=
  { f with elapsed := f.elapsed + 1, eligible := if active then f.eligible + 1 else f.eligible }

/-- The engine after the slice of a position (R90). -/
def searchedEngine (p : PosIx) (w : SliceWork) (e : Engine) : Engine :=
  match e.inFlight.filter fun f => f.entry.position == p with
  | none => e
  | some f => accumulate w.active w.canceller.canceller.history w.returned f e

/-- The record and the engine that the stages of a slice leave. -/
def sliceWorked (p : PosIx) (s : State) : State :=
  putEngine (putPos s p (sliceRecord (stages p s) (getPos s p))) (searchedEngine p (stages p s) s.engine)

/-- With the automatic request of the slice (R67, R68). -/
def sliceRequested (p : PosIx) (s : State) : State := sliceRequests p (stages p s) (sliceWorked p s)

/-- With the end of a search that was in flight as the slice began (R92). -/
def sliceEnded (p : PosIx) (s : State) : State :=
  match inFlightFor s p with
  | none => sliceRequested p s
  | some f =>
    if slicesNeeded f.entry.request.kind ≤ (countedFlight (stages p s).active f).eligible then
      endInFlight searchComplete completeSearch (sliceRequested p s)
    else endInFlight (searchTimedOut (sliceRequested p s).device.searchTimeout) (endSearch .timedOut none) (sliceRequested p s)

section
variable {p : PosIx} {s : State} {f : InFlight}

theorem settleSlice_beside (p : PosIx) (w : SliceWork) (s : State) :
    Beside (sentPorts p w s.ports) (sentPeriod p w s.ports s.period)
      (putEngine (putPos s p (sliceRecord w (getPos s p))) (searchedEngine p w s.engine)) (settleSlice p w s) := by
  have hn := bare_settleRun p .net w.net (putPos s p (workedRecord w (getPos s p)))
  have ha := bare_settleRun p .agent w.agent (settleRun p .net w.net (putPos s p (workedRecord w (getPos s p))))
  rw [bare_putPlayer p .agent hn] at ha
  have hrec : putPlayer (putPlayer (putPos s p (workedRecord w (getPos s p))) p .net w.net.player) p .agent w.agent.player =
      putPos s p (sliceRecord w (getPos s p)) := by
    simp [putPlayer, withPlayer, sliceRecord, workedRecord]
  rw [hrec] at ha
  unfold settleSlice
  dsimp only
  generalize settleRun p .agent w.agent _ = x at ha
  have hports : x.ports = s.ports := (ports_of_bare ha).trans rfl
  have hengine : x.engine = s.engine := (engine_of_bare ha).trans rfl
  have hperiod : x.period = s.period := by
    have hf := congrArg State.period ha
    exact hf
  have hsend : Beside (sentPorts p w s.ports) (sentPeriod p w s.ports s.period) (putPos s p (sliceRecord w (getPos s p)))
      (sendSlice p w.transmit w.earpiece x) := by
    have hb : bare (sendSlice p w.transmit w.earpiece x) =
        { bare x with ports := sentPorts p w x.ports, period := sentPeriod p w x.ports x.period } := rfl
    rw [Beside, hb, hports, hperiod, ha]
  have hse : (sendSlice p w.transmit w.earpiece x).engine = s.engine := hengine
  have hsearch : searchSlice p w (sendSlice p w.transmit w.earpiece x) =
      putEngine (sendSlice p w.transmit w.earpiece x) (searchedEngine p w s.engine) := by
    unfold searchSlice inFlightFor searchedEngine
    rw [hse]
    cases s.engine.inFlight.filter fun f => f.entry.position == p with
    | none =>
      dsimp only
      rw [← hse, putEngine_engine_eq]
    | some f => rfl
  rw [hsearch]
  exact hsend.putEngine _

theorem Beside.sliceRequests {q : Ports} {d : Period} {u v : State} (h : Beside q d u v) (p : PosIx) (w : SliceWork) :
    Beside q d (sliceRequests p w u) (sliceRequests p w v) := by
  unfold Machine.sliceRequests
  split
  · exact h.placeRequest _ _
  · exact h

/-- What a request leaves of the engine while the position's search is in flight (R88). -/
theorem inFlight_sliceRequests {u : State} (w : SliceWork) (h : (inFlightFor u p).isSome = true) :
    (sliceRequests p w u).engine.inFlight = u.engine.inFlight := by
  unfold sliceRequests placeRequest
  rw [if_pos h]
  split <;> rfl

theorem position_of_inFlightFor (h : inFlightFor s p = some f) : f.entry.position = p := by
  have h := Option.filter_eq_some_iff.mp h
  simpa using h.2

theorem accumulate_eq (active : Bool) (h y : List Int) (f : InFlight) (e : Engine) :
    accumulate active h y f e =
      { e with
        inFlight := some (countedFlight active f)
        accumulators := if active then accumulateSpan h y f.first f.last e.accumulators else e.accumulators } := by
  cases active <;> rfl

theorem inFlight_sliceRequested (h : inFlightFor s p = some f) :
    (sliceRequested p s).engine.inFlight = some (countedFlight (stages p s).active f) := by
  have hf : s.engine.inFlight.filter (fun f => f.entry.position == p) = some f := h
  have he : (sliceWorked p s).engine.inFlight = some (countedFlight (stages p s).active f) := by
    rw [sliceWorked, putEngine_engine, searchedEngine, hf]
    dsimp only
    rw [accumulate_eq]
  have hp : (inFlightFor (sliceWorked p s) p).isSome = true := by
    have hpos : (countedFlight (stages p s).active f).entry.position = p :=
      show f.entry.position = p from position_of_inFlightFor h
    rw [inFlightFor, he]
    simp [hpos]
  rw [sliceRequested, inFlight_sliceRequests _ hp, he]

theorem requested_beside (p : PosIx) (s : State) :
    Beside (sentPorts p (stages p s) s.ports) (sentPeriod p (stages p s) s.ports s.period) (sliceRequested p s)
      (sliceRequests p (stages p s) (settleSlice p (stages p s) s)) :=
  (settleSlice_beside p (stages p s) s).sliceRequests p (stages p s)

theorem judgedSlice_idle (h : inFlightFor s p = none) :
    judgedSlice p s = (sliceRequests p (stages p s) (settleSlice p (stages p s) s), []) := by
  unfold judgedSlice sliceJudgement
  rw [h]
  split
  · rfl
  · rfl

theorem judgedSlice_searched (h : inFlightFor s p = some f) :
    judgedSlice p s =
      judgeSearch (countedFlight (stages p s).active f) (sliceRequests p (stages p s) (settleSlice p (stages p s) s)) := by
  have hi : inFlightFor (sliceRequests p (stages p s) (settleSlice p (stages p s) s)) p =
      some (countedFlight (stages p s).active f) := by
    have hpos : (countedFlight (stages p s).active f).entry.position = p :=
      show f.entry.position = p from position_of_inFlightFor h
    rw [inFlightFor, (requested_beside p s).engine, inFlight_sliceRequested h]
    simp [hpos]
  unfold judgedSlice sliceJudgement
  rw [hi, h]
  rfl

theorem callAndPlayers_sliceRequested (p : PosIx) (s : State) :
    getPos (sliceRequested p s) p = sliceRecord (stages p s) (getPos s p) := by
  unfold sliceRequested sliceRequests
  split
  · rw [placeRequest_eq]
    simp [sliceWorked]
  · simp [sliceWorked]

/-- The end of the search, against the judgement of the model (R92). -/
theorem sliceEnded_judges (hr : sliceReady s p = true) (h : inFlightFor s p = some f) :
    bare (sliceEnded p s) = bare (judgeSearch (countedFlight (stages p s).active f) (sliceRequested p s)).1 := by
  have hproc : processes (sliceRequested p s) (countedFlight (stages p s).active f).entry.position = true := by
    have hpos : (countedFlight (stages p s).active f).entry.position = p :=
      show f.entry.position = p from position_of_inFlightFor h
    have hports : (sliceRequested p s).ports = s.ports := by
      unfold sliceRequested sliceRequests
      split
      · rw [ports_placeRequest]; rfl
      · rfl
    simp only [sliceReady, Bool.and_eq_true] at hr
    have hp := hr.1.1
    rw [processes] at hp ⊢
    rw [hpos, hports, callAndPlayers_sliceRequested]
    exact hp
  unfold sliceEnded
  rw [h]
  exact endInFlight_judges (inFlight_sliceRequested h) hproc

theorem judgedSlice_beside (hr : sliceReady s p = true) :
    Beside (sentPorts p (stages p s) s.ports) (sentPeriod p (stages p s) s.ports s.period) (sliceEnded p s) (judgedSlice p s).1 := by
  cases h : inFlightFor s p with
  | none =>
    rw [judgedSlice_idle h, sliceEnded, h]
    exact requested_beside p s
  | some f =>
    rw [judgedSlice_searched h, Beside, sliceEnded_judges hr h]
    exact ((requested_beside p s).judgeSearch _).1

theorem sliceRecord_self (w : SliceWork) (r : Position) :
    sliceRecord w r = { sliceRecord w r with canceller := w.canceller.canceller, lastSearch := r.lastSearch } := rfl

theorem sliceRecord_fields (w : SliceWork) (r : Position) (c : Canceller) (l : Option SearchFields) {x : Position}
    (hx : x = { sliceRecord w r with canceller := c, lastSearch := l }) :
    x.call = r.call ∧ x.mute = r.mute ∧ x.announceTag = r.announceTag ∧ x.net = w.net.player ∧ x.agent = w.agent.player := by
  subst hx
  exact ⟨rfl, rfl, rfl, rfl, rfl⟩

/-- The record of the position after the end of the search, but for the units. -/
theorem getPos_sliceEnded (hr : sliceReady s p = true) :
    (getPos (sliceEnded p s) p).call = (getPos s p).call ∧ (getPos (sliceEnded p s) p).mute = (getPos s p).mute ∧
      (getPos (sliceEnded p s) p).announceTag = (getPos s p).announceTag ∧
      (getPos (sliceEnded p s) p).net = (stages p s).net.player ∧ (getPos (sliceEnded p s) p).agent = (stages p s).agent.player := by
  cases h : inFlightFor s p with
  | none =>
    refine sliceRecord_fields _ _ _ _ (Eq.trans ?_ (sliceRecord_self (stages p s) (getPos s p)))
    rw [sliceEnded, h]
    exact callAndPlayers_sliceRequested p s
  | some f =>
    obtain ⟨c, l, hj⟩ := getPos_judgeSearch (countedFlight (stages p s).active f) (sliceRequested p s) p
    refine sliceRecord_fields (stages p s) (getPos s p) c l ?_
    rw [getPos_of_bare (sliceEnded_judges hr h), hj, callAndPlayers_sliceRequested]

end

/-! ## What stages 1, 3 and 4 say of themselves -/

section
variable {p : PosIx} {s : State}

theorem stages_stageOne (p : PosIx) (s : State) :
    StageOne (getPos s p).params s.period.micReceived (levelIndex (micSlice s p)) (getPos s p).suppressor (stages p s).suppressor := by
  have hx : (stages p s).suppressor =
      suppressorStage (getPos s p).params s.period.micReceived (micSlice s p) (getPos s p).suppressor := by simp only [stages]
  rw [hx]
  exact suppressorStage_does ..

theorem stages_returned (p : PosIx) (s : State) : (stages p s).returned = returnSlice s p := by simp only [stages]

theorem isSlice_returned (p : PosIx) (s : State) : IsSlice (stages p s).returned := by
  rw [stages_returned, returnSlice]
  exact isSlice_slotSamples _ _ _

theorem isSlice_transmit (p : PosIx) (s : State) : IsSlice (stages p s).transmit := by
  have hn : IsSlice (netSamples s p) := isSlice_playSamples ..
  rw [stages_transmit]
  exact isSlice_map _ (isSlice_sum3 (isSlice_micTerm _ (isSlice_suppressedMic s p)) hn (isSlice_gated _ (isSlice_toneSlice _)))

/-- The history with the transmit slice (R54). -/
def sliceHistory (p : PosIx) (s : State) : List Int := ((getPos s p).canceller.history ++ (stages p s).transmit).drop 64

theorem stages_canceller (p : PosIx) (s : State) :
    (stages p s).canceller =
      cancellerStage (getPos s p).params s.period.netLocked (stages p s).active (stages p s).returned
        { (getPos s p).canceller with history := sliceHistory p s } := by
  have hl : appendHistory (getPos s p).canceller.history (stages p s).transmit = sliceHistory p s := by
    rw [appendHistory, isSlice_transmit p s, sliceHistory]
  rw [← hl]
  simp only [stages]

theorem length_sliceHistory (hc : CancellerOk (getPos s p)) : (sliceHistory p s).length = 2112 := by
  obtain ⟨-, -, -, -, ⟨hh, -⟩, -⟩ := hc
  have ht : (stages p s).transmit.length = 64 := isSlice_transmit p s
  simp [sliceHistory, hh, ht]

theorem stages_stageFour (hc : CancellerOk (getPos s p)) :
    StageFour (getPos s p).params s.period.netLocked (stages p s).active (stages p s).returned
      { (getPos s p).canceller with history := sliceHistory p s } (stages p s).canceller := by
  have hh := length_sliceHistory hc
  obtain ⟨-, -, hd, -, -, ⟨hco, -⟩, -⟩ := hc
  rw [stages_canceller]
  exact cancellerStage_does _ _ _ _ _ hh hco hd (isSlice_returned p s)

/-- A slice is reference-active as R59 says. -/
theorem stages_active (p : PosIx) (s : State) :
    (stages p s).active = true ↔ s.period.netLocked = true ∧
      (((getPos s p).call = .connected ∧ (getPos s p).mute = false ∧ (stages p s).suppressor.vad = true) ∨
        (∃ it c, (getPos s p).net.current = some it ∧ it.source = .clip c) ∨
        (∃ it i, (getPos s p).net.current = some it ∧ it.source = .stream i ∧ (getStream s i).sounding = true) ∨
        ((getPos s p).tone.running = true ∧ (getPos s p).tone.cycle < (getPos s p).tone.onTime ∧
          (getPos s p).tone.route ≠ .ear)) := by
  have ha : (stages p s).active = referenceActive s (getPos s p) (stages p s).suppressor.vad := by simp only [stages]
  have hplayer : playerActive s (getPos s p).net = true ↔
      (∃ it c, (getPos s p).net.current = some it ∧ it.source = .clip c) ∨
        (∃ it i, (getPos s p).net.current = some it ∧ it.source = .stream i ∧ (getStream s i).sounding = true) := by
    unfold playerActive
    cases (getPos s p).net.current with
    | none => simp
    | some it => cases hs : it.source <;> simp [hs]
  rw [ha, referenceActive, Bool.and_eq_true, Bool.or_eq_true, Bool.or_eq_true, hplayer]
  simp only [micIncluded, onTimeSlice, Bool.and_eq_true, decide_eq_true_eq, Bool.not_eq_true', routeHasNet_iff, and_assoc, or_assoc]

theorem searchedEngine_eq (hc : CancellerOk (getPos s p)) (he : EngineOk s) :
    searchedEngine p (stages p s) s.engine =
      match s.engine.inFlight.filter fun f => f.entry.position == p with
      | none => s.engine
      | some f =>
        { s.engine with
          inFlight := some (countedFlight (stages p s).active f)
          accumulators :=
            if (stages p s).active then
              s.engine.accumulators.mapIdx fun l a =>
                if f.first ≤ l ∧ l ≤ f.last then
                  max (-140737488355328)
                    (min (a + ((List.range 64).map fun j => refSample (sliceHistory p s) j l * (stages p s).returned.getD j 0).sum)
                      140737488355327)
                else a
            else s.engine.accumulators } := by
  have hhist : (stages p s).canceller.canceller.history = sliceHistory p s := by rw [stages_canceller, cancellerStage_history]
  obtain ⟨-, -, -, -, hflight⟩ := he
  unfold searchedEngine
  cases hf : s.engine.inFlight.filter fun f => f.entry.position == p with
  | none => rfl
  | some f =>
    obtain ⟨-, -, ⟨-, hl, -, -⟩⟩ := hflight f (Option.filter_eq_some_iff.mp hf).1
    dsimp only
    rw [accumulate_eq, hhist, accumulateSpan_eq (length_sliceHistory hc) (isSlice_returned p s) hl]

end

/-! ## POSITION_SLICE -/

section
variable {p : PosIx} {s : State}

/-- What a slice needs of its position for a whisper done (R7), in terms of its stages. -/
theorem sliceWhispers_iff (hr : sliceReady s p = true) :
    SliceWhispers p s ↔
      (getPos s p).call = .announce ∧ (getPos s p).agent.current ≠ none ∧ (stages p s).agent.player.current = none := by
  obtain ⟨hcall, -, -, -, hagent⟩ := getPos_sliceEnded hr
  rw [SliceWhispers, (judgedSlice_beside hr).getPos, hcall, hagent, Option.isSome_iff_ne_none]
  exact and_left_comm

/-- What a slice leaves, in terms of the end of its search. -/
theorem bare_of_handedOver {t : State} (hr : sliceReady s p = true) (h : HandedOver p s sliceActs t)
    {call : CallState} {net : Player}
    (hw : SliceWhispers p s → call = .connected ∧ net = idlePlayer)
    (hq : ¬SliceWhispers p s → call = (getPos s p).call ∧ net = (stages p s).net.player) :
    bare t = bare { putPos (sliceEnded p s) p { getPos (sliceEnded p s) p with call := call, net := net } with
      ports := sentPorts p (stages p s) s.ports, period := sentPeriod p (stages p s) s.ports s.period } := by
  have hb := judgedSlice_beside hr
  obtain ⟨hcall, -, -, hnet, -⟩ := getPos_sliceEnded hr
  by_cases hd : SliceWhispers p s
  · obtain ⟨rfl, rfl⟩ := hw hd
    rw [h.whispered (by simp [sliceActs]) hd, hb.getPos]
    exact hb.putPos p _
  · obtain ⟨hcl, hn⟩ := hq hd
    rw [h.quiet fun hx => hd hx.2, hcl, hn, ← hcall, ← hnet]
    rw [show ({ getPos (sliceEnded p s) p with
        call := (getPos (sliceEnded p s) p).call, net := (getPos (sliceEnded p s) p).net } : Position) =
      getPos (sliceEnded p s) p from rfl, putPos_getPos]
    exact hb

/-! ## The counts after a slice (R114, R135) -/

theorem getPlayer_of_samePlayers {t : State} (h : SamePlayers s t) (q : PosIx) (w : PlayerId) : getPlayer t q w = getPlayer s q w := by
  have hq := h q
  simp only [callAndPlayers, Prod.mk.injEq] at hq
  obtain ⟨-, hn, ha⟩ := hq
  cases w
  · exact hn
  · exact ha

/-- What leaves the players, the clips and the streams of a state leaves its counts. -/
theorem counts_of_same {t : State} (h : SamePlayers s t) (hs : t.store = s.store) (hi : t.streams = s.streams) :
    (CountsOk s → CountsOk t) ∧ (ListenersOk s → ListenersOk t) :=
  ⟨(countsOk_congr (congrArg Store.clips hs) (getPlayer_of_samePlayers h)).mpr,
    (listenersOk_congr hi (getPlayer_of_samePlayers h)).mpr⟩

/-- A slice's requests and the judgement leave the players, the store and the streams. -/
theorem judgedSlice_keeps (p : PosIx) (s : State) :
    SamePlayers (settleSlice p (stages p s) s) (judgedSlice p s).1 ∧
      (judgedSlice p s).1.store = (settleSlice p (stages p s) s).store ∧
      (judgedSlice p s).1.streams = (settleSlice p (stages p s) s).streams := by
  have hend : ∀ o lag f (x : State), (endSearch o lag f x).1.store = x.store ∧ (endSearch o lag f x).1.streams = x.streams := by
    intro o lag f x
    rw [endSearch_eq]
    exact ⟨rfl, rfl⟩
  have hreq : ∀ x : State, (sliceRequests p (stages p s) x).store = x.store ∧ (sliceRequests p (stages p s) x).streams = x.streams := by
    intro x
    unfold sliceRequests
    split
    · rw [placeRequest_eq]
      exact ⟨rfl, rfl⟩
    · exact ⟨rfl, rfl⟩
  have hjudge : ∀ b (x : State), (sliceJudgement p b x).1.store = x.store ∧ (sliceJudgement p b x).1.streams = x.streams := by
    intro b x
    unfold sliceJudgement
    split
    · exact ⟨rfl, rfl⟩
    · split
      · rename_i f _ _
        obtain ⟨o, lag, -, he⟩ | ⟨-, he⟩ := judgeSearch_cases f x
        · rw [he]
          exact hend o lag f x
        · rw [he]
          exact ⟨rfl, rfl⟩
      · exact ⟨rfl, rfl⟩
  obtain ⟨h1, h2⟩ := hreq (settleSlice p (stages p s) s)
  obtain ⟨h3, h4⟩ := hjudge (inFlightFor s p).isSome (sliceRequests p (stages p s) (settleSlice p (stages p s) s))
  exact ⟨(samePlayers_sliceRequests _ _ _).trans (samePlayers_sliceJudgement _ _ _), h3.trans h1, h4.trans h2⟩

/-- The counts follow the items that completed and those that became current (R114, R134, R135). -/
theorem counts_settleSlice {w : SliceWork} (hn : RunCounts (getPos s p).net w.net) (ha : RunCounts (getPos s p).agent w.agent) :
    (CountsOk s → CountsOk (settleSlice p w s)) ∧ (ListenersOk s → ListenersOk (settleSlice p w s)) := by
  have hsame : SamePlayers s (putPos s p (workedRecord w (getPos s p))) := samePlayers_putPos rfl
  obtain ⟨hc0, hl0⟩ := counts_of_same hsame rfl rfl
  have hnet : RunCounts (getPlayer (putPos s p (workedRecord w (getPos s p))) p .net) w.net := by
    rw [getPlayer_of_samePlayers hsame]
    exact hn
  have hagent : RunCounts (getPlayer (settleRun p .net w.net (putPos s p (workedRecord w (getPos s p)))) p .agent) w.agent := by
    rw [getPlayer_of_bare p .agent (bare_settleRun ..), getPlayer_putPlayer_other _ p .net .agent _ (by simp),
      getPlayer_of_samePlayers hsame]
    exact ha
  have hsearch : ∀ x, (searchSlice p w x).store = x.store ∧ (searchSlice p w x).streams = x.streams := by
    intro x
    unfold searchSlice
    split
    · exact ⟨rfl, rfl⟩
    · exact ⟨rfl, rfl⟩
  obtain ⟨hs, hi⟩ := hsearch (sendSlice p w.transmit w.earpiece
    (settleRun p .agent w.agent (settleRun p .net w.net (putPos s p (workedRecord w (getPos s p))))))
  obtain ⟨hc1, hl1⟩ := counts_of_same (s := settleRun p .agent w.agent (settleRun p .net w.net
    (putPos s p (workedRecord w (getPos s p))))) (t := settleSlice p w s)
    (samePlayers_of_positions (searchSlice_positions ..)) hs hi
  exact ⟨fun h => hc1 (countsOk_settleRun (countsOk_settleRun (hc0 h) hnet) hagent),
    fun h => hl1 (listenersOk_settleRun (listenersOk_settleRun (hl0 h) hnet) hagent)⟩

theorem counts_judgedSlice (p : PosIx) (s : State) :
    (CountsOk s → CountsOk (judgedSlice p s).1) ∧ (ListenersOk s → ListenersOk (judgedSlice p s).1) := by
  have hn : RunCounts (getPos s p).net (stages p s).net := by
    rw [stages_net]
    exact runCounts_playSamples s _ _ (runCounts_beginRun _)
  have ha : RunCounts (getPos s p).agent (stages p s).agent := by
    rw [stages_agent]
    exact runCounts_playSamples s _ _ (runCounts_beginRun _)
  obtain ⟨hc, hl⟩ := counts_settleSlice hn ha
  obtain ⟨hp, hs, hi⟩ := judgedSlice_keeps p s
  obtain ⟨hcj, hlj⟩ := counts_of_same hp hs hi
  exact ⟨fun h => hcj (hc h), fun h => hlj (hl h)⟩

/-! ## The reports of a slice -/

theorem runAfter_net (p : PosIx) (s : State) : runAfter s plainGain (beginRun (getPos s p).net) 64 = (stages p s).net := by
  rw [stages_net, runAfter]

theorem runAfter_agent (p : PosIx) (s : State) :
    runAfter s (agentGain (stages p s).suppressor.vad (getPos s p).params.duck) (beginRun (getPos s p).agent) 64 =
      (stages p s).agent := by
  rw [stages_agent, runAfter]

theorem netPlayers_end (p : PosIx) (s : State) : netPlayers s p 64 = (stages p s).net.player := by rw [netPlayers, runAfter_net]

theorem agentPlayers_end (p : PosIx) (s : State) : agentPlayers s p 64 = (stages p s).agent.player := by
  rw [agentPlayers, runAfter_agent]

/-- The state in which a canceller's event is reported (R81). -/
theorem getPos_settleSlice (p : PosIx) (s : State) :
    getPos (settleSlice p (stages p s) s) p = sliceRecord (stages p s) (getPos s p) := by
  rw [(settleSlice_beside p (stages p s) s).getPos, getPos_putEngine, getPos_putPos, if_pos rfl]

/-- The ECHO reports of a slice whose search did not end: the canceller's event (R65, R66). -/
theorem echo_of_event {ev : EchoEvent} (hev : (stages p s).canceller.event = some ev)
    (hend : ∀ f, inFlightFor s p = some f → ¬AtEnd s (countedFlight (stages p s).active f)) :
    (sliceBodies p s .echo).getLast? = some (.echo p ev (stages p s).canceller.canceller.state
      (stages p s).canceller.canceller.window (stages p s).canceller.canceller.erle (getPos s p).lastSearch) := by
  have hj : (judgedSlice p s).2 = [] := by
    cases h : inFlightFor s p with
    | none => rw [judgedSlice_idle h]
    | some f =>
      rw [judgedSlice_searched h]
      obtain ⟨o, lag, hat, -⟩ | ⟨-, he⟩ := judgeSearch_cases (countedFlight (stages p s).active f)
        (sliceRequests p (stages p s) (settleSlice p (stages p s) s))
      · have hdev : (sliceRequests p (stages p s) (settleSlice p (stages p s) s)).device = s.device := by
          rw [(requested_beside p s).device, sliceRequested, sliceRequests]
          split
          · rw [placeRequest_eq]; rfl
          · rfl
        rw [AtEnd, hdev] at hat
        exact absurd hat (hend f h)
      · rw [he]
  have hb : cancellerReports p (stages p s) (settleSlice p (stages p s) s) = [echoReport p ev (settleSlice p (stages p s) s)] := by
    rw [cancellerReports, hev]
  rw [sliceBodies, hj, List.append_nil, hb, echoReport, getPos_settleSlice]
  rfl

/-- The ECHO reports of a slice whose search ended: the search's, last (R97). -/
theorem echo_of_end {f : InFlight} {kept : SearchFields} (hr : sliceReady s p = true) (hf : inFlightFor s p = some f)
    (hend : AtEnd s (countedFlight (stages p s).active f)) (hk : (getPos (sliceEnded p s) p).lastSearch = some kept) :
    (sliceBodies p s .echo).getLast? = some (.echo p (.outcome kept.outcome) (getPos (sliceEnded p s) p).canceller.state
      (getPos (sliceEnded p s) p).canceller.window (getPos (sliceEnded p s) p).canceller.erle (some kept)) := by
  have hpos : (countedFlight (stages p s).active f).entry.position = p :=
    show f.entry.position = p from position_of_inFlightFor hf
  have hdev : (sliceRequested p s).device = s.device := by
    rw [sliceRequested, sliceRequests]
    split
    · rw [placeRequest_eq]; rfl
    · rfl
  have hrec : getPos (sliceEnded p s) p = getPos (judgeSearch (countedFlight (stages p s).active f) (sliceRequested p s)).1 p :=
    getPos_of_bare (sliceEnded_judges hr hf) p
  have hrep := judgeSearch_report (s := sliceRequested p s) (f := countedFlight (stages p s).active f) (kept := kept)
    (by rw [AtEnd, hdev]; exact hend) (by rw [hpos, ← hrec]; exact hk)
  rw [hpos, ← hrec] at hrep
  rw [sliceBodies, judgedSlice_searched hf, ((requested_beside p s).judgeSearch _).2, hrep, List.getLast?_concat]


/-- The players of a slice keep their bounds (R123). -/
theorem playerOk_net_stages (hp : PlayersOk (getPos s p)) : PlayerOk (stages p s).net.player := by
  obtain ⟨hn, -⟩ := hp
  rw [stages_net]
  exact (runOk_playSamples s _ _ (runOk_beginRun hn)).1

theorem playerOk_net_judgedSlice (hr : sliceReady s p = true) (hp : PlayersOk (getPos s p)) :
    PlayerOk (getPos (judgedSlice p s).1 p).net := by
  obtain ⟨-, -, -, hnet, -⟩ := getPos_sliceEnded hr
  rw [(judgedSlice_beside hr).getPos, hnet]
  exact playerOk_net_stages hp

section
variable {t : State}

/-- The report of a changed boost target waits (R49). -/
theorem HandedOver.levelReport (h : HandedOver p s sliceActs t)
    (hne : (stages p s).suppressor.target ≠ (getPos s p).suppressor.target) :
    ∃ n, Message.report (.level p (stages p s).suppressor.target (getPos s p).suppressor.target (stages p s).suppressor.boost
      (stages p s).suppressor.floor.level) n ∈ t.link.outbound :=
  (h.last .level (by simp [sliceActs]) (by simp)).report (by rw [sliceBodies, levelReports, if_neg hne]; rfl)

/-- The report of a cadence that ended waits (R161). -/
theorem HandedOver.toneReport (h : HandedOver p s sliceActs t) (he : (stages p s).toneEnded = true) :
    ∃ n, Message.report (.tone p .completed (stages p s).tone.route (stages p s).tone.burstCount (stages p s).tone.bursts) n
      ∈ t.link.outbound :=
  (h.last .tone (by simp [sliceActs]) (by simp)).report (by rw [sliceBodies, toneReports, if_pos he]; rfl)

/-- The ECHO report of a slice waits (R81, R97). -/
theorem HandedOver.echoReport (h : HandedOver p s sliceActs t) {b : ReportBody}
    (hb : (sliceBodies p s .echo).getLast? = some b) : ∃ n, Message.report b n ∈ t.link.outbound :=
  (h.last .echo (by simp [sliceActs]) (by simp)).report hb

/-- The reports of the AGENT player's items that completed (R139). -/
theorem HandedOver.agentReport (h : HandedOver p s sliceActs t) : CompletedReport s t p .agent (agentPlayers s p) := by
  refine completedReport_of_waits (gain := agentGain (stages p s).suppressor.vad (getPos s p).params.duck) ?_
  rw [runAfter_agent]
  exact h.agent (by simp [sliceActs])

/-- The reports of the NET player's items that completed, where no whisper done clears it (R139, R7). -/
theorem HandedOver.netReport (h : HandedOver p s sliceActs t) (hr : sliceReady s p = true)
    (hn : ¬(SliceWhispers p s ∧ (stages p s).net.player.current ≠ none)) : CompletedReport s t p .net (netPlayers s p) := by
  obtain ⟨-, -, -, hnet, -⟩ := getPos_sliceEnded hr
  refine completedReport_of_waits (gain := plainGain) ?_
  rw [runAfter_net]
  refine h.net (by simp [sliceActs]) ?_
  rw [(judgedSlice_beside hr).getPos, hnet]
  exact hn

/-- The reports of a whisper done (R7, R14). -/
theorem HandedOver.whisperReports (h : HandedOver p s sliceActs t) (hr : sliceReady s p = true) (hw : SliceWhispers p s) :
    WhisperReport t p (getPos s p) ∧ ClearedReport t p .net (stages p s).net.player := by
  obtain ⟨-, hmute, htag, hnet, -⟩ := getPos_sliceEnded hr
  obtain ⟨hwr, hcl⟩ := h.call (by simp [sliceActs]) hw
  rw [(judgedSlice_beside hr).getPos] at hwr hcl
  rw [hnet] at hcl
  have hrep := hwr.report
  rw [WhisperReport, hmute, htag] at hrep
  exact ⟨hrep, hcl.report⟩

end

end

/-- Settles O54: the stages say what they make of the records, the judgement is the row of the search that
ends, and the acts of the completion hand over the reports in whichever order. -/
theorem positionSliceRunsTheStages : Obligations.PositionSliceRunsTheStages := by
  unfold Obligations.PositionSliceRunsTheStages
  refine fun s p => ⟨fun hr => ?_, fun hr hp hc he => ?_⟩
  · have hx : positionSlice p s = s := by rw [positionSlice, hr, if_neg (by simp)]
    exact congrArg Host.Outcome.next hx
  intro r w h whisper worked searched counted needed atEnd product e s1 s2
  have hneeded : needed = fun f => slicesNeeded f.entry.request.kind := by
    funext f
    cases hk : f.entry.request.kind <;> simp [needed, slicesNeeded, hk]
  have he' : e = searchedEngine p w s.engine := (searchedEngine_eq hc he).symm
  have hs1 : s1 = sliceWorked p s := by
    rw [sliceWorked, ← he']
    rfl
  have hs2 : s2 = sliceRequested p s := by
    rw [sliceRequested, ← hs1]
    simp only [sliceRequests, Bool.or_eq_true]
    rfl
  have hatEnd : ∀ f, atEnd f ↔ AtEnd s (countedFlight w.active f) := fun f => by
    show needed f ≤ _ ∨ _ ↔ _
    rw [hneeded]
    rfl
  have hwhisper : SliceWhispers p s ↔ whisper := by
    simp only [whisper, r, w]
    exact sliceWhispers_iff hr
  obtain ⟨t, hh, hproc⟩ := handedOver_processSlice (playerOk_net_judgedSlice hr hp)
  have hexec : exec (.positionSlice p) s = .next (spendDraw t) := by
    have hx : positionSlice p s = spendDraw t := by rw [positionSlice, if_pos hr, hproc]
    exact congrArg Host.Outcome.next hx
  obtain ⟨hnet, hagent⟩ := players_play p s
  refine ⟨?_, ?_, ?_, ?_, netPlayers s p, agentPlayers s p, fun k => (netSamples s p).getD k 0, fun k => (agentSamples s p).getD k 0,
    fun k => (toneSlice (getPos s p).tone).1.getD k 0, spendDraw t, sliceEnded p s,
    ⟨hnet, rfl, ?_⟩, ⟨hagent, rfl, ?_⟩, ?_, hexec, fun hs => ?_, fun f hs => ?_, ?_, fun ev hev hno => ?_, fun f kept hs hend hk => ?_,
    ?_, hh.agentReport, fun hn => ?_, fun hw => ?_, ?_, fun hcounts => ?_, fun hlisten => ?_⟩
  · simp only [w]
    exact stages_stageOne p s
  · simp only [w]
    rw [stages_returned, returnSlice, slotSamples]
  · simp only [w]
    exact stages_active p s
  · simp only [w]
    exact stages_stageFour hc
  · simp only [w]
    exact netPlayers_end p s
  · simp only [w]
    exact agentPlayers_end p s
  · simp only [w]
    exact tone_plays p s
  · rw [hs2, sliceEnded, show inFlightFor s p = none from hs]
  · rw [hs2, sliceEnded, show inFlightFor s p = some f from hs, hneeded]
    have hcount : (counted f).eligible = (countedFlight (stages p s).active f).eligible := rfl
    rw [hcount]
    dsimp only
    split
    · rfl
    · rfl
  · simp only [w]
    exact hh.levelReport
  · exact hh.echoReport (echo_of_event hev fun f hf => by rw [← hatEnd]; exact hno f hf)
  · exact hh.echoReport (echo_of_end hr hs ((hatEnd f).mp hend) hk)
  · simp only [w]
    exact hh.toneReport
  · refine hh.netReport hr ?_
    rw [hwhisper]
    simp only [w] at hn ⊢
    exact hn
  · simp only [w]
    exact hh.whisperReports hr (hwhisper.mpr hw)
  · refine (bare_of_handedOver hr hh (fun hd => ?_) fun hd => ?_)
    · rw [if_pos (hwhisper.mp hd), if_pos (hwhisper.mp hd)]
      exact ⟨rfl, rfl⟩
    · rw [if_neg fun h => hd (hwhisper.mpr h), if_neg fun h => hd (hwhisper.mpr h)]
      simp only [w, r, and_self]
  · exact hh.counts ((counts_judgedSlice p s).1 hcounts)
  · exact hh.listeners ((counts_judgedSlice p s).2 hlisten)

end Sys2Proof.Machine

/-! # What a position's slice leaves alone (R15) -/

namespace Sys2Proof.Machine

/-! ## The frame of a slice -/

/-- A state without what the slices of the positions change. -/
def sliceless (s : State) : State :=
  { bare s with
    positions := positionsAtReset
    engine := engineAtReset
    ports := clearedOutputs s.ports
    period := { s.period with earpiece := silentBlock } }

section
variable {s t : State} {p : PosIx}

theorem sliceless_of_bare (h : bare t = bare s) : sliceless t = sliceless s := by
  have hf : ∀ x, sliceless x = sliceless (bare x) := fun x => by
    have hb : bare (bare x) = bare x := by
      unfold bare
      simp only [Vector.map_map]
      rfl
    rw [sliceless, sliceless, hb]
    rfl
  rw [hf t, h, ← hf s]

@[simp] theorem sliceless_putPos (s : State) (p : PosIx) (r : Position) : sliceless (putPos s p r) = sliceless s := rfl
@[simp] theorem sliceless_putEngine (s : State) (e : Engine) : sliceless (putEngine s e) = sliceless s := rfl
@[simp] theorem sliceless_spendDraw (s : State) : sliceless (spendDraw s) = sliceless s := rfl
@[simp] theorem sliceless_raise (b : ReportBody) (s : State) : sliceless (raise b s) = sliceless s := sliceless_of_bare (bare_raise b s)
@[simp] theorem sliceless_raiseAll (bs : List ReportBody) (s : State) : sliceless (raiseAll bs s) = sliceless s :=
  sliceless_of_bare (bare_raiseAll bs s)
@[simp] theorem sliceless_placeRequest (p : PosIx) (r : SearchRequest) (s : State) :
    sliceless (placeRequest p r s).1 = sliceless s := by rw [placeRequest_eq, sliceless_putEngine]
@[simp] theorem sliceless_endSearch (o : SearchOutcome) (lag : Option Nat) (f : InFlight) (s : State) :
    sliceless (endSearch o lag f s).1 = sliceless s := by rw [endSearch_eq, sliceless_putEngine, sliceless_putPos]

theorem sliceless_putPlayer (s : State) (p : PosIx) (w : PlayerId) (pl : Player) : sliceless (putPlayer s p w pl) = sliceless s := rfl

theorem sliceless_clearPlayer (p : PosIx) (w : PlayerId) (reason : LeaveReason) (s : State) :
    sliceless (clearPlayer p w reason s) = sliceless s := by
  have hd : sliceless (dropLists p w reason (fun _ => true) s) = sliceless s :=
    (sliceless_of_bare (bare_dropLists p w reason _ s)).trans (sliceless_putPlayer ..)
  rw [clearPlayer, sliceless_of_bare (bare_endCurrent p w reason _)]
  split
  · exact hd
  · exact hd

theorem sliceless_whisperCheck (p : PosIx) (was : Bool) (s : State) : sliceless (whisperCheck p was s) = sliceless s := by
  unfold whisperCheck
  split
  · rw [whisperDone_eq, sliceless_raise, whisperCleared, sliceless_clearPlayer, sliceless_putPos]
  · rfl

theorem sliceless_sent {q : Ports} {d : Period} (h : Beside q d s t) (hq : clearedOutputs q = clearedOutputs s.ports)
    (hd : { d with earpiece := silentBlock } = { s.period with earpiece := silentBlock }) : sliceless t = sliceless s := by
  have hp : t.ports = q := (congrArg State.ports h).trans rfl
  have hpd : t.period = d := (congrArg State.period h).trans rfl
  rw [sliceless, sliceless, hp, hpd, hq, hd, h]

theorem clearedOutputs_sentPorts (p : PosIx) (w : SliceWork) (r : Ports) : clearedOutputs (sentPorts p w r) = clearedOutputs r := by
  unfold clearedOutputs sentPorts
  by_cases hm : r.position.role = .master
  · simp [hm]
  · simp [hm]

theorem sliceless_settleSlice (p : PosIx) (w : SliceWork) (s : State) : sliceless (settleSlice p w s) = sliceless s :=
  (sliceless_sent (settleSlice_beside p w s) (clearedOutputs_sentPorts p w s.ports) rfl).trans rfl

theorem sliceless_sliceRequests (p : PosIx) (w : SliceWork) (s : State) : sliceless (sliceRequests p w s) = sliceless s := by
  unfold sliceRequests
  split
  · rw [sliceless_placeRequest]
  · rfl

theorem sliceless_sliceJudgement (p : PosIx) (b : Bool) (s : State) : sliceless (sliceJudgement p b s).1 = sliceless s := by
  unfold sliceJudgement
  split
  · rfl
  · split
    · rename_i f _ _
      obtain ⟨o, lag, -, he⟩ | ⟨-, he⟩ := judgeSearch_cases f s
      · rw [he, sliceless_endSearch]
      · rw [he]
    · rfl

theorem sliceless_judgedSlice (p : PosIx) (s : State) : sliceless (judgedSlice p s).1 = sliceless s :=
  (sliceless_sliceJudgement ..).trans ((sliceless_sliceRequests ..).trans (sliceless_settleSlice ..))

/-- A slice leaves what is not its own. -/
theorem sliceless_positionSlice (p : PosIx) (s : State) : sliceless (positionSlice p s) = sliceless s := by
  unfold positionSlice
  split
  · rw [processSlice_eq]
    refine inFreeOrder_keeps (P := fun t => sliceless t = sliceless s) _ _ (sliceless_judgedSlice p s) ?_ fun t ht => ht
    intro act ha t ht
    obtain ⟨x, -, rfl⟩ := List.mem_map.mp ha
    cases x with
    | players => exact (sliceless_whisperCheck ..).trans ((sliceless_raiseAll ..).trans ht)
    | level => exact (sliceless_raiseAll ..).trans ht
    | tone => exact (sliceless_raiseAll ..).trans ht
    | echo => exact (sliceless_raiseAll ..).trans ht
  · rfl

theorem sliceless_slices (l : List PosIx) (s : State) : sliceless (l.foldl (fun t p => positionSlice p t) s) = sliceless s :=
  foldl_keeps (P := fun t => sliceless t = sliceless s) (fun t p ht => (sliceless_positionSlice p t).trans ht) l s rfl

/-! ## What the frame says -/

theorem clips_of_sliceless (h : sliceless t = sliceless s) (c : ClipIx) :
    { getClip t c with refCount := 0 } = { getClip s c with refCount := 0 } := by
  have hc := congrArg (fun x => getClip x c) h
  simpa [sliceless, bare, getClip] using hc

theorem streams_of_sliceless (h : sliceless t = sliceless s) (i : StreamIx) :
    { getStream t i with listeners := 0 } = { getStream s i with listeners := 0 } := by
  have hc := congrArg (fun x => getStream x i) h
  simpa [sliceless, bare, getStream] using hc

theorem mem_of_sliceless (h : sliceless t = sliceless s) : t.store.mem = s.store.mem := by
  have hf := congrArg (fun x => x.store.mem) h
  exact hf

theorem compaction_of_sliceless (h : sliceless t = sliceless s) : t.store.compaction = s.store.compaction := by
  have hf := congrArg (fun x => x.store.compaction) h
  exact hf

theorem outputs_of_sliceless (h : sliceless t = sliceless s) : clearedOutputs t.ports = clearedOutputs s.ports := by
  have hf := congrArg State.ports h
  exact hf

theorem pending_of_sliceless (h : sliceless t = sliceless s) : t.pending = s.pending := by
  have hf := congrArg State.pending h
  exact hf

theorem link_of_sliceless (h : sliceless t = sliceless s) :
    { t.link with outbound := [], reading := none } = { s.link with outbound := [], reading := none } := by
  have hf := congrArg State.link h
  exact hf

end

end Sys2Proof.Machine

/-! # The turns of compaction and the moves (R116 to R118) -/

namespace Sys2Proof.Machine

/-! ## What the turns read: the store, and where the rings lie -/

/-- What compaction reads of a stream. -/
def ringOf (r : Stream) : StreamState × Nat × Nat := (r.state, r.firstPage, r.pageCount)

/-- One store, and the rings in the same places. -/
def SpaceAlike (a b : State) : Prop := a.store = b.store ∧ ∀ i, ringOf (getStream a i) = ringOf (getStream b i)

section
variable {a b s : State}

theorem getClip_of_store (h : a.store = b.store) (c : ClipIx) : getClip a c = getClip b c := by rw [getClip, getClip, h]

theorem SpaceAlike.holders (h : SpaceAlike a b) : nextHolder a = nextHolder b := by
  obtain ⟨hs, hr⟩ := h
  have hrings : ringHolders a = ringHolders b := by
    unfold ringHolders
    congr 1
    funext i
    have hi := hr i
    simp only [ringOf, Prod.mk.injEq] at hi
    obtain ⟨hst, hf, -⟩ := hi
    rw [hst, hf]
  have hclips : clipHolders a = clipHolders b := by
    unfold clipHolders
    simp only [getClip_of_store hs]
  rw [nextHolder, nextHolder, hrings, hclips, hs]

theorem streams_toList (s : State) : s.streams.toList = (List.finRange 4).map (getStream s) := by
  refine List.ext_getElem (by simp) fun i hi hj => ?_
  simp [getStream]

theorem SpaceAlike.placeBelow (h : SpaceAlike a b) (c : ClipIx) : placeBelow a c = placeBelow b c := by
  obtain ⟨hs, hr⟩ := h
  have hrings : a.streams.toList.flatMap streamRegion = b.streams.toList.flatMap streamRegion := by
    rw [streams_toList, streams_toList, List.flatMap_map, List.flatMap_map]
    congr 1
    funext i
    have hi := hr i
    simp only [ringOf, Prod.mk.injEq] at hi
    obtain ⟨hst, hf, hp⟩ := hi
    rw [streamRegion, streamRegion, hst, hf, hp]
  have hother : otherRegions a c = otherRegions b c := by
    unfold otherRegions
    simp only [getClip_of_store hs, hrings]
  rw [Machine.placeBelow, Machine.placeBelow, hother, getClip_of_store hs]

theorem SpaceAlike.pinned (h : SpaceAlike a b) (x : Holder) : pinned a x = pinned b x := by
  cases x with
  | ring i => rfl
  | clip c => simp only [Machine.pinned, getClip_of_store h.1]

/-! ## One turn -/

@[simp] theorem takeTurn_streams (s : State) : (takeTurn s).streams = s.streams := by
  unfold takeTurn
  split
  · simp [endCompaction, spendDraw]
  · rename_i x _
    cases hx : x.2 with
    | ring i => rfl
    | clip c =>
      simp only [turnOf]
      split
      · rfl
      · split <;> rfl

/-- The store that a turn leaves depends on the store and the places of the rings alone. -/
theorem SpaceAlike.takeTurn (h : SpaceAlike a b) : SpaceAlike (takeTurn a) (takeTurn b) := by
  refine ⟨?_, fun i => by rw [getStream, getStream, takeTurn_streams, takeTurn_streams]; exact h.2 i⟩
  have hs := h.1
  have hput : ∀ k, (putCompaction a k).store = (putCompaction b k).store := fun k => by
    show { a.store with compaction := k } = { b.store with compaction := k }
    rw [hs]
  unfold Machine.takeTurn
  rw [h.holders]
  cases nextHolder b with
  | none =>
    show (spendDraw (raise _ (putCompaction a compactionIdle))).store = (spendDraw (raise _ (putCompaction b compactionIdle))).store
    rw [spendDraw_store, spendDraw_store, raise_store, raise_store, hput]
  | some x =>
    obtain ⟨page, x⟩ := x
    cases x with
    | ring i =>
      simp only [turnOf]
      rw [hs]
      exact hput _
    | clip c =>
      simp only [turnOf, h.pinned, h.placeBelow, hs]
      split
      · exact hput _
      · split
        · exact hput _
        · simp only [beginMove, putCompaction_store, putClip_store, getClip_of_store (hput _)]
          rw [hs]

theorem SpaceAlike.turns (n : Nat) : ∀ {a b : State}, SpaceAlike a b → SpaceAlike (turns n a) (turns n b) := by
  induction n with
  | zero => exact fun h => h
  | succ n ih =>
    intro a b h
    have hd : turnDue a = turnDue b := by rw [turnDue, turnDue, h.1]
    rw [Machine.turns, Machine.turns, hd]
    split
    · exact ih h.takeTurn
    · exact h

@[simp] theorem turns_streams (n : Nat) (s : State) : (turns n s).streams = s.streams := by
  induction n generalizing s with
  | zero => rfl
  | succ n ih =>
    rw [turns]
    split
    · rw [ih, takeTurn_streams]
    · rfl

theorem turns_idle (n : Nat) (h : turnDue s = false) : turns n s = s := by
  cases n with
  | zero => rfl
  | succ n => rw [turns, h]; rfl

/-- The TURN row, over and over. -/
theorem execAll_turns (n : Nat) (s : State) : execAll (List.replicate n .turn) s = .next (turns n s) := by
  induction n generalizing s with
  | zero => rfl
  | succ n ih =>
    have he : exec .turn s = .next (if turnDue s then takeTurn s else s) := rfl
    rw [List.replicate_succ, execAll, he]
    dsimp only
    rw [ih, turns]
    split
    · rfl
    · rename_i hd
      rw [turns_idle n (by simpa using hd)]

/-! ## A move that completes -/

theorem SpaceAlike.finishMove (h : SpaceAlike a b) : SpaceAlike (finishMove a) (finishMove b) := by
  have hs := h.1
  have hd : moveDone a = moveDone b := by rw [moveDone, moveDone, hs]
  unfold Machine.finishMove
  rw [hd]
  split
  · unfold completeMove
    rw [hs]
    split
    · exact h
    · refine SpaceAlike.turns 69 ⟨?_, h.2⟩
      simp only [putCompaction_store, putClip_store, getClip_of_store hs]
      rw [hs]
  · exact h

@[simp] theorem finishMove_streams (s : State) : (finishMove s).streams = s.streams := by
  unfold finishMove completeMove
  split
  · split
    · rfl
    · exact turns_streams ..
  · rfl

/-! ## The bytes -/

theorem takeTurn_mem (s : State) : (takeTurn s).store.mem = s.store.mem := by
  unfold takeTurn
  split
  · show (spendDraw (raise _ (putCompaction s compactionIdle))).store.mem = _
    rw [spendDraw_store, raise_store]
    rfl
  · rename_i x _
    cases hx : x.2 with
    | ring i => rfl
    | clip c =>
      simp only [turnOf]
      split
      · rfl
      · split <;> rfl

theorem turns_mem (n : Nat) (s : State) : (turns n s).store.mem = s.store.mem := by
  induction n generalizing s with
  | zero => rfl
  | succ n ih =>
    rw [turns]
    split
    · rw [ih, takeTurn_mem]
    · rfl

theorem finishMove_mem (s : State) : (finishMove s).store.mem = s.store.mem := by
  unfold finishMove completeMove
  split
  · split
    · rfl
    · exact (turns_mem ..).trans rfl
  · rfl

/-! ## Moves stay within the store -/

/-- Every allocation lies within the 2048 pages, and a move leads downwards, by the pages of its clip. -/
structure MovesInside (s : State) : Prop where
  clips : ∀ c, (getClip s c).firstPage + (getClip s c).pageCount ≤ 2048
  move : ∀ m, s.store.compaction.move = some m →
    m.dest < m.source ∧ m.source + m.pages ≤ 2048 ∧ m.copied ≤ m.pages ∧ m.pages = (getClip s m.clip).pageCount

theorem movesInside_of (hc : ∀ c, ClipOk (getClip s c)) (hs : SpaceOk s) (hm : MoveOk s) : MovesInside s := by
  obtain ⟨-, -, -, hin, -⟩ := hs
  have hclips : ∀ c, (getClip s c).firstPage + (getClip s c).pageCount ≤ 2048 := by
    intro c
    by_cases hf : (getClip s c).state = .free
    · obtain ⟨hfree, -⟩ := hc c
      rw [hfree hf]
      decide
    · exact hin c ((getClip s c).firstPage, (getClip s c).pageCount) (by simp [clipHolds, clipRegion, hf])
  refine ⟨hclips, fun m h => ?_⟩
  obtain ⟨-, hsrc, hpages, hlt, hcopied, -⟩ := hm.1 m h
  refine ⟨hlt, ?_, hcopied, hpages⟩
  rw [hsrc, hpages]
  exact hclips m.clip

theorem MovesInside.congr (h : MovesInside s) (hc : ∀ c, { getClip a c with refCount := 0 } = { getClip s c with refCount := 0 })
    (hk : a.store.compaction = s.store.compaction) : MovesInside a := by
  have hfields : ∀ c, (getClip a c).firstPage = (getClip s c).firstPage ∧ (getClip a c).pageCount = (getClip s c).pageCount := by
    intro c
    have hf := hc c
    simp only [Clip.mk.injEq] at hf
    tauto
  refine ⟨fun c => ?_, fun m hm => ?_⟩
  · rw [(hfields c).1, (hfields c).2]
    exact h.clips c
  · rw [hk] at hm
    rw [(hfields m.clip).2]
    exact h.move m hm

/-- A compaction without a move. -/
theorem MovesInside.idle (h : MovesInside s) {k : Compaction} (hk : k.move = none) : MovesInside (putCompaction s k) := by
  refine ⟨h.clips, fun m hm => ?_⟩
  rw [putCompaction_store] at hm
  exact absurd (hk.symm.trans hm) (by simp)

theorem placeBelow_lt {c : ClipIx} {p : Nat} (h : placeBelow s c = some p) : p < (getClip s c).firstPage :=
  List.mem_range.mp (List.mem_of_find?_eq_some h)

theorem MovesInside.beginMove (h : MovesInside s) {c : ClipIx} {p : Nat} (hp : p < (getClip s c).firstPage) :
    MovesInside (beginMove c p s) := by
  have hget : ∀ d, (getClip (Machine.beginMove c p s) d).firstPage = (getClip s d).firstPage ∧
      (getClip (Machine.beginMove c p s) d).pageCount = (getClip s d).pageCount := by
    intro d
    simp only [Machine.beginMove, getClip_putCompaction, getClip_putClip]
    split
    · rename_i hd
      subst hd
      exact ⟨rfl, rfl⟩
    · exact ⟨rfl, rfl⟩
  refine ⟨fun d => ?_, fun m hm => ?_⟩
  · rw [(hget d).1, (hget d).2]
    exact h.clips d
  · have hm' : some (⟨c, (getClip s c).firstPage, p, (getClip s c).pageCount, 0⟩ : Move) = some m := hm
    cases hm'
    rw [(hget c).2]
    exact ⟨hp, h.clips c, Nat.zero_le _, rfl⟩

theorem MovesInside.takeTurn (h : MovesInside s) (hd : turnDue s = true) : MovesInside (takeTurn s) := by
  have hnone : s.store.compaction.move = none := by
    simp only [turnDue, Bool.and_eq_true, Option.isNone_iff_eq_none] at hd
    exact hd.2
  unfold Machine.takeTurn
  split
  · have hi : MovesInside (putCompaction s compactionIdle) := h.idle rfl
    exact hi.congr (fun c => by rw [endCompaction, getClip_spendDraw, getClip_raise]) (by rw [endCompaction, spendDraw_store, raise_store])
  · rename_i x _
    cases hx : x.2 with
    | ring i => exact h.idle hnone
    | clip c =>
      simp only [turnOf]
      split
      · exact h.idle hnone
      · split
        · exact h.idle hnone
        · rename_i p hp
          have hi : MovesInside (putCompaction s { s.store.compaction with scan := some x.1 }) := h.idle hnone
          exact hi.beginMove (placeBelow_lt hp)

theorem MovesInside.turns (n : Nat) : ∀ {s : State}, MovesInside s → MovesInside (turns n s) := by
  induction n with
  | zero => exact fun h => h
  | succ n ih =>
    intro s h
    rw [Machine.turns]
    split
    · rename_i hd
      exact ih (h.takeTurn hd)
    · exact h

theorem MovesInside.finishMove (h : MovesInside s) : MovesInside (finishMove s) := by
  unfold Machine.finishMove completeMove
  split
  · split
    · exact h
    · rename_i m hm
      obtain ⟨hlt, hin, -, hpages⟩ := h.move m hm
      refine MovesInside.turns 69 (s := putCompaction (putClip s m.clip (settledClip m (getClip s m.clip)))
        { s.store.compaction with move := none }) ⟨fun c => ?_, fun n hn => absurd (show none = some n from hn) (by simp)⟩
      rw [getClip_putCompaction, getClip_putClip]
      split
      · rename_i hc
        show m.dest + (getClip s m.clip).pageCount ≤ 2048
        omega
      · exact h.clips c
  · exact h

/-! ## The copying of one period (R118) -/

/-- The store after the copying of one period. -/
def copiedStore (st : Store) : Store :=
  match st.compaction.move with
  | none => st
  | some m =>
    { st with
      mem := copyBytes (256 * min 8 (m.pages - m.copied)) ((m.source + m.copied) * 256) ((m.dest + m.copied) * 256) st.mem
      compaction := { st.compaction with move := some { m with copied := m.copied + min 8 (m.pages - m.copied) } } }

theorem copyPages_store (s : State) : (copyPages s).store = copiedStore s.store := by
  unfold copyPages copiedStore
  cases s.store.compaction.move <;> rfl

@[simp] theorem copyPages_streams (s : State) : (copyPages s).streams = s.streams := by
  unfold copyPages
  split <;> rfl

theorem copiedStore_none {st : Store} (h : st.compaction.move = none) : copiedStore st = st := by
  unfold copiedStore
  rw [h]

theorem copiedStore_some {st : Store} {m : Move} (h : st.compaction.move = some m) :
    copiedStore st =
      { st with
        mem := (copiedStore st).mem
        compaction := { st.compaction with move := some { m with copied := m.copied + min 8 (m.pages - m.copied) } } } := by
  unfold copiedStore
  rw [h]

/-- Each copied byte reads at the destination as it read at the source, every other byte as before. -/
theorem copiedStore_bytes {m : Move} (h : MovesInside s) (hw : Memory.wf s.store.mem) (hm : s.store.compaction.move = some m) :
    let n := min 8 (m.pages - m.copied)
    let source := (m.source + m.copied) * 256
    let dest := (m.dest + m.copied) * 256
    (∀ k, k < 256 * n → readByte (copiedStore s.store).mem (dest + k) = readByte s.store.mem (source + k)) ∧
      ∀ x, x < dest ∨ dest + 256 * n ≤ x → readByte (copiedStore s.store).mem x = readByte s.store.mem x := by
  intro n source dest
  obtain ⟨hlt, hin, hcopied, -⟩ := h.move m hm
  have hmem : (copiedStore s.store).mem = copyBytes (256 * n) source dest s.store.mem := by
    unfold copiedStore
    rw [hm]
  have hread : ∀ x, readByte (copiedStore s.store).mem x =
      if dest ≤ x ∧ x < dest + 256 * n then readByte s.store.mem (source + (x - dest)) else readByte s.store.mem x := by
    intro x
    rw [hmem]
    refine readByte_copyBytes (256 * n) source dest x hw ?_ ?_
    · show (m.dest + m.copied) * 256 < (m.source + m.copied) * 256
      omega
    · show (m.dest + m.copied) * 256 + 256 * min 8 (m.pages - m.copied) ≤ 524288
      omega
  refine ⟨fun k hk => ?_, fun x hx => ?_⟩
  · rw [hread, if_pos ⟨by omega, by omega⟩]
    congr 1
    omega
  · rw [hread, if_neg (by omega)]

end

end Sys2Proof.Machine

/-! # The elastic buffers in a slice period (R166, R167) -/

namespace Sys2Proof.Machine

/-! ## The buffers -/

/-- The ports after an earpiece slice joined the transmit buffer. -/
def joinedTx (x : AudioBlock) (r : Ports) : Ports :=
  { r with
    tx := (if 3 ≤ r.tx.length then r.tx.drop 1 else r.tx) ++ [x]
    slips := { r.slips with txOver := if 3 ≤ r.tx.length then bump16 r.slips.txOver else r.slips.txOver } }

/-- The ports after a received slice joined the receive buffer. -/
def joinedRx (x : AudioBlock) (r : Ports) : Ports :=
  { r with
    rx := (if 3 ≤ r.rx.length then r.rx.drop 1 else r.rx) ++ [⟨true, x⟩]
    slips := { r.slips with rxOver := if 3 ≤ r.rx.length then bump16 r.slips.rxOver else r.slips.rxOver } }

/-- The ports after the head of the receive buffer is taken. -/
def tookRx (r : Ports) : Ports :=
  { r with
    rx := r.rx.drop 1
    slips := { r.slips with rxUnder := if r.rx = [] then bump16 r.slips.rxUnder else r.slips.rxUnder } }

section
variable (s : State)

theorem joinTx_does (x : AudioBlock) :
    joinTx x s =
      if buffering s.ports then
        (putPorts s (joinedTx x s.ports), if 3 ≤ s.ports.tx.length then [slipReport (joinedTx x s.ports)] else [])
      else (s, []) := by
  unfold joinTx joinedTx
  cases buffering s.ports
  · rfl
  · by_cases h : 3 ≤ s.ports.tx.length <;> simp [h]

theorem joinRx_does (x : AudioBlock) :
    joinRx x s = (putPorts s (joinedRx x s.ports), if 3 ≤ s.ports.rx.length then [slipReport (joinedRx x s.ports)] else []) := by
  unfold joinRx joinedRx
  by_cases h : 3 ≤ s.ports.rx.length <;> simp [h]

theorem takeRx_does :
    takeRx s =
      (s.ports.rx.headD ⟨false, silentBlock⟩, putPorts s (tookRx s.ports), if s.ports.rx = [] then [slipReport (tookRx s.ports)] else []) := by
  unfold takeRx tookRx
  cases h : s.ports.rx <;> simp [h]

end

/-! ## The report of a slip -/

/-- A report of the ports' kind and source. -/
def slipKey : ReportBody := slipReport portsAtPowerOn

/-- The report of a slip waits (R166, R168). -/
def SlipWaits (t : State) : Prop := ∃ x n, waiting slipKey t = some (slipReport x, n)

/-- Reports of slips alone. -/
def SlipsAlone (bs : List ReportBody) : Prop := ∀ b ∈ bs, ∃ x, b = slipReport x

section
variable {t u : State} {bs : List ReportBody}

theorem SlipWaits.mono (h : SlipWaits t) (hw : waiting slipKey u = waiting slipKey t) : SlipWaits u :=
  let ⟨x, n, e⟩ := h; ⟨x, n, hw.trans e⟩

theorem SlipWaits.report (h : SlipWaits t) : ∃ n x, Message.report (portReport .slip (.one .position) x) n ∈ t.link.outbound :=
  let ⟨x, n, e⟩ := h; ⟨n, x, waiting_mem e⟩

theorem sameReport_slipKey (x : Ports) : sameReport slipKey (slipReport x) = true := rfl

theorem slipWaits_raise (x : Ports) (t : State) : SlipWaits (raise (slipReport x) t) :=
  ⟨x, _, waiting_raise_same (sameReport_slipKey x)⟩

/-- Slips that are reported leave the report of a slip waiting. -/
theorem SlipWaits.raiseAll (h : SlipWaits t) (hb : SlipsAlone bs) : SlipWaits (raiseAll bs t) := by
  induction bs generalizing t with
  | nil => exact h
  | cons b rest ih =>
    obtain ⟨x, rfl⟩ := hb b List.mem_cons_self
    rw [raiseAll_cons]
    exact ih (slipWaits_raise x t) fun c hc => hb c (List.mem_cons_of_mem _ hc)

theorem slipWaits_raiseAll (hb : SlipsAlone bs) (hn : bs ≠ []) (t : State) : SlipWaits (raiseAll bs t) := by
  cases bs with
  | nil => exact absurd rfl hn
  | cons b rest =>
    obtain ⟨x, rfl⟩ := hb b List.mem_cons_self
    rw [raiseAll_cons]
    exact (slipWaits_raise x t).raiseAll fun c hc => hb c (List.mem_cons_of_mem _ hc)

theorem slipsAlone_ite (c : Prop) [Decidable c] (x : Ports) : SlipsAlone (if c then [slipReport x] else []) := by
  intro b hb
  split at hb
  · exact ⟨x, List.mem_singleton.mp hb⟩
  · exact absurd hb List.not_mem_nil

theorem waiting_slips {k : ReportBody} (hk : reportKind k ≠ 0x69) (hb : SlipsAlone bs) (t : State) :
    waiting k (raiseAll bs t) = waiting k t := by
  refine waiting_raiseAll_other bs t fun b hm => ?_
  obtain ⟨x, rfl⟩ := hb b hm
  exact sameReport_of_kind hk

end

/-! ## An operation on the buffers -/

/-- The ports change, slips are reported, and the rest stays; where a slip occurs its report waits. -/
structure Buffered (s : State) (r : Ports) (slip : Prop) (t : State) : Prop where
  ports : t.ports = r
  period : t.period = s.period
  frame : portless t = portless s
  slips : slip → SlipWaits t
  keeps : SlipWaits s → SlipWaits t
  others : ∀ k, reportKind k ≠ 0x69 → waiting k t = waiting k s

section
variable {s t u : State} {r q : Ports} {a b : Prop}

theorem buffered_raiseAll {bs : List ReportBody} (s : State) (r : Ports) (hb : SlipsAlone bs) (hn : a → bs ≠ []) :
    Buffered s r a (raiseAll bs (putPorts s r)) where
  ports := by rw [raiseAll_ports]; rfl
  period := by rw [raiseAll_period]; rfl
  frame := by rw [portless_raiseAll, portless_putPorts]
  slips ha := slipWaits_raiseAll hb (hn ha) _
  keeps h := (h.mono (u := putPorts s r) rfl).raiseAll hb
  others k hk := waiting_slips hk hb _

theorem Buffered.rfl (s : State) : Buffered s s.ports False s := ⟨by rfl, by rfl, by rfl, False.elim, id, fun _ _ => by rfl⟩

theorem Buffered.trans (h : Buffered s r a t) (g : Buffered t q b u) : Buffered s q (a ∨ b) u where
  ports := g.ports
  period := g.period.trans h.period
  frame := g.frame.trans h.frame
  slips hs := hs.elim (fun ha => g.keeps (h.slips ha)) g.slips
  keeps hs := g.keeps (h.keeps hs)
  others k hk := (g.others k hk).trans (h.others k hk)

theorem Buffered.mono (h : Buffered s r a t) (hi : b → a) : Buffered s r b t := { h with slips := fun hb => h.slips (hi hb) }

end

/-- The earpiece slice of a period that ends (R166). -/
theorem handEarpiece_does (s : State) :
    Buffered s (if buffering s.ports then joinedTx s.period.earpiece s.ports else s.ports)
      (buffering s.ports = true ∧ 3 ≤ s.ports.tx.length) (handEarpiece s) := by
  unfold handEarpiece
  rw [joinTx_does]
  by_cases hb : buffering s.ports = true
  · rw [if_pos hb, if_pos hb]
    exact buffered_raiseAll s _ (slipsAlone_ite _ _) fun h => by rw [if_pos h.2]; simp
  · rw [if_neg hb, if_neg hb]
    exact (Buffered.rfl s).mono fun h => hb h.1

/-- The ports after a group that completes as the period begins. -/
def grouped (group : Option AudioBlock) (r : Ports) : Ports := group.elim r fun g => joinedRx g r

theorem groupFirst_does (group : Option AudioBlock) (s : State) :
    Buffered s (grouped group s.ports) (group ≠ none ∧ 3 ≤ s.ports.rx.length) (groupFirst group s) := by
  cases group with
  | none => exact (Buffered.rfl s).mono fun h => h.1 rfl
  | some g =>
    rw [groupFirst, joinRx_does]
    exact buffered_raiseAll s _ (slipsAlone_ite _ _) fun h => by rw [if_pos h.2]; simp

theorem groupLast_does (group : Option AudioBlock) (s : State) :
    Buffered s (group.elim s.ports fun _ => tookTx s.ports) (group ≠ none ∧ s.ports.tx = []) (groupLast group s) := by
  cases group with
  | none => exact (Buffered.rfl s).mono fun h => h.1 rfl
  | some g =>
    rw [groupLast, takeTx_does]
    exact buffered_raiseAll s _ (slipsAlone_ite _ _) fun h => by rw [if_pos h.2]; simp

/-! ## The microphones of a period -/

/-- The ports after the microphones of a period, with a group that completes as it begins. -/
def micPorts (group : Option AudioBlock) (r : Ports) : Ports :=
  if buffering r then
    let q := tookRx (grouped group r)
    group.elim q fun _ => tookTx q
  else r

/-- The microphone slice of a period. -/
def micSource (posIn : AudioBlock) (group : Option AudioBlock) (r : Ports) : RxSlice :=
  if buffering r then (grouped group r).rx.headD ⟨false, silentBlock⟩
  else if r.position.state = .locked then ⟨true, posIn⟩ else ⟨false, silentBlock⟩

/-- A slip in the microphones of a period. -/
def MicSlips (group : Option AudioBlock) (r : Ports) : Prop :=
  buffering r = true ∧
    ((group ≠ none ∧ 3 ≤ r.rx.length) ∨ (grouped group r).rx = [] ∨ (group ≠ none ∧ r.tx = []))

/-- The period with its microphone slice. -/
def heard (x : RxSlice) (d : Period) : Period := { d with micReceived := x.received, micWords := x.words }

section
variable (posIn : AudioBlock) (group : Option AudioBlock) (s : State)

theorem takeMic_does :
    ∃ t, Buffered s (tookRx s.ports) (s.ports.rx = []) t ∧
      takeMic s = putPeriod t (heard (s.ports.rx.headD ⟨false, silentBlock⟩) s.period) := by
  refine ⟨raiseAll (if s.ports.rx = [] then [slipReport (tookRx s.ports)] else []) (putPorts s (tookRx s.ports)),
    buffered_raiseAll s _ (slipsAlone_ite _ _) fun h => by rw [if_pos h]; simp, ?_⟩
  rw [takeMic, takeRx_does]
  by_cases h : s.ports.rx = []
  · simp only [if_pos h, raiseAll_cons, raiseAll_nil]
    unfold raise
    dsimp only [putPeriod, putPorts, putLink, heard]
    cases coalesce (slipReport (tookRx s.ports)) s.link.outbound <;> rfl
  · simp only [if_neg h, raiseAll_nil]
    rfl

theorem tx_grouped (r : Ports) : (tookRx (grouped group r)).tx = r.tx := by cases group <;> rfl

/-- Everything the microphones of a period do. -/
theorem receiveMic_does :
    (receiveMic posIn group s).ports = micPorts group s.ports ∧
      (receiveMic posIn group s).period = heard (micSource posIn group s.ports) s.period ∧
      portless (receiveMic posIn group s) = portless s ∧ (MicSlips group s.ports → SlipWaits (receiveMic posIn group s)) ∧
      (SlipWaits s → SlipWaits (receiveMic posIn group s)) ∧
      ∀ k, reportKind k ≠ 0x69 → waiting k (receiveMic posIn group s) = waiting k s := by
  by_cases hb : buffering s.ports = true
  · have hf := groupFirst_does group s
    obtain ⟨t, ht, hmic⟩ := takeMic_does (groupFirst group s)
    rw [hf.ports, hf.period] at hmic
    rw [hf.ports] at ht
    have hx : receiveMic posIn group s = groupLast group (putPeriod t (heard (micSource posIn group s.ports) s.period)) := by
      rw [receiveMic, if_pos hb, hmic, micSource, if_pos hb]
    have hl := groupLast_does group (putPeriod t (heard (micSource posIn group s.ports) s.period))
    have htp : (putPeriod t (heard (micSource posIn group s.ports) s.period)).ports = tookRx (grouped group s.ports) := ht.ports
    rw [← hx, htp, tx_grouped] at hl
    have hft := hf.trans ht
    refine ⟨?_, hl.period, hl.frame.trans hft.frame, fun hs => ?_, fun hs => hl.keeps ((hft.keeps hs).mono rfl),
      fun k hk => (hl.others k hk).trans (hft.others k hk)⟩
    · rw [hl.ports, micPorts, if_pos hb]
    · obtain ⟨-, h1 | h2 | h3⟩ := hs
      · exact hl.keeps ((hft.slips (.inl h1)).mono rfl)
      · exact hl.keeps ((hft.slips (.inr h2)).mono rfl)
      · exact hl.slips h3
  · have hx : receiveMic posIn group s = putPeriod s (heard (micSource posIn group s.ports) s.period) := by
      rw [receiveMic, if_neg hb, micSource, if_neg hb]
      split
      · rfl
      · rfl
    rw [hx, micPorts, if_neg hb]
    exact ⟨rfl, rfl, rfl, fun h => absurd h.1 hb, fun h => h.mono rfl, fun _ _ => rfl⟩

end

end Sys2Proof.Machine

/-! # The acts of a slice period's begin (R148, R165) -/

namespace Sys2Proof.Machine

/-! ## What a fixing leaves of a stream -/

section
variable (m : List Host.Cell)

/-- A fixing leaves the state of the stream and the place of its ring. -/
theorem ringOf_enterHalf (n : Nat) (x : FixRun) : ringOf (enterHalf n x).stream = ringOf x.stream := by
  have hw : ∀ (r : Stream) (h : Fin 2) (y : Half), ringOf (withHalf r h y) = ringOf r := fun r h y => by
    unfold withHalf
    split
    · rfl
    · rfl
  induction n generalizing x with
  | zero => rfl
  | succ n ih =>
    rw [enterHalf]
    dsimp only
    split
    · split
      · exact hw ..
      · exact (ih _).trans (hw ..)
    · rfl
    · rfl

theorem ringOf_fixSample (x : FixRun) : ringOf (fixSample m x).2.stream = ringOf x.stream := by
  have hw : ∀ (r : Stream) (h : Fin 2) (y : Half), ringOf (withHalf r h y) = ringOf r := fun r h y => by
    unfold withHalf
    split
    · rfl
    · rfl
  unfold fixSample
  dsimp only
  split
  · split
    · exact (ringOf_enterHalf ..).trans (hw ..)
    · rfl
  · rfl

theorem ringOf_fixSamples (n : Nat) (x : FixRun) : ringOf (fixSamples m n x).2.stream = ringOf x.stream := by
  induction n generalizing x with
  | zero => rfl
  | succ n ih => exact (ih _).trans (ringOf_fixSample m x)

theorem ringOf_fixStream (r : Stream) : ringOf (fixStream m r).stream = ringOf r := by
  unfold fixStream
  split
  · have h := ringOf_fixSamples m 64 (beginFixing r)
    generalize fixSamples m 64 (beginFixing r) = y at h
    refine Eq.trans (show _ = ringOf y.2.stream from rfl) (h.trans ?_)
    unfold beginFixing
    split
    · rfl
    · exact ringOf_enterHalf ..
  · rfl

/-- A stream that records events is RUNNING. -/
theorem running_of_events {r : Stream} (h : (fixStream m r).events ≠ []) : (fixStream m r).stream.state = .running := by
  have hr := congrArg Prod.fst (ringOf_fixStream m r)
  refine Eq.trans hr ?_
  by_contra hn
  have hne : r.state ≠ .running := hn
  rw [fixStream, if_neg hne] at h
  exact h rfl

end

/-! ## The reports of a fixing -/

/-- A report of a stream's kind and source. -/
def streamKey (i : StreamIx) : ReportBody := streamReport i closedStream (.underrun, 0)

theorem sameReport_streamKey (i : StreamIx) (r : Stream) (e : StreamEvent × Fin 2) :
    sameReport (streamKey i) (streamReport i r e) = true := by simp [sameReport, streamKey, streamReport, reportKind, reportSource]

theorem reportKind_streamKey (i : StreamIx) : reportKind (streamKey i) = 0x6B := rfl

theorem reportKind_slipKey : reportKind slipKey = 0x69 := rfl

theorem fixReports_key (i : StreamIx) (x : FixRun) : ∀ b ∈ fixReports i x, sameReport (streamKey i) b = true := by
  intro b hb
  obtain ⟨e, -, rfl⟩ := List.mem_map.mp hb
  exact sameReport_streamKey ..

theorem sameReport_streamKey_ne {i j : StreamIx} (h : i ≠ j) : sameReport (streamKey i) (streamKey j) = false := by
  revert h
  revert i j
  decide

theorem waiting_fixOne {k : ReportBody} {i : StreamIx} (hk : sameReport k (streamKey i) = false) (s : State) :
    waiting k (fixOne i s) = waiting k s :=
  (waiting_raiseAll_keys _ (fixReports_key i _) hk).trans rfl

/-- Reports of compaction are of the store's kind. -/
theorem waiting_takeTurn {k : ReportBody} (hk : reportKind k ≠ 0x6A) (s : State) : waiting k (takeTurn s) = waiting k s := by
  have hstore : sameReport k (storeReport s) = false := sameReport_of_kind hk
  unfold takeTurn
  split
  · show waiting k (raise (storeReport s) (putCompaction s compactionIdle)) = _
    rw [waiting_raise, hstore]
    rfl
  · rename_i x _
    cases hx : x.2 with
    | ring i => rfl
    | clip c =>
      simp only [turnOf]
      split
      · rfl
      · split <;> rfl

theorem waiting_turns {k : ReportBody} (hk : reportKind k ≠ 0x6A) (n : Nat) (s : State) : waiting k (turns n s) = waiting k s := by
  induction n generalizing s with
  | zero => rfl
  | succ n ih =>
    rw [turns]
    split
    · rw [ih, waiting_takeTurn hk]
    · rfl

theorem waiting_finishMove {k : ReportBody} (hk : reportKind k ≠ 0x6A) (s : State) : waiting k (finishMove s) = waiting k s := by
  unfold finishMove completeMove
  split
  · split
    · rfl
    · exact (waiting_turns hk ..).trans rfl
  · rfl

theorem waiting_compactPeriod {k : ReportBody} (hk : reportKind k ≠ 0x6A) (s : State) :
    waiting k (compactPeriod s) = waiting k s := by
  have hc : ∀ x, waiting k (copyPages x) = waiting k x := fun x => by
    unfold copyPages
    split
    · rfl
    · rfl
  rw [compactPeriod, hc, allTurns, waiting_turns hk]

/-! ## What the acts have left -/

/-- What different units do as a slice period begins. -/
inductive BeginAct where
  | mic
  | fix (i : StreamIx)
  | compact

/-- The acts in the order of the model. -/
def beginActs : List BeginAct := [.mic, .fix 0, .fix 1, .fix 2, .fix 3, .compact]

theorem nodup_beginActs : beginActs.Nodup := by simp [beginActs]

def beginAct (posIn : AudioBlock) (group : Option AudioBlock) : BeginAct → State → State
  | .mic => receiveMic posIn group
  | .fix i => fixOne i
  | .compact => compactPeriod

/-- A state without the ports, the period, the store, the streams and the reports. -/
def unitless (s : State) : State := portless (storeless s)

theorem unitless_of_portless {s t : State} (h : portless t = portless s) : unitless t = unitless s := by
  have hc : ∀ x, unitless x = storeless (portless x) := fun _ => rfl
  rw [hc, h, hc]

theorem unitless_of_storeless {s t : State} (h : storeless t = storeless s) : unitless t = unitless s := by
  rw [unitless, h, unitless]

/-- A stream that has fixed its slice, with the last event of the fixing reported. -/
def Fixed (x t : State) (st : Store) (i : StreamIx) : Prop :=
  ∃ mem, (mem = st.mem ∨ mem = (copiedStore st).mem) ∧ getStream t i = (fixStream mem (getStream x i)).stream ∧
    LastWaits (streamKey i) (fixReports i (fixStream mem (getStream x i))) t

/-- What the acts done have made of the state in which the period begins; `st` is the store after the turns that are due. -/
structure Begun (posIn : AudioBlock) (group : Option AudioBlock) (x : State) (st : Store) (done : List BeginAct) (t : State) : Prop where
  heard : BeginAct.mic ∈ done → t.ports = micPorts group x.ports ∧ t.period = heard (micSource posIn group x.ports) x.period ∧
    (MicSlips group x.ports → SlipWaits t)
  unheard : BeginAct.mic ∉ done → t.ports = x.ports ∧ t.period = x.period
  slips : SlipWaits x → SlipWaits t
  compacted : BeginAct.compact ∈ done → t.store = copiedStore st
  uncompacted : BeginAct.compact ∉ done → t.store = x.store
  fixed : ∀ i, BeginAct.fix i ∈ done → Fixed x t st i
  unfixed : ∀ i, BeginAct.fix i ∉ done → getStream t i = getStream x i
  rings : ∀ i, ringOf (getStream t i) = ringOf (getStream x i)
  frame : unitless t = unitless x

section
variable {posIn : AudioBlock} {group : Option AudioBlock} {x t u : State} {st : Store} {done : List BeginAct}

theorem Fixed.mono {i : StreamIx} (h : Fixed x t st i) (hs : getStream u i = getStream t i)
    (hw : waiting (streamKey i) u = waiting (streamKey i) t) : Fixed x u st i :=
  let ⟨mem, hm, hf, hl⟩ := h
  ⟨mem, hm, hs.trans hf, hl.mono hw⟩

theorem Begun.start (x : State) (st : Store) : Begun posIn group x st [] x where
  heard h := absurd h List.not_mem_nil
  unheard _ := ⟨rfl, rfl⟩
  slips := id
  compacted h := absurd h List.not_mem_nil
  uncompacted _ := rfl
  fixed _ h := absurd h List.not_mem_nil
  unfixed _ _ := rfl
  rings _ := rfl
  frame := rfl

theorem mem_of_cons {a b : BeginAct} (h : a ∈ b :: done) (hne : a ≠ b) : a ∈ done := (List.mem_cons.mp h).resolve_left hne

theorem not_mem_of_cons {a b : BeginAct} (h : a ∉ b :: done) : a ∉ done := fun hm => h (List.mem_cons_of_mem _ hm)

theorem Begun.hears (h : Begun posIn group x st done t) (hd : BeginAct.mic ∉ done) :
    Begun posIn group x st (.mic :: done) (receiveMic posIn group t) := by
  obtain ⟨hports, hperiod, hframe, hslip, hkeep, hothers⟩ := receiveMic_does posIn group t
  obtain ⟨hp, hpd⟩ := h.unheard hd
  rw [hp] at hports hperiod hslip
  rw [hpd] at hperiod
  have hstore := store_of_portless hframe
  have hstreams : ∀ i, getStream (receiveMic posIn group t) i = getStream t i := fun i => by
    rw [getStream, getStream, streams_of_portless hframe]
  exact {
    heard := fun _ => ⟨hports, hperiod, hslip⟩
    unheard := fun hn => absurd List.mem_cons_self hn
    slips := fun hs => hkeep (h.slips hs)
    compacted := fun hm => hstore.trans (h.compacted (mem_of_cons hm (by simp)))
    uncompacted := fun hn => hstore.trans (h.uncompacted (not_mem_of_cons hn))
    fixed := fun i hm => (h.fixed i (mem_of_cons hm (by simp))).mono (hstreams i) (hothers _ (by rw [reportKind_streamKey]; decide))
    unfixed := fun i hn => (hstreams i).trans (h.unfixed i (not_mem_of_cons hn))
    rings := fun i => by rw [hstreams]; exact h.rings i
    frame := (unitless_of_portless hframe).trans h.frame }

theorem Begun.compacts (h : Begun posIn group x st done t) (hd : BeginAct.compact ∉ done)
    (hst : ∀ y, SpaceAlike y x → (turns 69 y).store = st) : Begun posIn group x st (.compact :: done) (compactPeriod t) := by
  have hframe := storeless_compactPeriod t
  have hports := ports_of_storeless hframe
  have hperiod := period_of_storeless hframe
  have hstreams : ∀ i, getStream (compactPeriod t) i = getStream t i := fun i => by
    rw [getStream, getStream, compactPeriod, copyPages_streams, allTurns, turns_streams]
  have hslip : waiting slipKey (compactPeriod t) = waiting slipKey t := waiting_compactPeriod (by rw [reportKind_slipKey]; decide) t
  exact {
    heard := fun hm => by
      obtain ⟨h1, h2, h3⟩ := h.heard (mem_of_cons hm (by simp))
      exact ⟨hports.trans h1, hperiod.trans h2, fun hs => (h3 hs).mono hslip⟩
    unheard := fun hn => by
      obtain ⟨h1, h2⟩ := h.unheard (not_mem_of_cons hn)
      exact ⟨hports.trans h1, hperiod.trans h2⟩
    slips := fun hs => (h.slips hs).mono hslip
    compacted := fun _ => by rw [compactPeriod, copyPages_store, allTurns, hst t ⟨h.uncompacted hd, h.rings⟩]
    uncompacted := fun hn => absurd List.mem_cons_self hn
    fixed := fun i hm => (h.fixed i (mem_of_cons hm (by simp))).mono (hstreams i)
      (waiting_compactPeriod (by rw [reportKind_streamKey]; decide) t)
    unfixed := fun i hn => (hstreams i).trans (h.unfixed i (not_mem_of_cons hn))
    rings := fun i => by rw [hstreams]; exact h.rings i
    frame := (unitless_of_storeless hframe).trans h.frame }

theorem getStream_fixOne (i j : StreamIx) (s : State) :
    getStream (fixOne i s) j = if i = j then (fixStream s.store.mem (getStream s i)).stream else getStream s j := by
  rw [fixOne, getStream_raiseAll, getStream_putStream]

theorem Begun.fixes (h : Begun posIn group x st done t) {i : StreamIx} (hd : BeginAct.fix i ∉ done) (hmem : x.store.mem = st.mem) :
    Begun posIn group x st (.fix i :: done) (fixOne i t) := by
  have hframe := storeless_fixOne t i
  have hports := ports_of_storeless hframe
  have hperiod := period_of_storeless hframe
  have hstore : (fixOne i t).store = t.store := by rw [fixOne, raiseAll_store]; rfl
  have hself : getStream t i = getStream x i := h.unfixed i hd
  have hslip : waiting slipKey (fixOne i t) = waiting slipKey t :=
    waiting_fixOne (sameReport_of_kind (by rw [reportKind_slipKey, reportKind_streamKey]; decide)) t
  have hmemt : t.store.mem = st.mem ∨ t.store.mem = (copiedStore st).mem := by
    by_cases hc : BeginAct.compact ∈ done
    · exact .inr (congrArg Store.mem (h.compacted hc))
    · exact .inl ((congrArg Store.mem (h.uncompacted hc)).trans hmem)
  have hother : ∀ j, i ≠ j → getStream (fixOne i t) j = getStream t j := fun j hj => by rw [getStream_fixOne, if_neg hj]
  have hne : ∀ j, BeginAct.fix j ∉ BeginAct.fix i :: done → i ≠ j := fun j hn he => hn (he ▸ List.mem_cons_self)
  exact {
    heard := fun hm => by
      obtain ⟨h1, h2, h3⟩ := h.heard (mem_of_cons hm (by simp))
      exact ⟨hports.trans h1, hperiod.trans h2, fun hs => (h3 hs).mono hslip⟩
    unheard := fun hn => by
      obtain ⟨h1, h2⟩ := h.unheard (not_mem_of_cons hn)
      exact ⟨hports.trans h1, hperiod.trans h2⟩
    slips := fun hs => (h.slips hs).mono hslip
    compacted := fun hm => hstore.trans (h.compacted (mem_of_cons hm (by simp)))
    uncompacted := fun hn => hstore.trans (h.uncompacted (not_mem_of_cons hn))
    fixed := fun j hm => by
      by_cases hj : i = j
      · subst hj
        refine ⟨t.store.mem, hmemt, ?_, ?_⟩
        · rw [getStream_fixOne, if_pos rfl, hself]
        · rw [fixOne, hself]
          exact lastWaits_raiseAll _ (fixReports_key i _)
      · exact (h.fixed j (mem_of_cons hm (by simp [Ne.symm hj]))).mono (hother j hj)
          (waiting_fixOne (sameReport_streamKey_ne (Ne.symm hj)) t)
    unfixed := fun j hn => (hother j (hne j hn)).trans (h.unfixed j (not_mem_of_cons hn))
    rings := fun j => by
      by_cases hj : i = j
      · subst hj
        rw [getStream_fixOne, if_pos rfl, ringOf_fixStream]
        exact h.rings i
      · rw [hother j hj]
        exact h.rings j
    frame := (unitless_of_storeless hframe).trans h.frame }

/-- The begin of a slice period, from the state in which the acts start. -/
theorem begun_beginPeriod (netIn posIn : AudioBlock) (group : Option AudioBlock) (e : State) :
    let x := dueSlices (putPeriod (putPorts e (clearedOutputs e.ports)) (startedPeriod netIn e.ports))
    ∃ t, Begun posIn group x (turns 69 x).store beginActs t ∧ beginPeriod netIn posIn group e = spendDraw t := by
  intro x
  obtain ⟨done, t, hm, h, he⟩ := inFreeOrder_done (f := beginAct posIn group) (I := Begun posIn group x (turns 69 x).store) (s := x)
    nodup_beginActs (fun done y t hd h => by
      cases y with
      | mic => exact h.hears hd
      | fix i => exact h.fixes hd (turns_mem 69 x).symm
      | compact => exact h.compacts hd fun y hy => (SpaceAlike.turns 69 hy).1) (.start x _)
  refine ⟨t, ?_, he⟩
  have hall : ∀ a, a ∈ beginActs := fun a => by
    cases a with
    | fix i => fin_cases i <;> simp [beginActs]
    | mic => simp [beginActs]
    | compact => simp [beginActs]
  have hd : ∀ a, a ∈ done := fun a => (hm a).mpr (hall a)
  exact {
    heard := fun _ => h.heard (hd _)
    unheard := fun hn => absurd (hall _) hn
    slips := h.slips
    compacted := fun _ => h.compacted (hd _)
    uncompacted := fun hn => absurd (hall _) hn
    fixed := fun i _ => h.fixed i (hd _)
    unfixed := fun _ hn => absurd (hall _) hn
    rings := h.rings
    frame := h.frame }

end

end Sys2Proof.Machine

/-! # SLICE_PERIOD (R15, R24, R165, R166) -/

namespace Sys2Proof.Machine

/-! ## The end of the period in progress -/

/-- The slices still due, in the order the free value gives them. -/
def dueOrder (s : State) : List PosIx := freeOrder s.draws (allPositions.filter (sliceReady s))

/-- The state after them. -/
def sliced (s : State) : State := (dueOrder s).foldl (fun t p => positionSlice p t) s

/-- What different units do as a slice period ends. -/
inductive EndAct where
  | earpiece
  | move

def endActs : List EndAct := [.earpiece, .move]

theorem nodup_endActs : endActs.Nodup := by simp [endActs]

def endAct : EndAct → State → State
  | .earpiece => handEarpiece
  | .move => finishMove

/-- The ports as the earpiece slice of the period has joined the transmit buffer. -/
def handedPorts (s : State) : Ports := if buffering s.ports then joinedTx s.period.earpiece s.ports else s.ports

/-- A slip as the earpiece slice joins. -/
def EarpieceSlips (s : State) : Prop := buffering s.ports = true ∧ 3 ≤ s.ports.tx.length

/-- What the acts done have made of the state that the slices left. -/
structure Ended (u : State) (done : List EndAct) (t : State) : Prop where
  handed : EndAct.earpiece ∈ done → t.ports = handedPorts u ∧ (EarpieceSlips u → SlipWaits t)
  unhanded : EndAct.earpiece ∉ done → t.ports = u.ports
  moved : EndAct.move ∈ done → t.store = (finishMove u).store
  unmoved : EndAct.move ∉ done → t.store = u.store
  period : t.period = u.period
  streams : t.streams = u.streams
  frame : unitless t = unitless u

section
variable {s t u : State} {done : List EndAct}

theorem Ended.start (u : State) : Ended u [] u where
  handed h := absurd h List.not_mem_nil
  unhanded _ := rfl
  moved h := absurd h List.not_mem_nil
  unmoved _ := rfl
  period := rfl
  streams := rfl
  frame := rfl

theorem Ended.hands (h : Ended u done t) (hd : EndAct.earpiece ∉ done) : Ended u (.earpiece :: done) (handEarpiece t) := by
  have hb := handEarpiece_does t
  rw [h.unhanded hd, h.period] at hb
  have hstore := store_of_portless hb.frame
  exact {
    handed := fun _ => ⟨hb.ports, hb.slips⟩
    unhanded := fun hn => absurd List.mem_cons_self hn
    moved := fun hm => hstore.trans (h.moved ((List.mem_cons.mp hm).resolve_left (by simp)))
    unmoved := fun hn => hstore.trans (h.unmoved fun hm => hn (List.mem_cons_of_mem _ hm))
    period := hb.period.trans h.period
    streams := (streams_of_portless hb.frame).trans h.streams
    frame := (unitless_of_portless hb.frame).trans h.frame }

theorem Ended.moves (h : Ended u done t) (hd : EndAct.move ∉ done) : Ended u (.move :: done) (finishMove t) := by
  have hframe := storeless_finishMove t
  have hports := ports_of_storeless hframe
  have halike : SpaceAlike t u := ⟨h.unmoved hd, fun i => by rw [getStream, getStream, h.streams]⟩
  exact {
    handed := fun hm => by
      obtain ⟨hp, hs⟩ := h.handed ((List.mem_cons.mp hm).resolve_left (by simp))
      exact ⟨hports.trans hp, fun hx => (hs hx).mono (waiting_finishMove (by rw [reportKind_slipKey]; decide) t)⟩
    unhanded := fun hn => hports.trans (h.unhanded fun hm => hn (List.mem_cons_of_mem _ hm))
    moved := fun _ => halike.finishMove.1
    unmoved := fun hn => absurd List.mem_cons_self hn
    period := (period_of_storeless hframe).trans h.period
    streams := (finishMove_streams t).trans h.streams
    frame := (unitless_of_storeless hframe).trans h.frame }

theorem endPeriod_active (ha : s.period.active = true) : ∃ t, Ended (sliced s) endActs t ∧ endPeriod s = spendDraw t := by
  have hf : finishSlices s = spendDraw (sliced s) := rfl
  have hstart : Ended (sliced s) [] (spendDraw (sliced s)) := by
    obtain ⟨-, h2, -, h4, h5, h6, h7⟩ := Ended.start (sliced s)
    exact ⟨fun h => absurd h List.not_mem_nil, h2, fun h => absurd h List.not_mem_nil, h4, h5, h6, h7⟩
  obtain ⟨done, t, hm, h, he⟩ := inFreeOrder_done (f := endAct) (I := Ended (sliced s)) nodup_endActs (fun done x t hd h => by
    cases x with
    | earpiece => exact h.hands hd
    | move => exact h.moves hd) hstart
  have hall : ∀ a, a ∈ endActs := fun a => by cases a <;> simp [endActs]
  have hd : ∀ a, a ∈ done := fun a => (hm a).mpr (hall a)
  refine ⟨t, ?_, ?_⟩
  · exact {
      handed := fun _ => h.handed (hd _)
      unhanded := fun hn => absurd (hall _) hn
      moved := fun _ => h.moved (hd _)
      unmoved := fun hn => absurd (hall _) hn
      period := h.period
      streams := h.streams
      frame := h.frame }
  · rw [endPeriod, if_pos ha, hf]
    exact he

theorem dueOrder_perm (s : State) : (dueOrder s).Perm ((List.finRange 16).filter (sliceReady s)) := freeOrder_perm ..

/-- The POSITION_SLICE row, position by position. -/
theorem execAll_slices (l : List PosIx) (s : State) :
    execAll (l.map .positionSlice) s = .next (l.foldl (fun t p => positionSlice p t) s) := by
  induction l generalizing s with
  | nil => rfl
  | cons p rest ih =>
    have he : exec (.positionSlice p) s = .next (positionSlice p s) := rfl
    rw [List.map_cons, execAll, he]
    exact ih _

/-- Outside a period no slice is due. -/
theorem sliced_idle (ha : s.period.active = false) : sliced s = s := by
  have hn : allPositions.filter (sliceReady s) = [] := by
    rw [List.filter_eq_nil_iff]
    intro p _
    simp [sliceReady, ha]
  rw [sliced, dueOrder, hn]
  rfl

/-- The state after a move that completes with the period. -/
def movedOn (s : State) : State := if s.period.active then finishMove (sliced s) else sliced s

/-- The state that the end of the period leaves, in a period or outside one. -/
theorem endPeriod_does (s : State) :
    (endPeriod s).ports = (if s.period.active then handedPorts (sliced s) else (sliced s).ports) ∧
      (endPeriod s).store = (movedOn s).store ∧ (endPeriod s).streams = (sliced s).streams ∧
      unitless (endPeriod s) = unitless (sliced s) ∧
      (s.period.active = true → EarpieceSlips (sliced s) → SlipWaits (endPeriod s)) := by
  by_cases ha : s.period.active = true
  · obtain ⟨t, h, he⟩ := endPeriod_active ha
    obtain ⟨hp, hs⟩ := h.handed (by simp [endActs])
    rw [he, movedOn, if_pos ha, if_pos ha]
    exact ⟨hp, h.moved (by simp [endActs]), h.streams, h.frame, fun _ hx => (hs hx).mono rfl⟩
  · have hi := sliced_idle (by simpa using ha)
    rw [endPeriod, movedOn, if_neg ha, if_neg ha, if_neg ha, hi]
    exact ⟨rfl, rfl, rfl, rfl, fun h => absurd h ha⟩

/-! ## The frame of a slice period -/

theorem positions_of_unitless (h : unitless t = unitless s) : t.positions = s.positions := by
  have hf := congrArg State.positions h
  exact hf

theorem engine_of_unitless (h : unitless t = unitless s) : t.engine = s.engine := by
  have hf := congrArg State.engine h
  exact hf

theorem device_of_unitless (h : unitless t = unitless s) : t.device = s.device := by
  have hf := congrArg State.device h
  exact hf

theorem pending_of_unitless (h : unitless t = unitless s) : t.pending = s.pending := by
  have hf := congrArg State.pending h
  exact hf

theorem link_of_unitless (h : unitless t = unitless s) :
    { t.link with outbound := [], reading := none } = { s.link with outbound := [], reading := none } := by
  have hf := congrArg State.link h
  exact hf

theorem link_eq {l m : Link} (h : { l with outbound := [], reading := none } = { m with outbound := [], reading := none }) :
    l = { m with outbound := l.outbound, reading := l.reading } := by
  simp only [Link.mk.injEq] at h
  obtain ⟨h1, h2, h3, h4, -, -, h5⟩ := h
  rw [← h1, ← h2, ← h3, ← h4, ← h5]

end

end Sys2Proof.Machine

namespace Sys2Proof.Machine

/-! ## The ports of a period that begins -/

/-- The ports in which the acts of the period's begin start. -/
def startPorts (active : Bool) (earpiece : AudioBlock) (r : Ports) : Ports :=
  if active = true ∧ buffering r = true then joinedTx earpiece (clearedOutputs r) else clearedOutputs r

/-- The transmit buffer after the end of a period. -/
def txAtBegin (active : Bool) (earpiece : AudioBlock) (r : Ports) : List AudioBlock :=
  if active = true ∧ buffering r = true then (if 3 ≤ r.tx.length then r.tx.drop 1 else r.tx) ++ [earpiece] else r.tx

/-- The receive buffer with a group that completes as the period begins. -/
def rxAtBegin (group : Option AudioBlock) (r : Ports) : List RxSlice :=
  match group with
  | none => r.rx
  | some g => if buffering r = true then (if 3 ≤ r.rx.length then r.rx.drop 1 else r.rx) ++ [⟨true, g⟩] else r.rx

section
variable (active : Bool) (earpiece netIn posIn : AudioBlock) (group : Option AudioBlock) (r : Ports)

theorem buffering_startPorts : buffering (startPorts active earpiece r) = buffering r := by
  unfold startPorts
  split
  · rfl
  · rfl

theorem startedPeriod_startPorts : startedPeriod netIn (startPorts active earpiece r) = startedPeriod netIn r := by
  unfold startPorts
  split
  · rfl
  · rfl

theorem tx_startPorts : (startPorts active earpiece r).tx = txAtBegin active earpiece r := by
  unfold startPorts txAtBegin
  split
  · rfl
  · rfl

theorem rx_startPorts : (startPorts active earpiece r).rx = r.rx := by
  unfold startPorts
  split
  · rfl
  · rfl

theorem rx_grouped (hb : buffering r = true) : (grouped group (startPorts active earpiece r)).rx = rxAtBegin group r := by
  cases group with
  | none => exact rx_startPorts ..
  | some g =>
    show (if 3 ≤ (startPorts active earpiece r).rx.length then (startPorts active earpiece r).rx.drop 1
      else (startPorts active earpiece r).rx) ++ [⟨true, g⟩] = _
    rw [rx_startPorts, rxAtBegin, if_pos hb]

/-- The microphone slice of the period that begins (R166). -/
theorem micSource_startPorts :
    micSource posIn group (startPorts active earpiece r) =
      if buffering r = true then (rxAtBegin group r).headD ⟨false, silentBlock⟩
      else if r.position.state = .locked then ⟨true, posIn⟩ else ⟨false, silentBlock⟩ := by
  unfold micSource
  rw [buffering_startPorts]
  by_cases hb : buffering r = true
  · rw [if_pos hb, if_pos hb, rx_grouped _ _ _ _ hb]
  · have hs : startPorts active earpiece r = clearedOutputs r := if_neg fun h => hb h.2
    rw [if_neg hb, if_neg hb, hs]
    rfl

/-- The slips of a period's begin are those of its microphones and of the earpiece slice that joined (R166). -/
theorem slips_startPorts
    (h : ((buffering r = true ∧ group ≠ none) ∧ 3 ≤ r.rx.length) ∨ (buffering r = true ∧ rxAtBegin group r = []) ∨
      ((active = true ∧ buffering r = true) ∧ 3 ≤ r.tx.length) ∨
      ((buffering r = true ∧ group ≠ none) ∧ txAtBegin active earpiece r = [])) :
    MicSlips group (startPorts active earpiece r) ∨ (active = true ∧ buffering r = true ∧ 3 ≤ r.tx.length) := by
  rw [MicSlips, buffering_startPorts, tx_startPorts, rx_startPorts]
  obtain ⟨⟨hb, hg⟩, h3⟩ | ⟨hb, hr⟩ | ⟨⟨ha, hb⟩, h3⟩ | ⟨⟨hb, hg⟩, ht⟩ := h
  · exact .inl ⟨hb, .inl ⟨hg, h3⟩⟩
  · exact .inl ⟨hb, .inr (.inl (by rw [rx_grouped _ _ _ _ hb]; exact hr))⟩
  · exact .inr ⟨ha, hb, h3⟩
  · exact .inl ⟨hb, .inr (.inr ⟨hg, ht⟩)⟩

/-- The ports as the period has begun (R166). -/
theorem micPorts_startPorts :
    micPorts group (startPorts active earpiece r) =
      { r with
        rx := if buffering r = true then (rxAtBegin group r).drop 1 else rxAtBegin group r
        tx := if buffering r = true ∧ group ≠ none then (txAtBegin active earpiece r).drop 1 else txAtBegin active earpiece r
        ndout := silentBlock
        pdout :=
          if buffering r = true ∧ group ≠ none then (txAtBegin active earpiece r).headD silentBlock
          else if r.position.role = .master then silentBlock else r.pdout
        slips :=
          ⟨if (buffering r = true ∧ group ≠ none) ∧ 3 ≤ r.rx.length then bump16 r.slips.rxOver else r.slips.rxOver,
            if buffering r = true ∧ rxAtBegin group r = [] then bump16 r.slips.rxUnder else r.slips.rxUnder,
            if (active = true ∧ buffering r = true) ∧ 3 ≤ r.tx.length then bump16 r.slips.txOver else r.slips.txOver,
            if (buffering r = true ∧ group ≠ none) ∧ txAtBegin active earpiece r = [] then bump16 r.slips.txUnder
            else r.slips.txUnder⟩ } := by
  unfold micPorts
  rw [buffering_startPorts]
  unfold startPorts txAtBegin rxAtBegin
  by_cases hb : buffering r = true
  · cases active with
    | false => cases group <;> simp [hb, grouped, tookRx, tookTx, joinedRx, clearedOutputs]
    | true => cases group <;> simp [hb, grouped, tookRx, tookTx, joinedRx, joinedTx, clearedOutputs] <;> rfl
  · cases group <;> simp [hb, clearedOutputs]

end

/-! ## The state of a period that begins -/

/-- The state in which the acts of a period's begin start. -/
def periodStart (netIn : AudioBlock) (e : State) : State :=
  dueSlices (putPeriod (putPorts e (clearedOutputs e.ports)) (startedPeriod netIn e.ports))

section
variable (netIn : AudioBlock) (s : State)

theorem sliceless_sliced : sliceless (sliced s) = sliceless s := sliceless_slices ..

/-- A slice leaves the ports but for their outputs. -/
theorem outputs_sliced : clearedOutputs (sliced s).ports = clearedOutputs s.ports := outputs_of_sliceless (sliceless_sliced s)

/-- The ports in which the acts of the begin start. -/
theorem ports_periodStart :
    clearedOutputs (endPeriod s).ports = startPorts s.period.active (sliced s).period.earpiece s.ports := by
  obtain ⟨hp, -⟩ := endPeriod_does s
  have hout := outputs_sliced s
  have hbuf : buffering (sliced s).ports = buffering s.ports := by
    show buffering (clearedOutputs (sliced s).ports) = _
    rw [hout]
    rfl
  rw [hp, startPorts]
  by_cases ha : s.period.active = true
  · rw [if_pos ha, handedPorts, hbuf]
    by_cases hb : buffering s.ports = true
    · rw [if_pos hb, if_pos ⟨ha, hb⟩, ← hout]
      rfl
    · rw [if_neg hb, if_neg fun h => hb h.2, hout]
  · rw [if_neg ha, if_neg fun h => ha h.1, hout]

theorem period_periodStart : startedPeriod netIn (endPeriod s).ports = startedPeriod netIn s.ports := by
  show startedPeriod netIn (clearedOutputs (endPeriod s).ports) = _
  rw [ports_periodStart, startedPeriod_startPorts]

theorem tx_sliced : (sliced s).ports.tx = s.ports.tx := by
  have h := congrArg Ports.tx (outputs_sliced s)
  exact h

theorem earpieceSlips_sliced (h : buffering s.ports = true ∧ 3 ≤ s.ports.tx.length) : EarpieceSlips (sliced s) := by
  have hbuf : buffering (clearedOutputs (sliced s).ports) = buffering s.ports := by
    rw [outputs_sliced]
    rfl
  exact ⟨hbuf.trans h.1, by rw [tx_sliced]; exact h.2⟩

/-- The acts of the begin see the store and the rings of the end of the period. -/
theorem periodStart_alike : SpaceAlike (periodStart netIn (endPeriod s)) (movedOn s) := by
  obtain ⟨-, hst, hstr, -⟩ := endPeriod_does s
  refine ⟨hst, fun i => ?_⟩
  have hm : (movedOn s).streams = (sliced s).streams := by
    unfold movedOn
    split
    · exact finishMove_streams _
    · rfl
  show ringOf (endPeriod s).streams[i] = ringOf (movedOn s).streams[i]
  rw [hstr, hm]

theorem getStream_periodStart (i : StreamIx) : getStream (periodStart netIn (endPeriod s)) i = getStream (sliced s) i := by
  obtain ⟨-, -, hstr, -⟩ := endPeriod_does s
  show (endPeriod s).streams[i] = (sliced s).streams[i]
  rw [hstr]

/-- The frame of the positions, the engine and the link, over the end of the period. -/
theorem positions_periodStart :
    (periodStart netIn (endPeriod s)).positions =
      (sliced s).positions.map fun r => { r with sliceDue := decide (r.call ≠ .vacant) } := by
  obtain ⟨-, -, -, hf, -⟩ := endPeriod_does s
  show (endPeriod s).positions.map _ = _
  rw [positions_of_unitless hf]

theorem frame_periodStart :
    (periodStart netIn (endPeriod s)).engine = (sliced s).engine ∧ (periodStart netIn (endPeriod s)).device = (sliced s).device ∧
      (periodStart netIn (endPeriod s)).pending = s.pending ∧
      { (periodStart netIn (endPeriod s)).link with outbound := [], reading := none } =
        { s.link with outbound := [], reading := none } := by
  obtain ⟨-, -, -, hf, -⟩ := endPeriod_does s
  have hengine := engine_of_unitless hf
  have hdevice := device_of_unitless hf
  exact ⟨hengine, hdevice, (pending_of_unitless hf).trans (pending_of_sliceless (sliceless_sliced s)),
    (link_of_unitless hf).trans (link_of_sliceless (sliceless_sliced s))⟩

/-- The moves of a state whose allocations lie within the store, up to the turns of the begin. -/
theorem movesInside_movedOn (h : MovesInside s) : MovesInside (movedOn s) := by
  have hu : MovesInside (sliced s) :=
    h.congr (clips_of_sliceless (sliceless_sliced s)) (compaction_of_sliceless (sliceless_sliced s))
  unfold movedOn
  split
  · exact hu.finishMove
  · exact hu

theorem mem_movedOn : (movedOn s).store.mem = s.store.mem := by
  unfold movedOn
  split
  · rw [finishMove_mem, mem_of_sliceless (sliceless_sliced s)]
  · exact mem_of_sliceless (sliceless_sliced s)

theorem streamOk_of_listeners {r q : Stream} (h : StreamOk r) (he : { q with listeners := 0 } = { r with listeners := 0 }) : StreamOk q := by
  obtain ⟨n, rfl⟩ : ∃ n, q = { r with listeners := n } := ⟨q.listeners, by
    simp only [Stream.mk.injEq] at he
    cases q
    cases r
    simp_all⟩
  obtain ⟨hclosed, hrest⟩ := h
  refine ⟨fun hc => ?_, hrest⟩
  have hr := hclosed hc
  rw [hr]

/-- A stream that has fixed its slice, as StreamFixing says it, with its report (R148, R153). -/
theorem Fixed.fixing {x t u : State} {st : Store} {i : StreamIx} (h : Fixed x t st i) (hx : getStream x i = getStream u i)
    (hu : StreamOk (getStream u i)) :
    ∃ mem events, (mem = st.mem ∨ mem = (copiedStore st).mem) ∧ StreamFixing mem (getStream u i) (getStream t i) events ∧
      ∀ e, events.getLast? = some e →
        ∃ n, Message.report (.stream i
          ⟨e.1, e.2, .running, (getStream t i).half0, (getStream t i).half1, (getStream t i).readHalf, (getStream t i).readOffset,
            (getStream t i).underrun, (getStream t i).listeners⟩) n ∈ t.link.outbound := by
  obtain ⟨mem, hm, ht, hl⟩ := h
  rw [hx] at ht hl
  refine ⟨mem, (fixStream mem (getStream u i)).events, hm, ?_, fun e he => ?_⟩
  · rw [ht]
    exact fixStream_does mem (getStream u i) hu
  · have hrun : (fixStream mem (getStream u i)).stream.state = .running :=
      running_of_events mem fun hn => by rw [hn] at he; exact absurd he (by simp)
    obtain ⟨n, hw⟩ := hl.report (b := streamReport i (fixStream mem (getStream u i)).stream e)
      (by rw [fixReports, List.getLast?_map, he]; rfl)
    refine ⟨n, ?_⟩
    rw [streamReport, hrun] at hw
    rw [ht]
    exact hw

end

/-! ## The row -/

/-- The group that completes as the first has begun before, by the sync that completes the frame (R166; log entry 10). -/
theorem slicePeriod_begun {s : State} (hs : s.ports.standby = false) {group : Option AudioBlock} (hg : group ≠ none)
    (hb : groupsToBegin s.ports = true) (netIn posIn : AudioBlock) :
    exec (.frameSync .position 256) s = .next (beginGroups s) ∧
      slicePeriod netIn posIn group s = slicePeriod netIn posIn group (beginGroups s) := by
  simp only [groupsToBegin, buffering, Bool.and_eq_true, decide_eq_true_eq] at hb
  obtain ⟨⟨hrole, hstate⟩, -⟩ := hb
  have hdoes := beginGroups_does s
  have hports : (beginGroups s).ports.standby = s.ports.standby ∧ groupsToBegin (beginGroups s).ports = false := by
    rw [hdoes]
    split
    · dsimp only
      rw [raiseAll_ports]
      exact ⟨rfl, by simp [groupsToBegin, tookTx]⟩
    · rename_i hn
      exact ⟨rfl, by simpa using hn⟩
  have hbefore : ∀ x, groupBefore group x = beginGroups x := fun x => by
    cases group with
    | none => exact absurd rfl hg
    | some g => rfl
  constructor
  · have hsync : (if judgesSyncs s .position then takeSync .position 256 s else s) = beginGroups s := by
      have hj : judgesSyncs s .position = true := by simp [judgesSyncs, hs, portOf, hrole]
      rw [if_pos hj]
      simp [takeSync, portOf, hstate, frameBegins]
    exact congrArg Host.Outcome.next hsync
  · rw [slicePeriod, slicePeriod, hports.1, hbefore, hbefore, beginGroups_again _ hports.2, hs]
    rfl

/-- Outside standby, with no group that is to begin first, the period ends and the next begins. -/
theorem slicePeriod_begins {s : State} (hs : s.ports.standby = false) {group : Option AudioBlock}
    (hg : group = none ∨ groupsToBegin s.ports = false) (netIn posIn : AudioBlock) :
    slicePeriod netIn posIn group s = beginPeriod netIn posIn group (endPeriod s) := by
  have hbefore : groupBefore group s = s := by
    cases group with
    | none => rfl
    | some g => exact beginGroups_again s (hg.resolve_left (by simp))
  rw [slicePeriod, hs, hbefore]
  rfl

/-- Settles O53: the slices that are due are a fold of the rows, the acts of the end and of the begin are free orders with an invariant
over those done, and the turns' effect on the store is that of the TURN row whatever the other acts have done. -/
theorem slicePeriodBegins : Obligations.SlicePeriodBegins := by
  unfold Obligations.SlicePeriodBegins
  refine fun s netIn posIn group => ⟨fun hs => ?_, fun hs hg hb => ?_, fun hs hg => ?_⟩
  · have hx : slicePeriod netIn posIn group s = s := by rw [slicePeriod, hs]; rfl
    exact congrArg Host.Outcome.next hx
  · obtain ⟨h1, h2⟩ := slicePeriod_begun hs hg hb netIn posIn
    exact ⟨beginGroups s, h1, congrArg Host.Outcome.next h2⟩
  intro r active buffered isGroup
  obtain ⟨t, hacts, hbegin⟩ := begun_beginPeriod netIn posIn group (endPeriod s)
  have hbegun : Begun posIn group (periodStart netIn (endPeriod s)) (turns 69 (periodStart netIn (endPeriod s))).store beginActs t :=
    hacts
  have hexec : exec (.slicePeriod netIn posIn group) s = .next (spendDraw t) :=
    congrArg Host.Outcome.next ((slicePeriod_begins hs hg netIn posIn).trans hbegin)
  have hstore : (turns 69 (periodStart netIn (endPeriod s))).store = (turns 69 (movedOn s)).store :=
    (SpaceAlike.turns 69 (periodStart_alike netIn s)).1
  rw [hstore] at hbegun
  have hcopied : t.store = copiedStore (turns 69 (movedOn s)).store := hbegun.compacted (by simp [beginActs])
  obtain ⟨hports, hperiod, hslips⟩ := hbegun.heard (by simp [beginActs])
  obtain ⟨hengine, hdevice, hpending, hlink⟩ := frame_periodStart netIn s
  have hframe := hbegun.frame
  refine ⟨dueOrder s, sliced s, movedOn s, turns 69 (movedOn s), spendDraw t, hexec, dueOrder_perm s, execAll_slices _ s,
    fun ha => ?_, fun ha => ?_, execAll_turns 69 _, (positions_of_unitless hframe).trans (positions_periodStart netIn s),
    (engine_of_unitless hframe).trans hengine, (device_of_unitless hframe).trans hdevice,
    (pending_of_unitless hframe).trans hpending, link_eq ((link_of_unitless hframe).trans hlink),
    fun hm => hcopied.trans (copiedStore_none hm), fun m hm => ?_, fun i hi => ?_, ?_⟩
  · rw [movedOn, if_pos ha]
    rfl
  · rw [movedOn, if_neg ha]
  · refine ⟨?_, fun hw hclips hspace hmove => ?_⟩
    · have hsome := copiedStore_some hm
      rw [← hcopied] at hsome
      exact hsome
    · have hin := (movesInside_movedOn s (movesInside_of hclips hspace hmove)).turns 69
      have hwf : Memory.wf (turns 69 (movedOn s)).store.mem := by
        rw [turns_mem, mem_movedOn]
        exact hw
      have hbytes := copiedStore_bytes hin hwf hm
      rw [← hcopied] at hbytes
      exact hbytes
  · have hu := streamOk_of_listeners hi (streams_of_sliceless (sliceless_sliced s) i)
    have hfix := (hbegun.fixed i (by fin_cases i <;> simp [beginActs])).fixing (getStream_periodStart netIn s i) hu
    rw [← hcopied] at hfix
    exact hfix
  · have hx : (periodStart netIn (endPeriod s)).ports = startPorts s.period.active (sliced s).period.earpiece s.ports :=
      ports_periodStart s
    have hd : (periodStart netIn (endPeriod s)).period = startedPeriod netIn s.ports := period_periodStart netIn s
    rw [hx] at hports hperiod hslips
    rw [hd, micSource_startPorts] at hperiod
    rw [micPorts_startPorts] at hports
    intro tx rx mic slip rxOver rxUnder txOver txUnder
    have htx : tx = txAtBegin s.period.active (sliced s).period.earpiece s.ports := rfl
    have hrx : rx = rxAtBegin group s.ports := by
      cases group with
      | none => rfl
      | some g => rfl
    have hmic : mic = if buffering s.ports = true then (rxAtBegin group s.ports).headD ⟨false, silentBlock⟩
        else if s.ports.position.state = .locked then ⟨true, posIn⟩ else ⟨false, silentBlock⟩ := by
      rw [← hrx]
    refine ⟨?_, ?_, fun h => ?_⟩
    · rw [hmic]
      exact hperiod
    · rw [← htx, ← hrx] at hports
      exact hports
    · have hcases := slips_startPorts s.period.active (sliced s).period.earpiece group s.ports (by
        rw [← htx, ← hrx]
        exact h)
      have hwaits : SlipWaits t := by
        obtain hmics | ⟨ha, hends⟩ := hcases
        · exact hslips hmics
        · obtain ⟨-, -, -, -, hend⟩ := endPeriod_does s
          exact hbegun.slips (hend ha (earpieceSlips_sliced s hends))
      exact hwaits.report

end Sys2Proof.Machine

/-! # The parameter table (R34, R98, R181) -/

namespace Sys2Proof.Machine

/-! ## What a stored value is -/

/-- A stored parameter is read back, and every other one is as it was. -/
theorem getPosParam_putPosParam (t : PosParams) (v : Nat) (q q' : PosParam) :
    getPosParam (putPosParam t v q) q' = if q' = q then v else getPosParam t q' := by
  cases q <;> cases q' <;> rfl

theorem getDevParam_putDevParam (t : DevParams) (v : Nat) (q q' : DevParam) :
    getDevParam (putDevParam t v q) q' = if q' = q then v else getDevParam t q' := by
  cases q <;> cases q' <;> rfl

theorem posParamRange_ordered (q : PosParam) : (posParamRange q).min ≤ (posParamRange q).max := by
  cases q <;> decide

theorem devParamRange_ordered (q : DevParam) : (devParamRange q).min ≤ (devParamRange q).max := by
  cases q <;> decide

theorem inRange_bounds {r : ParamRange} (h : r.min ≤ r.max) (v : Nat) : r.min ≤ inRange r v ∧ inRange r v ≤ r.max := by
  unfold inRange clampNat
  omega

theorem ParamsOk.le_max {t : PosParams} (h : ParamsOk t) (q : PosParam) : getPosParam t q ≤ (posParamRange q).max := (h.1 q).2

/-- A stored value is in its parameter's range: a knee's neighbours are in it too (R34, R181). -/
theorem storedValueOf_bounds {t : PosParams} (h : ParamsOk t) (q : PosParam) (v : Nat) :
    (posParamRange q).min ≤ storedValueOf t q v ∧ storedValueOf t q v ≤ (posParamRange q).max := by
  have hv := inRange_bounds (posParamRange_ordered q) v
  cases q with
  | nsK1 => exact ⟨Nat.zero_le _, (Nat.min_le_left _ _).trans hv.2⟩
  | nsK2 => exact ⟨Nat.zero_le _, Nat.max_le.2 ⟨h.le_max .nsK1, (Nat.min_le_left _ _).trans hv.2⟩⟩
  | nsK3 => exact ⟨Nat.zero_le _, Nat.max_le.2 ⟨hv.2, h.le_max .nsK2⟩⟩
  | boostK1 => exact ⟨Nat.zero_le _, (Nat.min_le_left _ _).trans hv.2⟩
  | boostK2 => exact ⟨Nat.zero_le _, Nat.max_le.2 ⟨h.le_max .boostK1, (Nat.min_le_left _ _).trans hv.2⟩⟩
  | boostK3 => exact ⟨Nat.zero_le _, Nat.max_le.2 ⟨hv.2, h.le_max .boostK2⟩⟩
  | _ => exact hv

/-- SET-PARAM keeps the ranges and the order of the knees (R34, R181). -/
theorem paramsOk_store {t : PosParams} (h : ParamsOk t) (q : PosParam) (v : Nat) :
    ParamsOk (putPosParam t (storedValueOf t q v) q) := by
  refine ⟨fun q' => ?_, ?_⟩
  · rw [getPosParam_putPosParam]
    split
    · rename_i hq
      rw [hq]
      exact storedValueOf_bounds h q v
    · exact h.1 q'
  · obtain ⟨-, h12, h23, b12, b23⟩ := h
    cases q with
    | nsK1 => exact ⟨Nat.min_le_right _ _, h23, b12, b23⟩
    | nsK2 => exact ⟨Nat.le_max_left _ _, Nat.max_le.2 ⟨h12.trans h23, Nat.min_le_right _ _⟩, b12, b23⟩
    | nsK3 => exact ⟨h12, Nat.le_max_right _ _, b12, b23⟩
    | boostK1 => exact ⟨h12, h23, Nat.min_le_right _ _, b23⟩
    | boostK2 => exact ⟨h12, h23, Nat.le_max_left _ _, Nat.max_le.2 ⟨b12.trans b23, Nat.min_le_right _ _⟩⟩
    | boostK3 => exact ⟨h12, h23, b12, Nat.le_max_right _ _⟩
    | _ => exact ⟨h12, h23, b12, b23⟩

theorem paramsOk_default : ParamsOk defaultPosParams := by
  refine ⟨fun q => ?_, by decide⟩
  cases q <;> decide

theorem deviceOk_store {t : DevParams} (h : DeviceOk t) (q : DevParam) (v : Nat) :
    DeviceOk (putDevParam t (inRange (devParamRange q) v) q) := by
  obtain ⟨p1, p2, s1, s2⟩ := h
  obtain ⟨v1, v2⟩ := inRange_bounds (devParamRange_ordered q) v
  cases q with
  | peakRatio => exact ⟨v1, v2, s1, s2⟩
  | searchTimeout => exact ⟨p1, p2, v1, v2⟩

theorem deviceOk_default : DeviceOk defaultDevParams := by unfold DeviceOk; decide

/-! ## SET-PARAM and GET-PARAM (R181) -/

section
variable (s : State) (src : Nat) {id : Byte} (b : List Byte)

theorem setParamCommand_unknown (h : paramOfId id.toNat = none) : setParamCommand src (id :: b) s = refuse s .badParam := by
  simp only [setParamCommand, byteAt_cons_zero, h]

theorem getParamCommand_unknown (h : paramOfId id.toNat = none) : getParamCommand src (id :: b) s = refuse s .badParam := by
  simp only [getParamCommand, byteAt_cons_zero, h]

variable {s src b}

theorem setParamCommand_position {q : PosParam} (h : paramOfId id.toNat = some (.position q)) (p : PosIx) :
    setParamCommand p.val (id :: b) s =
      let stored := storedValueOf (getPos s p).params q (u16At (id :: b) 1)
      (putParam p q stored s, okOrClamped (decide (stored ≠ u16At (id :: b) 1)), paramFields id.toNat stored) := by
  simp only [setParamCommand, byteAt_cons_zero, h, p.isLt, dif_pos, Fin.eta]

theorem getParamCommand_position {q : PosParam} (h : paramOfId id.toNat = some (.position q)) (p : PosIx) :
    getParamCommand p.val (id :: b) s = (s, .ok, paramFields id.toNat (getPosParam (getPos s p).params q)) := by
  simp only [getParamCommand, byteAt_cons_zero, h, p.isLt, dif_pos, Fin.eta]

theorem setParamCommand_device {q : DevParam} (h : paramOfId id.toNat = some (.device q)) :
    setParamCommand 255 (id :: b) s =
      let stored := inRange (devParamRange q) (u16At (id :: b) 1)
      ({ s with device := putDevParam s.device stored q }, okOrClamped (decide (stored ≠ u16At (id :: b) 1)),
        paramFields id.toNat stored) := by
  simp only [setParamCommand, byteAt_cons_zero, h, if_pos]

theorem getParamCommand_device {q : DevParam} (h : paramOfId id.toNat = some (.device q)) :
    getParamCommand 255 (id :: b) s = (s, .ok, paramFields id.toNat (getDevParam s.device q)) := by
  simp only [getParamCommand, byteAt_cons_zero, h, if_pos]

/-- A position's parameter under a SRC that names none, or a device parameter under another SRC than the device's. -/
def WrongSource (id src : Nat) : Prop :=
  ((∃ q, paramOfId id = some (.position q)) ∧ 16 ≤ src) ∨ ((∃ q, paramOfId id = some (.device q)) ∧ src ≠ 255)

theorem paramCommands_wrongSource (h : WrongSource id.toNat src) :
    setParamCommand src (id :: b) s = refuse s .badSource ∧ getParamCommand src (id :: b) s = refuse s .badSource := by
  obtain ⟨⟨q, hq⟩, hs⟩ | ⟨⟨q, hq⟩, hs⟩ := h
  · simp only [setParamCommand, getParamCommand, byteAt_cons_zero, hq, dif_neg (Nat.not_lt.2 hs), and_self]
  · simp only [setParamCommand, getParamCommand, byteAt_cons_zero, hq, if_neg hs, and_self]

end

/-- The value of a SET-PARAM body. -/
theorem u16At_setParam (id : Byte) (v : BitVec 16) : u16At (id :: bytes16 v) 1 = v.toNat := by
  simp [u16At, byteAt, bytes16]

/-- Settles O32. -/
theorem setParamStoresTheClampedValue : Obligations.SetParamStoresTheClampedValue := by
  unfold Obligations.SetParamStoresTheClampedValue
  intro s tag id v ha
  have hset : ∀ src : Byte, exec (.setParam src tag id v) s =
      .next (answered 0x88 src tag (setParamCommand src.toNat (id :: bytes16 v) s)) := fun src => exec_setParam ha src tag id v
  have hget : ∀ src : Byte, exec (.getParam src tag id) s =
      .next (answered 0x89 src tag (getParamCommand src.toNat [id] s)) := fun src => exec_getParam ha src tag id
  refine ⟨fun q hq p => ?_, fun q hq => ?_, fun hn src => ?_, fun src hsrc => ?_⟩
  · intro t limited stored
    have hst : storedValueOf t q v.toNat = stored := by cases q <;> rfl
    refine ⟨⟨putPosParam t stored q, ?_, ?_, fun q' hne => ?_⟩, ?_⟩
    · rw [hset, sourceByte_toNat, setParamCommand_position hq, u16At_setParam, hst, ← okOrClamped_ne]
      rfl
    · rw [getPosParam_putPosParam, if_pos rfl]
    · rw [getPosParam_putPosParam, if_neg hne]
    · rw [hget, sourceByte_toNat, getParamCommand_position hq]
      rfl
  · intro stored
    refine ⟨⟨putDevParam s.device stored q, ?_, ?_, fun q' hne => ?_⟩, ?_⟩
    · have hd : setParamCommand (0xFF : Byte).toNat (id :: bytes16 v) s = _ := setParamCommand_device hq
      rw [hset, hd, u16At_setParam, ← okOrClamped_ne]
      rfl
    · rw [getDevParam_putDevParam, if_pos rfl]
    · rw [getDevParam_putDevParam, if_neg hne]
    · have hd : getParamCommand (0xFF : Byte).toNat [id] s = _ := getParamCommand_device hq
      rw [hget, hd]
      rfl
  · rw [hset, hget, setParamCommand_unknown _ _ _ hn, getParamCommand_unknown _ _ _ hn]
    exact ⟨rfl, rfl⟩
  · have hw : WrongSource id.toNat src.toNat :=
      hsrc.imp_right (And.imp_right fun hne he => hne (BitVec.eq_of_toNat_eq he))
    rw [hset, hget, (paramCommands_wrongSource hw).1, (paramCommands_wrongSource hw).2]
    exact ⟨rfl, rfl⟩

end Sys2Proof.Machine

/-! # The events of the Floor Suppressor and of the hangovers (R30, R37 to R39, R47 to R49, R60, R73) -/

namespace Sys2Proof.Machine

theorem cancelling_iff (x : CancellerState) : cancelling x = true ↔ x = .training ∨ x = .tracking := by
  cases x <;> simp [cancelling]

theorem measuring_iff (s : State) (p : PosIx) : measuring s p = true ↔ processes s p = true ∧ s.period.micReceived = true := by
  rw [measuring, Bool.and_eq_true]

theorem trackerRiseDue_iff (rise l : Nat) (t : Tracker) :
    trackerRiseDue rise l t = true ↔ t.level ≤ l ∧ rise ≤ t.count + 1 := by
  rw [trackerRiseDue, Bool.and_eq_true, decide_eq_true_eq, decide_eq_true_eq]

/-- A tracker that is due to rise (R30). -/
theorem trackerStep_due {rise l : Nat} {t : Tracker} (hl : t.level ≤ l) (hr : rise ≤ t.count + 1) :
    trackerStep rise l t = ⟨min (t.level + 1) l, 0⟩ := by
  rw [trackerStep, if_neg (Nat.not_lt.2 hl), if_pos hr]

/-- The VAD's hangover at its last slice (R39). -/
theorem vadStep_expires {t : PosParams} {ratio : Nat} {x : Suppressor} (hr : ratio < t.vadT) (hh : x.hangover = 1) :
    vadStep t ratio x = { x with vad := false, hangover := 0 } := by
  rw [vadStep, if_neg (Nat.not_le.2 hr), hh]
  rfl

/-- The boost step at a refresh (R47, R48). -/
theorem boostStep_due {t : PosParams} {x : Suppressor} (h : t.boostRefresh ≤ x.refresh + 1) :
    boostStep t x =
      { x with
        target := boostTarget t x.floor.level, boost := stepTowards x.boost (boostTarget t x.floor.level), refresh := 0 } := by
  rw [boostStep_eq, if_pos h, if_pos h]

theorem doubleTalk_eq_false_iff (ymax xmax : Nat) : doubleTalk ymax xmax = false ↔ ¬(0 < xmax ∧ xmax ≤ 2 * ymax) := by
  rw [← Bool.not_eq_true, doubleTalk, Bool.and_eq_true, decide_eq_true_eq, decide_eq_true_eq]

section
variable (p : PosIx) (s : State)

theorem raiseMicFloor_eq (level : Nat) :
    raiseMicFloor p level s =
      let r := getPos s p
      let x := r.suppressor
      if processes s p = true ∧ s.period.micReceived = true ∧ x.floor.level ≤ level ∧ level ≤ 120 ∧
          r.params.floorRise ≤ x.floor.count + 1 then
        putPos s p { r with suppressor := { x with floor := ⟨min (x.floor.level + 1) level, 0⟩ } }
      else s := by
  unfold raiseMicFloor putSuppressor
  simp only [measuring_iff, trackerRiseDue_iff]
  split
  · rename_i h
    obtain ⟨⟨hp, hm⟩, hl, hf, hr⟩ := h
    rw [if_pos ⟨hp, hm, hf, hl, hr⟩, trackerStep_due hf hr]
  · rename_i h
    rw [if_neg fun ⟨hp, hm, hf, hl, hr⟩ => h ⟨⟨hp, hm⟩, hl, hf, hr⟩]

theorem raiseCallerFloor_eq (level : Nat) :
    raiseCallerFloor p level s =
      let r := getPos s p
      let c := r.canceller
      if processes s p = true ∧ (c.state = .training ∨ c.state = .tracking) ∧ s.period.netLocked = true ∧
          c.floor.level ≤ level ∧ level ≤ 120 ∧ r.params.floorRise ≤ c.floor.count + 1 then
        putPos s p { r with canceller := { c with floor := ⟨min (c.floor.level + 1) level, 0⟩ } }
      else s := by
  unfold raiseCallerFloor putCanceller
  simp only [cancelling_iff, trackerRiseDue_iff]
  split
  · rename_i h
    obtain ⟨hp, hc, hn, hl, hf, hr⟩ := h
    rw [if_pos ⟨hp, hc, hn, hf, hl, hr⟩, trackerStep_due hf hr]
  · rename_i h
    rw [if_neg fun ⟨hp, hc, hn, hf, hl, hr⟩ => h ⟨hp, hc, hn, hl, hf, hr⟩]

theorem expireVad_eq (ratio : Nat) :
    expireVad p ratio s =
      let r := getPos s p
      let x := r.suppressor
      if processes s p = true ∧ s.period.micReceived = true ∧ ratio < r.params.vadT ∧ x.hangover = 1 then
        putPos s p { r with suppressor := { x with vad := false, hangover := 0 } }
      else s := by
  unfold expireVad putSuppressor
  simp only [measuring_iff, and_assoc]
  split
  · rename_i h
    obtain ⟨-, -, hr, hh⟩ := h
    rw [vadStep_expires hr hh]
  · rfl

/-- A refresh that is due (R47 to R49). -/
theorem refreshDue_due (hp : processes s p = true) (hm : s.period.micReceived = true)
    (hr : (getPos s p).params.boostRefresh ≤ (getPos s p).suppressor.refresh + 1) :
    refreshDue p s =
      let r := getPos s p
      let x := r.suppressor
      let target := boostTarget r.params x.floor.level
      let boost := stepTowards x.boost target
      let t := putPos s p { r with suppressor := { x with target := target, boost := boost, refresh := 0 } }
      if target = x.target then t else raise (.level p target x.target boost x.floor.level) t := by
  have hd : boostRefreshDue (getPos s p).params (getPos s p).suppressor = true := decide_eq_true hr
  simp only [refreshDue, if_pos (And.intro ((measuring_iff s p).2 ⟨hp, hm⟩) hd), boostStep_due hr, levelReports]
  split
  · rfl
  · rfl

theorem refreshDue_idle
    (h : ¬(processes s p = true ∧ s.period.micReceived = true ∧
      (getPos s p).params.boostRefresh ≤ (getPos s p).suppressor.refresh + 1)) : refreshDue p s = s := by
  refine if_neg fun ⟨hm, hd⟩ => h ?_
  obtain ⟨hp, hm⟩ := (measuring_iff s p).1 hm
  exact ⟨hp, hm, of_decide_eq_true hd⟩

theorem expireDoubleTalk_eq (ymax xmax : Nat) :
    expireDoubleTalk p ymax xmax s =
      let c := (getPos s p).canceller
      if processes s p = true ∧ (c.state = .training ∨ c.state = .tracking) ∧ c.hangover = 1 ∧
          ¬(0 < xmax ∧ xmax ≤ 2 * if s.period.netLocked = true then ymax else 0) then
        putPos s p { getPos s p with canceller := { c with hangover := 0 } }
      else s := by
  unfold expireDoubleTalk putCanceller
  simp only [cancelling_iff, doubleTalk_eq_false_iff]
  generalize (if s.period.netLocked = true then ymax else 0) = heard
  split
  · rename_i h
    obtain ⟨hp, hc, hd, hh⟩ := h
    rw [if_pos ⟨hp, hc, hh, hd⟩, (doubleTalk_eq_false_iff _ _).2 hd, hh]
    rfl
  · rename_i h
    rw [if_neg fun ⟨hp, hc, hh, hd⟩ => h ⟨hp, hc, hd, hh⟩]

end

/-- Settles O56. -/
theorem suppressorAndHangoverEvents : Obligations.SuppressorAndHangoverEvents := by
  unfold Obligations.SuppressorAndHangoverEvents
  intro s p r x c
  refine ⟨fun level => ⟨fun h => ?_, fun h => ?_, fun h => ?_, fun h => ?_⟩, fun ratio => ?_, fun hp hm hr => ?_, fun h => ?_,
    fun ymax xmax => ?_⟩
  · exact congrArg Host.Outcome.next ((raiseMicFloor_eq p s level).trans (if_pos h))
  · exact congrArg Host.Outcome.next ((raiseMicFloor_eq p s level).trans (if_neg h))
  · exact congrArg Host.Outcome.next ((raiseCallerFloor_eq p s level).trans (if_pos h))
  · exact congrArg Host.Outcome.next ((raiseCallerFloor_eq p s level).trans (if_neg h))
  · exact congrArg Host.Outcome.next (expireVad_eq p s ratio)
  · exact congrArg Host.Outcome.next (refreshDue_due p s hp hm hr)
  · exact congrArg Host.Outcome.next (refreshDue_idle p s h)
  · exact congrArg Host.Outcome.next (expireDoubleTalk_eq p s ymax xmax)

end Sys2Proof.Machine

/-! # Parameters and suppressor records in a step (R30, R34, R36, R38 to R48, R98, R181)

What a step can do to the parameters and to the Floor Suppressor's records is said once, as a chain of single changes; the invariants
of both follow from the changes alone. -/

namespace Sys2Proof.Machine

open Relation

/-! ## The level of a slice (R28) -/

/-- The level index of the largest mean square is 120. -/
theorem levelOfEnergy_le {e : Nat} (h : e ≤ 2 ^ 30) : levelOfEnergy e ≤ 120 := by
  unfold levelOfEnergy
  split
  · omega
  · rename_i h1
    have hlow : 2 ^ Nat.log2 e ≤ e := Nat.log2_self_le (by omega)
    have hhigh : e < 2 ^ Nat.log2 e * 2 := Nat.lt_log2_self
    have hk : Nat.log2 e ≤ 30 := (Nat.pow_le_pow_iff_right (by decide)).1 (hlow.trans h)
    have hq : 4 * e / 2 ^ Nat.log2 e < 8 := Nat.div_lt_of_lt_mul (by omega)
    obtain hk | hk := Nat.lt_or_eq_of_le hk
    · omega
    · rw [hk] at hlow ⊢
      omega

theorem energySum_le {xs : List Int} (h : ∀ x ∈ xs, x.natAbs ≤ 2 ^ 15) : energySum xs ≤ xs.length * 2 ^ 30 := by
  have hs := List.sum_le_card_nsmul (xs.map fun x => x.natAbs * x.natAbs) (2 ^ 30) fun y hy => by
    obtain ⟨x, hx, rfl⟩ := List.mem_map.1 hy
    exact (Nat.mul_le_mul (h x hx) (h x hx)).trans_eq (by norm_num)
  simpa [energySum] using hs

theorem natAbs_toInt_le (w : SlotWord) : w.toInt.natAbs ≤ 2 ^ 15 := by
  have h1 := w.le_toInt
  have h2 := w.toInt_lt
  omega

/-- A microphone slice has a level of at most 120. -/
theorem levelIndex_micSlice_le (s : State) (p : PosIx) : levelIndex (micSlice s p) ≤ 120 := by
  have hl : (micSlice s p).length = 64 := isSlice_slotSamples _ _ _
  have he : energySum (micSlice s p) ≤ (micSlice s p).length * 2 ^ 30 := energySum_le fun x hx => by
    obtain ⟨w, -, rfl⟩ := List.mem_map.1 hx
    exact natAbs_toInt_le w
  rw [hl] at he
  exact levelOfEnergy_le (Nat.div_le_of_le_mul he)

/-! ## The single changes -/

/-- A position's parameters and the record of its suppressor. -/
def levelOf (r : Position) : PosParams × Suppressor := (r.params, r.suppressor)

/-- Everything that a part of a step does to a position's parameters or to its suppressor's record: the resets and the close of the
position (R11, R20, R21), SET-PARAM (R181), and the parts of stage 1 (R30, R39, R42, R45 to R48). -/
inductive LevelChange : PosParams × Suppressor → PosParams × Suppressor → Prop where
  | reset (t : PosParams) (x : Suppressor) : LevelChange (t, x) (defaultPosParams, suppressorAtReset)
  | close (t : PosParams) (x : Suppressor) : LevelChange (t, x) (t, suppressorAtReset)
  | store (t : PosParams) (x : Suppressor) (q : PosParam) (v : Nat) : LevelChange (t, x) (putPosParam t (storedValueOf t q v) q, x)
  | floor (t : PosParams) (x : Suppressor) (l : Nat) (h : l ≤ 120) :
    LevelChange (t, x) (t, { x with floor := trackerStep t.floorRise l x.floor })
  | vad (t : PosParams) (x : Suppressor) (ratio : Nat) : LevelChange (t, x) (t, vadStep t ratio x)
  | suppress (t : PosParams) (x : Suppressor) (ratio : Nat) :
    LevelChange (t, x) (t, { x with applied := suppressionStep t ratio x.applied })
  | boost (t : PosParams) (x : Suppressor) : LevelChange (t, x) (t, boostStep t x)
  | missed (t : PosParams) (x : Suppressor) : LevelChange (t, x) (t, missedSlice t x)

/-- Everything that a part of a step does to the device parameters: a device reset (R21) and SET-PARAM (R181). -/
inductive DeviceChange : DevParams → DevParams → Prop where
  | reset (t : DevParams) : DeviceChange t defaultDevParams
  | store (t : DevParams) (q : DevParam) (v : Nat) : DeviceChange t (putDevParam t (inRange (devParamRange q) v) q)

/-- From `s` to `t` the parameters and the suppressors' records changed by single changes alone. -/
def LevelsEvolve (s t : State) : Prop :=
  (∀ p, ReflTransGen LevelChange (levelOf (getPos s p)) (levelOf (getPos t p))) ∧ ReflTransGen DeviceChange s.device t.device

/-- Stage 1 is a chain of its parts (R37). -/
theorem levelChanges_stage (t : PosParams) (received : Bool) (v : List Int) (x : Suppressor) (h : levelIndex v ≤ 120) :
    ReflTransGen LevelChange (t, x) (t, suppressorStage t received v x) := by
  cases received with
  | false => exact .single (.missed t x)
  | true => exact (((ReflTransGen.single (.floor t x _ h)).tail (.vad t _ _)).tail (.suppress t _ _)).tail (.boost t _)

section
variable {s t u : State} {p : PosIx} {w : PlayerId} {r : Position} {e : Engine}

theorem LevelsEvolve.rfl : LevelsEvolve s s := ⟨fun _ => .refl, .refl⟩

theorem LevelsEvolve.trans (h : LevelsEvolve s t) (g : LevelsEvolve t u) : LevelsEvolve s u :=
  ⟨fun p => (h.1 p).trans (g.1 p), h.2.trans g.2⟩

theorem LevelsEvolve.ite {c : Prop} [Decidable c] (h : LevelsEvolve s t) (g : LevelsEvolve s u) :
    LevelsEvolve s (if c then t else u) := by
  split
  · exact h
  · exact g

theorem LevelsEvolve.still (hp : t.positions = s.positions) (hd : t.device = s.device) : LevelsEvolve s t := by
  refine ⟨fun p => ?_, ?_⟩
  · rw [getPos, getPos, hp]
  · rw [hd]

theorem LevelsEvolve.of_bare (h : bare t = bare s) : LevelsEvolve s t := by
  have hd := congrArg State.device h
  exact .still (positions_of_bare h) hd

theorem LevelsEvolve.of_portless (h : portless t = portless s) : LevelsEvolve s t := by
  have hd := congrArg State.device h
  exact .still (positions_of_portless h) hd

theorem LevelsEvolve.of_storeless (h : storeless t = storeless s) : LevelsEvolve s t := by
  have hd := congrArg State.device h
  exact .still (positions_of_storeless h) hd

theorem levelsEvolve_putPos (h : ReflTransGen LevelChange (levelOf (getPos s p)) (levelOf r)) : LevelsEvolve s (putPos s p r) := by
  refine ⟨fun q => ?_, .refl⟩
  rw [getPos_putPos]
  split
  · rename_i hq
    rw [← hq]
    exact h
  · exact .refl

theorem levelsEvolve_putEngine (e : Engine) : LevelsEvolve s (putEngine s e) := .still (Eq.refl _) (Eq.refl _)

theorem levelsEvolve_raise (b : ReportBody) (s : State) : LevelsEvolve s (raise b s) := .of_bare (bare_raise b s)

theorem levelsEvolve_raiseAll (bs : List ReportBody) (s : State) : LevelsEvolve s (raiseAll bs s) := .of_bare (bare_raiseAll bs s)

theorem LevelsEvolve.of_leaves (h : Leaves s p r e u) (hr : levelOf r = levelOf (getPos s p)) : LevelsEvolve s u := by
  have hp : LevelsEvolve s (putPos s p r) := levelsEvolve_putPos (by rw [hr])
  exact (hp.trans (levelsEvolve_putEngine e)).trans (.of_bare h.1)

/-! ## Players and calls -/

theorem levelsEvolve_player {pl : Player} (h : bare t = bare (putPlayer s p w pl)) : LevelsEvolve s t := by
  have hl : levelOf (withPlayer (getPos s p) w pl) = levelOf (getPos s p) := by cases w <;> rfl
  have hp : LevelsEvolve s (putPlayer s p w pl) := levelsEvolve_putPos (by rw [hl])
  exact hp.trans (.of_bare h)

theorem levelsEvolve_endCurrent (p : PosIx) (w : PlayerId) (reason : LeaveReason) (s : State) :
    LevelsEvolve s (endCurrent p w reason s) := by
  have hb := bare_endCurrent p w reason s
  split at hb
  · exact levelsEvolve_player hb
  · exact .of_bare hb

theorem levelsEvolve_dropLists (p : PosIx) (w : PlayerId) (reason : LeaveReason) (sel : Item → Bool) (s : State) :
    LevelsEvolve s (dropLists p w reason sel s) := levelsEvolve_player (bare_dropLists p w reason sel s)

theorem levelsEvolve_clearPlayer (p : PosIx) (w : PlayerId) (reason : LeaveReason) (s : State) :
    LevelsEvolve s (clearPlayer p w reason s) := (levelsEvolve_dropLists ..).trans (levelsEvolve_endCurrent ..)

theorem levelsEvolve_playItem (p : PosIx) (w : PlayerId) (m : PlayMode) (it : Item) (s : State) :
    LevelsEvolve s (playItem p w m it s) := by
  cases m with
  | now => exact levelsEvolve_player (bare_playNowItem p w it s)
  | interrupt => exact levelsEvolve_player (bare_playInterruptItem p w it s)
  | next => exact levelsEvolve_player (bare_playNextItem p w it s)
  | only => exact levelsEvolve_player (bare_playOnlyItem p w it s)

theorem levelsEvolve_setCall (p : PosIx) (c : CallState) (s : State) : LevelsEvolve s (setCall p c s) := levelsEvolve_putPos .refl

theorem levelsEvolve_putCanceller (c : Canceller) : LevelsEvolve s (putCanceller s p c) := levelsEvolve_putPos .refl

theorem levelsEvolve_whisperCheck (p : PosIx) (was : Bool) (s : State) : LevelsEvolve s (whisperCheck p was s) :=
  .ite (((levelsEvolve_setCall p .connected s).trans (levelsEvolve_clearPlayer ..)).trans (levelsEvolve_raise ..)) .rfl

theorem levelsEvolve_giveUpStream (i : StreamIx) (p : PosIx) (w : PlayerId) (s : State) :
    LevelsEvolve s (giveUpStream i p w s) :=
  .ite ((levelsEvolve_dropLists ..).trans (levelsEvolve_endCurrent ..)) (levelsEvolve_dropLists ..)

theorem levelsEvolve_closeStream (i : StreamIx) (s : State) : LevelsEvolve s (closeStream i s) := by
  have hgiven : LevelsEvolve s ((streamHolders i s).foldl (fun t x => giveUpStream i x.1 x.2 t) s) :=
    foldl_keeps (P := LevelsEvolve s) (fun t x ht => ht.trans (levelsEvolve_giveUpStream i x.1 x.2 t)) _ _ .rfl
  have hwhispered : LevelsEvolve s
      (closeWhispers (streamHolders i s) s ((streamHolders i s).foldl (fun t x => giveUpStream i x.1 x.2 t) s)) :=
    foldl_keeps (P := LevelsEvolve s) (fun t x ht => .ite (ht.trans (levelsEvolve_whisperCheck ..)) ht) _ _ hgiven
  exact hwhispered.trans (.still (Eq.refl _) (Eq.refl _))

theorem levelsEvolve_cancelSearches (p : PosIx) (s : State) : LevelsEvolve s (cancelSearches p s) :=
  .of_leaves (leaves_self s p).cancelSearches (Eq.refl _)

theorem levelsEvolve_clearTone (p : PosIx) (s : State) : LevelsEvolve s (clearTone p s) :=
  .of_leaves (leaves_self s p).clearTone (Eq.refl _)

theorem levelsEvolve_clearCallTone (p : PosIx) (s : State) : LevelsEvolve s (clearCallTone p s) :=
  .ite (levelsEvolve_clearTone ..) .rfl

theorem levelsEvolve_playersCleared (p : PosIx) (s : State) : LevelsEvolve s (playersCleared p s) :=
  ((levelsEvolve_setCall p .ready s).trans (levelsEvolve_clearPlayer ..)).trans (levelsEvolve_clearPlayer ..)

theorem levelsEvolve_clearCall (p : PosIx) (s : State) : LevelsEvolve s (clearCall p s) := by
  have hquiet := (levelsEvolve_playersCleared p s).trans (levelsEvolve_clearCallTone p _)
  have hending : LevelsEvolve s (callEnding p s) := hquiet.trans (levelsEvolve_putCanceller _)
  rw [clearCall_eq]
  exact hending.trans (levelsEvolve_cancelSearches ..)

theorem levelsEvolve_closedRecord (p : PosIx) (s : State) : LevelsEvolve s (putPos s p (closedRecord (getPos s p))) :=
  levelsEvolve_putPos (.single (.close _ _))

theorem levelsEvolve_resetRecord (p : PosIx) (s : State) : LevelsEvolve s (putPos s p (resetRecord p (getPos s p))) :=
  levelsEvolve_putPos (.single (.reset _ _))

theorem levelsEvolve_closePosition (p : PosIx) (s : State) : LevelsEvolve s (closePosition p s) := by
  have hended : LevelsEvolve s (endIfCalled p s) := .ite (levelsEvolve_clearCall ..) .rfl
  have hvacant := hended.trans (levelsEvolve_setCall p .vacant _)
  have hquiet := (hvacant.trans (levelsEvolve_clearPlayer p .agent .cleared _)).trans (levelsEvolve_clearTone p _)
  rw [closePosition_eq]
  exact hquiet.trans (levelsEvolve_closedRecord p _)

theorem levelsEvolve_closeIfOpen (p : PosIx) (s : State) : LevelsEvolve s (closeIfOpen p s) :=
  .ite .rfl (levelsEvolve_closePosition p s)

theorem levelsEvolve_resetPosition (p : PosIx) (s : State) : LevelsEvolve s (resetPosition p s) :=
  ((levelsEvolve_putCanceller _).trans (levelsEvolve_closeIfOpen ..)).trans (levelsEvolve_resetRecord p _)

theorem levelsEvolve_takeOffer (p : PosIx) (a b : Option Item) (hint : Option Nat) (s : State) :
    LevelsEvolve s (takeOffer p a b hint s) := .of_leaves (takeOffer_leaves s p a b hint) (Eq.refl _)

/-! ## Cancellers and searches -/

theorem levelsEvolve_placeRequest (p : PosIx) (q : SearchRequest) (s : State) : LevelsEvolve s (placeRequest p q s).1 := by
  rw [placeRequest_eq]
  exact levelsEvolve_putEngine _

theorem levelsEvolve_startHead (s : State) : LevelsEvolve s (startHead s) := by
  rw [startHead_eq]
  exact levelsEvolve_putEngine _

theorem levelsEvolve_endSearch (o : SearchOutcome) (lag : Option Nat) (f : InFlight) (s : State) :
    LevelsEvolve s (endSearch o lag f s).1 := by
  have hp : LevelsEvolve s (putPos s f.entry.position (searchedRecord o lag f (getPos s f.entry.position))) :=
    levelsEvolve_putPos .refl
  rw [endSearch_eq]
  exact hp.trans (levelsEvolve_putEngine _)

theorem levelsEvolve_judgeSearch (f : InFlight) (s : State) : LevelsEvolve s (judgeSearch f s).1 := by
  obtain ⟨o, lag, -, he⟩ | ⟨-, he⟩ := judgeSearch_cases f s
  · rw [he]
    exact levelsEvolve_endSearch ..
  · rw [he]
    exact .rfl

theorem levelsEvolve_changeMode (m : CancellerMode) (p : PosIx) (s : State) : LevelsEvolve s (changeMode m p s) :=
  .ite .rfl (.ite ((levelsEvolve_putCanceller _).trans (levelsEvolve_cancelSearches ..)) (levelsEvolve_putCanceller _))

/-! ## The resets of the part (R21, R182, R183) -/

/-- Whatever the part was, a reset of every position and of the device parameters is a change of each. -/
theorem levelsEvolve_allReset (hp : t.positions = positionsAtReset) (hd : t.device = defaultDevParams) : LevelsEvolve s t := by
  refine ⟨fun p => ?_, ?_⟩
  · have hr : getPos t p = positionAtReset p := by rw [getPos, hp, ← getPos_reset p]; rfl
    rw [hr]
    exact .single (.reset _ _)
  · rw [hd]
    exact .single (.reset _)

end

end Sys2Proof.Machine

/-! # Parameters and suppressor records in every command, slice and event -/

namespace Sys2Proof.Machine

open Relation

/-! ## Commands -/

section
variable {s t : State}

theorem levelsEvolve_taken (h : LevelsEvolve s t) : LevelsEvolve s (taken t).1 := h

theorem levelsEvolve_onPosition (src : Nat) {act : PosIx → Answer} (h : ∀ p, LevelsEvolve s (act p).1) :
    LevelsEvolve s (onPosition s src act).1 := onPosition_keeps (P := LevelsEvolve s) src .rfl h

theorem levelsEvolve_onDevice (src : Nat) {act : Answer} (h : LevelsEvolve s act.1) : LevelsEvolve s (onDevice s src act).1 :=
  onDevice_keeps (P := LevelsEvolve s) src .rfl h

theorem levelsEvolve_onClip (id : Nat) {act : ClipIx → Answer} (h : ∀ c, LevelsEvolve s (act c).1) :
    LevelsEvolve s (onClip s id act).1 := onClip_keeps (P := LevelsEvolve s) id .rfl h

theorem levelsEvolve_onStream (id : Nat) {act : StreamIx → Answer} (h : ∀ i, LevelsEvolve s (act i).1) :
    LevelsEvolve s (onStream s id act).1 := onStream_keeps (P := LevelsEvolve s) id .rfl h

theorem levelsEvolve_putTone (p : PosIx) (x : Tone) : LevelsEvolve s (spendDraw (putPos s p { getPos s p with tone := x })) :=
  LevelsEvolve.trans (t := putPos s p { getPos s p with tone := x }) (levelsEvolve_putPos .refl) (.still rfl rfl)

end

section
variable (src : Nat) (b : List Byte) (s : State)

theorem levelsEvolve_resetCommand : LevelsEvolve s (resetCommand src b s).1 := by
  unfold resetCommand
  split
  · exact .rfl
  · split
    · refine levelsEvolve_onDevice src ?_
      split
      · exact .rfl
      · exact levelsEvolve_allReset rfl rfl
    · exact levelsEvolve_onPosition src fun p => levelsEvolve_resetPosition p s

/-- SET-PARAM stores one value (R181). -/
theorem levelsEvolve_setParam : LevelsEvolve s (setParamCommand src b s).1 := by
  unfold setParamCommand
  dsimp only
  split
  · exact .rfl
  · split
    · exact levelsEvolve_putPos (.single (.store _ _ _ _))
    · exact .rfl
  · split
    · exact ⟨fun _ => .refl, .single (.store _ _ _)⟩
    · exact .rfl

theorem levelsEvolve_callOffer : LevelsEvolve s (callOfferCommand src b s).1 := by
  refine levelsEvolve_onPosition src fun p => ?_
  split
  · exact .rfl
  · split
    · exact .rfl
    · split
      · exact .rfl
      · split
        · exact .rfl
        · exact levelsEvolve_takeOffer ..

theorem levelsEvolve_callConnect : LevelsEvolve s (callConnectCommand src s).1 := by
  refine levelsEvolve_onPosition src fun p => ?_
  have hc := levelsEvolve_setCall p .connected s
  split
  · exact levelsEvolve_taken ((hc.trans (levelsEvolve_clearPlayer ..)).trans (levelsEvolve_clearPlayer ..))
  · exact levelsEvolve_taken (hc.trans (levelsEvolve_clearPlayer ..))
  all_goals exact .rfl

theorem levelsEvolve_callHold : LevelsEvolve s (callHoldCommand src b s).1 := by
  refine levelsEvolve_onPosition src fun p => ?_
  split
  · exact .rfl
  · split
    · exact .rfl
    · exact levelsEvolve_taken ((levelsEvolve_setCall p .held s).trans (levelsEvolve_playItem p .net .only _ _))

theorem levelsEvolve_play : LevelsEvolve s (playCommand src b s).1 := by
  refine levelsEvolve_onPosition src fun p => ?_
  split
  · split
    · exact .rfl
    · split
      · exact .rfl
      · dsimp only
        split
        · exact .rfl
        · exact levelsEvolve_playItem ..
  · exact .rfl

theorem levelsEvolve_stop : LevelsEvolve s (stopCommand src b s).1 := by
  refine levelsEvolve_onPosition src fun p => ?_
  split
  · exact (levelsEvolve_endCurrent ..).trans (levelsEvolve_whisperCheck ..)
  · exact (levelsEvolve_clearPlayer ..).trans (levelsEvolve_whisperCheck ..)
  · exact .rfl

theorem levelsEvolve_search : LevelsEvolve s (searchCommand src b s).1 := by
  refine levelsEvolve_onPosition src fun p => ?_
  split
  · exact .rfl
  · split
    · exact levelsEvolve_placeRequest ..
    · exact .rfl

theorem levelsEvolve_toneStart : LevelsEvolve s (toneStartCommand src b s).1 := by
  refine levelsEvolve_onPosition src fun p => ?_
  split
  · exact .rfl
  · split
    · exact .rfl
    · split
      · exact .rfl
      · exact levelsEvolve_putTone p _

theorem levelsEvolve_portSet : LevelsEvolve s (portSetCommand src b s).1 := by
  refine levelsEvolve_onDevice src ?_
  split
  · split
    · exact .rfl
    · split
      · exact .rfl
      · exact .of_portless (portless_setPort ..)
  · exact .rfl

theorem levelsEvolve_sleep : LevelsEvolve s (sleepCommand src s).1 := by
  refine levelsEvolve_onDevice src ?_
  split
  · exact .rfl
  · split
    · exact .rfl
    · exact .of_portless (portless_goToSleep s)

theorem levelsEvolve_streamRun (act : Stream → Stream) : LevelsEvolve s (streamRunCommand act src b s).1 := by
  refine levelsEvolve_onDevice src ?_
  split
  · exact .rfl
  · refine levelsEvolve_onStream _ fun i => ?_
    split <;> exact .still rfl rfl

/-- Every command changes the parameters and the suppressors' records by single changes alone (R177). -/
theorem levelsEvolve_perform (c : Command) : LevelsEvolve s (perform c src b s).1 := by
  cases c with
  | reset => exact levelsEvolve_resetCommand src b s
  | sleep => exact levelsEvolve_sleep src s
  | wake => exact levelsEvolve_onDevice src (by split; exacts [.of_portless (portless_portsEvent ..), .rfl])
  | portSet => exact levelsEvolve_portSet src b s
  | portStatus => exact levelsEvolve_onDevice src (by split <;> exact .still rfl rfl)
  | setParam => exact levelsEvolve_setParam src b s
  | getParam => simp only [perform, getParamCommand]; (repeat' split) <;> exact .rfl
  | posOpen => exact levelsEvolve_onPosition src fun p => by split; exacts [levelsEvolve_putPos .refl, .rfl]
  | posClose => exact levelsEvolve_onPosition src fun p => levelsEvolve_taken (levelsEvolve_closeIfOpen p s)
  | callOffer => exact levelsEvolve_callOffer src b s
  | callConnect => exact levelsEvolve_callConnect src s
  | callHold => exact levelsEvolve_callHold src b s
  | callClear => exact levelsEvolve_onPosition src fun p => by split; exacts [levelsEvolve_taken (levelsEvolve_clearCall p s), .rfl]
  | mute => exact levelsEvolve_onPosition src fun p => by split; exacts [.rfl, by split; exacts [.rfl, levelsEvolve_putPos .refl]]
  | posStatus => exact levelsEvolve_onPosition src fun p => .rfl
  | ecMode => exact levelsEvolve_onPosition src fun p => by split; exacts [.rfl, levelsEvolve_taken (levelsEvolve_changeMode ..)]
  | ecFreeze => exact levelsEvolve_onPosition src fun p => by split; exacts [.rfl, levelsEvolve_taken (levelsEvolve_putCanceller _)]
  | search => exact levelsEvolve_search src b s
  | windowSet => exact levelsEvolve_onPosition src fun p => by split; exacts [.rfl, levelsEvolve_putCanceller _]
  | ecStatus => exact levelsEvolve_onPosition src fun p => .rfl
  | play => exact levelsEvolve_play src b s
  | stop => exact levelsEvolve_stop src b s
  | playerStatus => exact levelsEvolve_onPosition src fun p => .still rfl rfl
  | toneStart => exact levelsEvolve_toneStart src b s
  | toneStop => exact levelsEvolve_onPosition src fun p => levelsEvolve_putTone p _
  | clipAlloc =>
    exact levelsEvolve_onDevice src (levelsEvolve_onClip _ fun c => by dsimp only; (repeat' split) <;> exact .still rfl rfl)
  | clipWrite =>
    exact levelsEvolve_onDevice src (levelsEvolve_onClip _ fun c => by dsimp only; (repeat' split) <;> exact .still rfl rfl)
  | clipEnd => exact levelsEvolve_onDevice src (levelsEvolve_onClip _ fun c => by dsimp only; split <;> exact .still rfl rfl)
  | clipFree => exact levelsEvolve_onDevice src (levelsEvolve_onClip _ fun c => by (repeat' split) <;> exact .still rfl rfl)
  | clipInfo => exact levelsEvolve_onDevice src (levelsEvolve_onClip _ fun c => .still rfl rfl)
  | storeCompact => exact levelsEvolve_onDevice src (by (repeat' split) <;> exact .still rfl rfl)
  | expandLoad => exact levelsEvolve_onDevice src (.still rfl rfl)
  | streamOpen =>
    exact levelsEvolve_onDevice src (levelsEvolve_onStream _ fun i => by dsimp only; (repeat' split) <;> exact .still rfl rfl)
  | streamFill =>
    exact levelsEvolve_onDevice src (levelsEvolve_onStream _ fun i => by
      dsimp only [fillHalf]; (repeat' split) <;> exact .still rfl rfl)
  | streamStart => exact levelsEvolve_streamRun src b s startedStream
  | streamStop => exact levelsEvolve_streamRun src b s haltedStream
  | streamClose =>
    exact levelsEvolve_onDevice src (levelsEvolve_onStream _ fun i => by
      split; exacts [.rfl, levelsEvolve_taken (levelsEvolve_closeStream i s)])
  | streamStatus => exact levelsEvolve_onDevice src (levelsEvolve_onStream _ fun i => .rfl)

end

/-! ## The link (R174 to R177, R180) -/

theorem levelsEvolve_putLink (s t : State) (l : Link) (h : LevelsEvolve s t) : LevelsEvolve s (putLink t l) := h.trans (.still rfl rfl)

theorem levelsEvolve_writeFrame (f : Frame) (s : State) : LevelsEvolve s (writeFrame f s) :=
  writeFrame_keeps (P := LevelsEvolve s) (levelsEvolve_putLink s) (fun c src b t ht => ht.trans (levelsEvolve_perform src b t c)) f s
    .rfl

theorem levelsEvolve_readTransaction (e : ReadEvent) (s : State) : LevelsEvolve s (readTransaction e s) :=
  readTransaction_keeps (P := LevelsEvolve s) (levelsEvolve_putLink s)
    (fun c src b t ht => ht.trans (levelsEvolve_perform src b t c)) e s .rfl

theorem levelsEvolve_frameFault (s : State) : LevelsEvolve s (frameFault s) :=
  linkEvent_keeps (P := LevelsEvolve s) (levelsEvolve_putLink s) _ _ _ .rfl

/-! ## The slice of a position (R15) -/

section
variable {s : State} {p : PosIx}

theorem stages_suppressor (p : PosIx) (s : State) :
    (stages p s).suppressor = suppressorStage (getPos s p).params s.period.micReceived (micSlice s p) (getPos s p).suppressor := by
  simp only [stages]

/-- A slice leaves its position the suppressor's record of stage 1. -/
theorem levelsEvolve_settleSlice (p : PosIx) (s : State) : LevelsEvolve s (settleSlice p (stages p s) s) := by
  have hstage : ReflTransGen LevelChange (levelOf (getPos s p)) (levelOf (sliceRecord (stages p s) (getPos s p))) := by
    have h := levelChanges_stage (getPos s p).params s.period.micReceived (micSlice s p) (getPos s p).suppressor
      (levelIndex_micSlice_le s p)
    rw [← stages_suppressor] at h
    exact h
  have hb := settleSlice_beside p (stages p s) s
  exact (levelsEvolve_putPos hstage).trans (.still hb.positions hb.device)

theorem levelsEvolve_sliceRequests (p : PosIx) (w : SliceWork) (s : State) : LevelsEvolve s (sliceRequests p w s) :=
  .ite (levelsEvolve_placeRequest ..) .rfl

theorem levelsEvolve_sliceJudgement (p : PosIx) (searched : Bool) (s : State) : LevelsEvolve s (sliceJudgement p searched s).1 := by
  unfold sliceJudgement
  split
  · exact .rfl
  · split
    · exact levelsEvolve_judgeSearch ..
    · exact .rfl

theorem levelsEvolve_judgedSlice (p : PosIx) (s : State) : LevelsEvolve s (judgedSlice p s).1 :=
  ((levelsEvolve_settleSlice p s).trans (levelsEvolve_sliceRequests ..)).trans (levelsEvolve_sliceJudgement ..)

theorem levelsEvolve_sliceAct (p : PosIx) (s : State) (x : SliceAct) (t : State) : LevelsEvolve t (sliceAct p s x t) := by
  cases x with
  | players => exact (levelsEvolve_raiseAll _ t).trans (levelsEvolve_whisperCheck ..)
  | level | tone | echo => exact levelsEvolve_raiseAll _ t

theorem levelsEvolve_positionSlice (p : PosIx) (s : State) : LevelsEvolve s (positionSlice p s) := by
  refine .ite ?_ .rfl
  rw [processSlice_eq]
  refine inFreeOrder_keeps (P := LevelsEvolve s) _ _ (levelsEvolve_judgedSlice p s) ?_ fun t ht => ht.trans (.still rfl rfl)
  intro act ha t ht
  obtain ⟨x, -, rfl⟩ := List.mem_map.1 ha
  exact ht.trans (levelsEvolve_sliceAct p s x t)

/-! ## The slice period (R24) -/

theorem levelsEvolve_finishSlices (s : State) : LevelsEvolve s (finishSlices s) :=
  LevelsEvolve.trans
    (foldl_keeps (P := LevelsEvolve s) (fun t p ht => ht.trans (levelsEvolve_positionSlice p t)) (dueOrder s) s .rfl)
    (.still rfl rfl)

theorem levelsEvolve_endPeriod (s : State) : LevelsEvolve s (endPeriod s) := by
  refine .ite ?_ .rfl
  refine inFreeOrder_keeps (P := LevelsEvolve s) _ _ (levelsEvolve_finishSlices s) ?_ fun t ht => ht.trans (.still rfl rfl)
  intro act ha t ht
  simp only [List.mem_cons, List.not_mem_nil, or_false] at ha
  obtain rfl | rfl := ha
  · exact ht.trans (.of_portless (portless_handEarpiece t))
  · exact ht.trans (.of_storeless (storeless_finishMove t))

theorem levelsEvolve_dueSlices (s : State) : LevelsEvolve s (dueSlices s) :=
  ⟨fun p => by rw [getPos_dueSlices]; exact .refl, .refl⟩

theorem levelsEvolve_beginPeriod (netIn posIn : AudioBlock) (group : Option AudioBlock) (s : State) :
    LevelsEvolve s (beginPeriod netIn posIn group s) := by
  have hstarted : LevelsEvolve s (putPeriod (putPorts s (clearedOutputs s.ports)) (startedPeriod netIn s.ports)) := .still rfl rfl
  refine inFreeOrder_keeps (P := LevelsEvolve s) _ _ (hstarted.trans (levelsEvolve_dueSlices _)) ?_ fun t ht =>
    ht.trans (.still rfl rfl)
  intro act ha t ht
  have hfix : ∀ i, LevelsEvolve s (fixOne i t) := fun i => ht.trans (.of_storeless (storeless_fixOne t i))
  simp only [List.mem_cons, List.not_mem_nil, or_false] at ha
  obtain rfl | rfl | rfl | rfl | rfl | rfl := ha
  · exact ht.trans (.of_portless (portless_receiveMic t posIn group))
  · exact hfix 0
  · exact hfix 1
  · exact hfix 2
  · exact hfix 3
  · exact ht.trans (.of_storeless (storeless_compactPeriod t))

theorem levelsEvolve_slicePeriod (netIn posIn : AudioBlock) (group : Option AudioBlock) (s : State) :
    LevelsEvolve s (slicePeriod netIn posIn group s) := by
  have hgroup : LevelsEvolve s (groupBefore group s) := .of_portless (portless_groupBefore s group)
  exact .ite .rfl ((hgroup.trans (levelsEvolve_endPeriod _)).trans (levelsEvolve_beginPeriod ..))

end

end Sys2Proof.Machine

/-! # Every step keeps the parameters and the suppressor records in their ranges (R30, R34, R36, R98, R181) -/

namespace Sys2Proof.Machine

open Relation

/-! ## The events -/

section
variable (p : PosIx) (s : State)

theorem levelsEvolve_raiseMicFloor (level : Nat) : LevelsEvolve s (raiseMicFloor p level s) := by
  unfold raiseMicFloor
  dsimp only
  split
  · rename_i h
    obtain ⟨-, hl, -⟩ := h
    exact levelsEvolve_putPos (.single (.floor _ _ level hl))
  · exact .rfl

theorem levelsEvolve_raiseCallerFloor (level : Nat) : LevelsEvolve s (raiseCallerFloor p level s) :=
  .ite (levelsEvolve_putCanceller _) .rfl

theorem levelsEvolve_expireVad (ratio : Nat) : LevelsEvolve s (expireVad p ratio s) :=
  .ite (levelsEvolve_putPos (.single (.vad _ _ ratio))) .rfl

theorem levelsEvolve_refreshDue : LevelsEvolve s (refreshDue p s) := by
  have hboost : LevelsEvolve s (putSuppressor s p (boostStep (getPos s p).params (getPos s p).suppressor)) :=
    levelsEvolve_putPos (.single (.boost _ _))
  exact .ite (hboost.trans (levelsEvolve_raiseAll ..)) .rfl

theorem levelsEvolve_expireDoubleTalk (ymax xmax : Nat) : LevelsEvolve s (expireDoubleTalk p ymax xmax s) :=
  .ite (levelsEvolve_putCanceller _) .rfl

theorem levelsEvolve_cancellerEvent (ev : EchoEvent) (c : Canceller) : LevelsEvolve s (cancellerEvent p ev c s) :=
  (levelsEvolve_putCanceller c).trans (levelsEvolve_raise ..)

theorem levelsEvolve_loseErle : LevelsEvolve s (loseErle p s) :=
  .ite (.ite ((levelsEvolve_putCanceller _).trans (levelsEvolve_placeRequest ..)) (levelsEvolve_putCanceller _)) .rfl

theorem levelsEvolve_expireResearch : LevelsEvolve s (expireResearch p s) :=
  .ite ((levelsEvolve_putCanceller _).trans (levelsEvolve_placeRequest ..)) .rfl

theorem levelsEvolve_endInFlight (due : InFlight → Bool) {finish : InFlight → State → State × ReportBody}
    (hf : ∀ f, LevelsEvolve s (finish f s).1) : LevelsEvolve s (endInFlight due finish s) := by
  unfold endInFlight
  split
  · exact .rfl
  · exact .ite ((hf _).trans (levelsEvolve_raise ..)) .rfl

theorem levelsEvolve_endPass (w : PlayerId) : LevelsEvolve s (endPass p w s) := by
  unfold endPass
  split
  · exact .rfl
  · dsimp only
    split
    · exact ((levelsEvolve_player (bare_settleRun ..)).trans (levelsEvolve_raiseAll ..)).trans (levelsEvolve_whisperCheck ..)
    · exact .rfl

theorem levelsEvolve_completeBurst : LevelsEvolve s (completeBurst p s) := by
  have htone : LevelsEvolve s (putTone s p (burstCompletes (getPos s p).tone).1) := levelsEvolve_putPos .refl
  exact .ite (htone.trans (levelsEvolve_raiseAll ..)) .rfl

theorem levelsEvolve_beginCycle : LevelsEvolve s (beginCycle p s) := .ite (levelsEvolve_putPos .refl) .rfl

end

/-! ## Every step -/

theorem levelsEvolve_exec (i : Instr) {s t : State} (he : exec i s = .next t) : LevelsEvolve s t := by
  cases i with
  | powerOn | resetPin => cases he; exact levelsEvolve_allReset rfl rfl
  | frameError len followed => cases he; exact .ite (levelsEvolve_frameFault s) .rfl
  | read e => cases he; exact levelsEvolve_readTransaction e s
  | frameArrival | linkClear | badKind | resetDevice | resetPosition | sleep | wake | portSet | portStatus | setParam | getParam
  | posOpen | posClose | callOffer | callConnect | callHold | callClear | mute | posStatus | ecMode | ecFreeze | search | windowSet
  | ecStatus | playNow | playInterrupt | playNext | playOnly | stopCurrent | stopAll | playerStatus | toneStart | toneStop | clipAlloc
  | clipWrite | clipEnd | clipFree | clipInfo | storeCompact | expandLoad | streamOpen | streamFill | streamStart | streamStop
  | streamClose | streamStatus => cases he; exact levelsEvolve_writeFrame _ s
  | slicePeriod netIn posIn group => cases he; exact levelsEvolve_slicePeriod netIn posIn group s
  | positionSlice p => cases he; exact levelsEvolve_positionSlice p s
  | floorTrackerRise p which level =>
    cases he
    cases which with
    | microphone => exact levelsEvolve_raiseMicFloor p s level
    | callerPath => exact levelsEvolve_raiseCallerFloor p s level
  | vadHangoverExpiry p ratio => cases he; exact levelsEvolve_expireVad p s ratio
  | boostRefresh p => cases he; exact levelsEvolve_refreshDue p s
  | doubleTalkHangoverExpiry p ymax xmax => cases he; exact levelsEvolve_expireDoubleTalk p s ymax xmax
  | converged p => cases he; exact .ite (levelsEvolve_cancellerEvent ..) .rfl
  | diverged p estimateLevel returnLevel => cases he; exact .ite (levelsEvolve_cancellerEvent ..) .rfl
  | lossOfErle p => cases he; exact levelsEvolve_loseErle p s
  | researchPeriodExpiry p => cases he; exact levelsEvolve_expireResearch p s
  | searchStart => cases he; exact levelsEvolve_startHead s
  | searchCompletes => cases he; exact levelsEvolve_endInFlight s _ fun f => levelsEvolve_endSearch _ _ f s
  | timedOut => cases he; exact levelsEvolve_endInFlight s _ fun f => levelsEvolve_endSearch _ _ f s
  | passEnd p which => cases he; exact levelsEvolve_endPass p s which
  | burstComplete p => cases he; exact levelsEvolve_completeBurst p s
  | newCycle p => cases he; exact levelsEvolve_beginCycle p s
  | halfEmpty k => cases he; exact .of_storeless (storeless_emptyHalfOf s k)
  | turn => cases he; exact .ite (.of_storeless (storeless_takeTurn s)) .rfl
  | moveCompletes => cases he; exact .of_storeless (storeless_finishMove s)
  | frameSync port distance => cases he; exact .ite (.of_portless (portless_takeSync s port distance)) .rfl
  | missingSync port => cases he; exact .ite (.of_portless (portless_missSync s port)) .rfl
  | positionPortGroup x => cases he; exact .of_portless (portless_completeGroup s x)

/-- A step changes the parameters and the suppressors' records by single changes alone. -/
theorem levelsEvolve_step {s t : State} (h : step s = .next t) : LevelsEvolve s t := by
  rw [step] at h
  split at h
  · cases h
    exact .rfl
  · rename_i c rest _
    exact LevelsEvolve.trans (t := { s with pending := rest }) (.still rfl rfl) (levelsEvolve_exec c h)

/-! ## What the single changes keep -/

/-- A property that every link of a chain keeps, the chain keeps. -/
theorem keeps_of_chain {α : Type} {R : α → α → Prop} {P : α → Prop} (hk : ∀ a b, P a → R a b → P b) {a b : α}
    (h : ReflTransGen R a b) (ha : P a) : P b := by
  induction h with
  | refl => exact ha
  | tail _ hab ih => exact hk _ _ ih hab

theorem paramsOk_of_change {a b : PosParams × Suppressor} (h : ParamsOk a.1) (hc : LevelChange a b) : ParamsOk b.1 := by
  cases hc with
  | reset => exact paramsOk_default
  | store t x q v => exact paramsOk_store h q v
  | _ => exact h

theorem deviceOk_of_change {a b : DevParams} (h : DeviceOk a) (hc : DeviceChange a b) : DeviceOk b := by
  cases hc with
  | reset => exact deviceOk_default
  | store q v => exact deviceOk_store h q v

theorem trackerOk_step {rise l : Nat} {t : Tracker} (h : TrackerOk t) (hr : rise ≤ 250) (hl : l ≤ 120) :
    TrackerOk (trackerStep rise l t) := by
  obtain ⟨hlevel, -⟩ := h
  unfold trackerStep
  split
  · exact ⟨hl, Nat.zero_le _⟩
  · split
    · exact ⟨(Nat.min_le_right _ _).trans hl, Nat.zero_le _⟩
    · exact ⟨hlevel, by dsimp only; omega⟩

/-- A step towards a target goes no higher than the target or the value (R48). -/
theorem stepTowards_le {v target n : Nat} (hv : v ≤ n) (ht : target ≤ n) : stepTowards v target ≤ n := by
  unfold stepTowards
  split
  · omega
  · split
    · omega
    · exact hv

theorem suppressionStep_le {t : PosParams} {ratio applied : Nat} (ht : t.nsAmax ≤ 63) (ha : applied ≤ 63) :
    suppressionStep t ratio applied ≤ 63 := by
  have hwant : curveFalling (suppressionCurve t) t.nsAmax ratio 0 ≤ 63 := (Nat.sub_le _ _).trans ht
  unfold suppressionStep
  rw [suppressionMove_eq]
  split
  · exact Nat.zero_le _
  · split
    · omega
    · split <;> omega

theorem boostTarget_le (t : PosParams) (floor : Nat) : boostTarget t floor ≤ t.boostMax := Nat.min_le_right _ _

theorem suppressorOk_reset : SuppressorOk suppressorAtReset := by
  unfold SuppressorOk TrackerOk
  decide

theorem suppressorOk_vad {t : PosParams} {x : Suppressor} (ht : t.vadHang ≤ 250) (h : SuppressorOk x) (ratio : Nat) :
    SuppressorOk (vadStep t ratio x) := by
  obtain ⟨hf, hh, hrest⟩ := h
  rw [vadStep_eq]
  refine ⟨hf, ?_, hrest⟩
  dsimp only
  split
  · exact ht
  · omega

theorem suppressorOk_boost {t : PosParams} {x : Suppressor} (hm : t.boostMax ≤ 24) (hr : t.boostRefresh ≤ 2500)
    (h : SuppressorOk x) : SuppressorOk (boostStep t x) := by
  obtain ⟨hf, hh, ha, ht, hb, -⟩ := h
  have htarget : (if t.boostRefresh ≤ x.refresh + 1 then boostTarget t x.floor.level else x.target) ≤ 24 := by
    split
    · exact (boostTarget_le ..).trans hm
    · exact ht
  rw [boostStep_eq]
  refine ⟨hf, hh, ha, htarget, stepTowards_le hb htarget, ?_⟩
  dsimp only
  split <;> omega

theorem suppressorOk_missed {t : PosParams} {x : Suppressor} (h : SuppressorOk x) : SuppressorOk (missedSlice t x) := by
  obtain ⟨hf, -, ha, hrest⟩ := h
  refine ⟨hf, Nat.zero_le _, ?_, hrest⟩
  dsimp only [missedSlice]
  split
  · exact Nat.zero_le _
  · exact ha

/-- With the parameters in range, a single change keeps the ranges of Table 3-1. -/
theorem suppressorOk_of_change {a b : PosParams × Suppressor} (ht : ParamsOk a.1) (h : SuppressorOk a.2) (hc : LevelChange a b) :
    SuppressorOk b.2 := by
  cases hc with
  | reset | close => exact suppressorOk_reset
  | store => exact h
  | floor t x l hl => exact ⟨trackerOk_step h.1 (ht.le_max .floorRise) hl, h.2⟩
  | vad t x ratio => exact suppressorOk_vad (ht.le_max .vadHang) h ratio
  | suppress t x ratio =>
    obtain ⟨hf, hh, ha, hrest⟩ := h
    exact ⟨hf, hh, suppressionStep_le (ht.le_max .nsAmax) ha, hrest⟩
  | boost t x => exact suppressorOk_boost (ht.le_max .boostMax) (ht.le_max .boostRefresh) h
  | missed t x => exact suppressorOk_missed h

/-! ## The invariants -/

/-- Settles O11: a step is a chain of single changes, and each keeps the ranges and the order of the knees. -/
theorem stepKeepsTheParameters : Obligations.StepKeepsTheParameters := by
  unfold Obligations.StepKeepsTheParameters
  intro s t hp hd hs
  obtain ⟨hlevels, hdevice⟩ := levelsEvolve_step hs
  exact ⟨fun p => keeps_of_chain (P := fun a => ParamsOk a.1) (fun _ _ => paramsOk_of_change) (hlevels p) (hp p),
    keeps_of_chain (P := DeviceOk) (fun _ _ => deviceOk_of_change) hdevice hd⟩

/-- Settles O12: each single change of a step keeps the ranges of Table 3-1 while it keeps those of the parameters. -/
theorem stepKeepsTheSuppressors : Obligations.StepKeepsTheSuppressors := by
  unfold Obligations.StepKeepsTheSuppressors
  intro s t hp hx hs p
  obtain ⟨hlevels, -⟩ := levelsEvolve_step hs
  have h := keeps_of_chain (P := fun a : PosParams × Suppressor => ParamsOk a.1 ∧ SuppressorOk a.2)
    (fun _ _ ⟨ht, hx⟩ hc => ⟨paramsOk_of_change ht hc, suppressorOk_of_change ht hx hc⟩) (hlevels p) ⟨hp p, hx p⟩
  exact h.2

end Sys2Proof.Machine

/-! # EC-MODE, EC-FREEZE and WINDOW-SET (R55, R63, R70, R77 to R79) -/

namespace Sys2Proof.Machine

/-! ## EC-MODE -/

section
variable {s : State} {p : PosIx}

theorem exec_ecMode_refused (h : Awake s) (tag : Byte) {v : Byte} (hv : cancellerModeOfCode v.toNat = none) :
    exec (.ecMode (sourceByte p) tag v) s = .next (sendReply ⟨0x98, sourceByte p, tag, .badValue, []⟩ s) := by
  rw [exec_ecMode h.1, perform, ecModeCommand, onPosition_awake h.2]
  simp only [byteAt_cons_zero, hv, answered_refuse]

theorem exec_ecMode_taken (h : Awake s) (tag : Byte) {v : Byte} {m : CancellerMode} (hv : cancellerModeOfCode v.toNat = some m) :
    exec (.ecMode (sourceByte p) tag v) s = .next (sendReply ⟨0x98, sourceByte p, tag, .ok, []⟩ (changeMode m p s)) := by
  rw [exec_ecMode h.1, perform, ecModeCommand, onPosition_awake h.2]
  simp only [byteAt_cons_zero, hv, answered_taken]

theorem cancellerModeOfCode_none {n : Nat} (h : 2 < n) : cancellerModeOfCode n = none := by
  unfold cancellerModeOfCode
  split
  · omega
  · omega
  · omega
  · rfl

theorem changeMode_same {m : CancellerMode} (h : (getPos s p).canceller.mode = m) : changeMode m p s = s := if_pos h

theorem changeMode_idle {m : CancellerMode} (hm : (getPos s p).canceller.mode ≠ m)
    (hc : cancelling (getPos s p).canceller.state = false) :
    changeMode m p s = putCanceller s p (enterMode m (getPos s p).call (getPos s p).canceller) := by
  rw [changeMode, if_neg hm, hc]
  rfl

theorem changeMode_cancelling {m : CancellerMode} (hm : (getPos s p).canceller.mode ≠ m)
    (hc : cancelling (getPos s p).canceller.state = true) :
    changeMode m p s = cancelSearches p (putCanceller s p (enterMode m (getPos s p).call (getPos s p).canceller)) := by
  rw [changeMode, if_neg hm, hc]
  rfl

/-- A new canceller, and the searches of the position cancelled: the engine reads the other positions' window starts alone. -/
theorem cancelSearches_putCanceller_leaves (s : State) (p : PosIx) (c : Canceller) :
    Leaves s p (cancelledRecord (heldFields s p) { getPos s p with canceller := c }) (cancelledEngine s p)
      (cancelSearches p (putCanceller s p c)) := by
  have h := ((leaves_self s p).putCanceller c).cancelSearches
  have he : cancelledEngine (putCanceller s p c) p = cancelledEngine s p :=
    cancelledEngine_congr rfl fun q hq => by rw [putCanceller, getPos_putPos_ne s p q _ fun e => hq e.symm]
  rwa [heldFields_congr (s := putCanceller s p c) (t := s) rfl, he] at h

/-- The record of a position whose mode changes, with what the engine held for it (R77, R96, R97). -/
def modeRecord (m : CancellerMode) (held : Option SearchFields) (r : Position) : Position :=
  let entered := { r with canceller := enterMode m r.call r.canceller }
  if cancelling r.canceller.state then cancelledRecord held entered else entered

/-- What EC-MODE leaves where the mode is another one (R77, R96). -/
theorem changeMode_leaves {m : CancellerMode} (hm : (getPos s p).canceller.mode ≠ m) :
    Leaves s p (modeRecord m (heldFields s p) (getPos s p))
      (if cancelling (getPos s p).canceller.state then cancelledEngine s p else s.engine) (changeMode m p s) := by
  unfold modeRecord
  cases hc : cancelling (getPos s p).canceller.state with
  | false =>
    rw [changeMode_idle hm hc]
    exact (leaves_self s p).putCanceller _
  | true =>
    rw [changeMode_cancelling hm hc]
    exact cancelSearches_putCanceller_leaves s p _

theorem changeMode_link {m : CancellerMode} (hm : (getPos s p).canceller.mode ≠ m)
    (hc : cancelling (getPos s p).canceller.state = false) : (changeMode m p s).link = s.link := by
  rw [changeMode_idle hm hc, putCanceller, putPos_link]

/-- The cancellation of EC-MODE is reported (R96, R97). -/
theorem changeMode_cancelled {m : CancellerMode} (hm : (getPos s p).canceller.mode ≠ m)
    (hc : cancelling (getPos s p).canceller.state = true) :
    CancelledWaits (changeMode m p s) p (enterMode m (getPos s p).call (getPos s p).canceller) (heldFields s p) := by
  intro f hf
  rw [changeMode_cancelling hm hc]
  generalize enterMode m (getPos s p).call (getPos s p).canceller = c
  have hw := waiting_cancelSearches (p := p) (s := putCanceller s p c) ((heldFields_congr rfl p).trans hf)
  rwa [((leaves_self s p).putCanceller c).getPos_self] at hw

end

/-- Settles O37: a mode change puts one canceller, and cancels where that one leaves TRAINING or TRACKING. -/
theorem ecModeChangesTheState : Obligations.EcModeChangesTheState := by
  unfold Obligations.EcModeChangesTheState
  intro s p tag v h r zeroed
  refine ⟨fun hv => exec_ecMode_refused h tag (cancellerModeOfCode_none hv), fun m hm => ?_⟩
  have hv : cancellerModeOfCode v.toNat = some m := by
    obtain ⟨rfl, rfl⟩ | ⟨rfl, rfl⟩ | ⟨rfl, rfl⟩ := hm <;> rfl
  refine ⟨fun hsame => ?_, fun hother => ?_⟩
  · rw [exec_ecMode_taken h tag hv, changeMode_same hsame]
  · intro c
    have hc : c = enterMode m r.call r.canceller := by cases m <;> rfl
    obtain ⟨hb, hd⟩ := changeMode_leaves (s := s) (p := p) hother
    rw [hc]
    refine ⟨_, exec_ecMode_taken h tag hv, hb.trans ?_, changeMode_link hother,
      fun hrun => (changeMode_cancelled hother hrun).report, hd⟩
    unfold modeRecord
    cases heldFields s p <;> cases cancelling (getPos s p).canceller.state <;> rfl

/-! ## EC-FREEZE and WINDOW-SET -/

section
variable {s : State} {p : PosIx}

theorem exec_ecFreeze_awake (h : Awake s) (tag v : Byte) :
    exec (.ecFreeze (sourceByte p) tag v) s =
      .next (if 1 < v.toNat then sendReply ⟨0x99, sourceByte p, tag, .badValue, []⟩ s
        else sendReply ⟨0x99, sourceByte p, tag, .ok, []⟩
          (putPos s p { getPos s p with canceller := { (getPos s p).canceller with freeze := v.toNat == 1 } })) := by
  rw [exec_ecFreeze h.1, perform, ecFreezeCommand, onPosition_awake h.2, byteAt_cons_zero]
  split
  · rfl
  · rfl

theorem exec_windowSet_awake (h : Awake s) (tag : Byte) (lag : BitVec 16) :
    exec (.windowSet (sourceByte p) tag lag) s =
      .next (if cancelling (getPos s p).canceller.state = false then sendReply ⟨0x9B, sourceByte p, tag, .badState, []⟩ s
        else sendReply ⟨0x9B, sourceByte p, tag, if windowStart lag.toNat = lag.toNat then .ok else .clamped,
            [.num 2 (windowStart lag.toNat)]⟩
          (putPos s p { getPos s p with canceller := moveWindow (windowStart lag.toNat) (getPos s p).canceller })) := by
  have hlag : u16At (bytes16 lag) 0 = lag.toNat := by simp [u16At, byteAt, bytes16]
  rw [exec_windowSet h.1, perform, windowSetCommand, onPosition_awake h.2, hlag]
  split
  · rfl
  · rw [answered, ← okOrClamped_ne]
    rfl

/-- A window move in TRAINING or TRACKING (R70). -/
theorem moveWindow_cancelling {c : Canceller} (h : cancelling c.state = true) (d : Nat) :
    moveWindow d c = if d = c.window then c else { zeroedCanceller c with window := d, state := .training } := by
  unfold moveWindow
  by_cases hd : d = c.window
  · rw [if_pos hd, if_neg fun hn => hn.2 hd]
  · rw [if_neg hd, if_pos ⟨h, hd⟩]

end

/-- Settles O38, from what each command is where the link takes its frame at once. -/
theorem ecFreezeAndWindowSet : Obligations.EcFreezeAndWindowSet := by
  unfold Obligations.EcFreezeAndWindowSet
  intro s p tag h r
  refine ⟨fun on => ?_, fun v hv => ?_, fun lag => ?_⟩
  · rw [exec_ecFreeze_awake h]
    cases on <;> rfl
  · rw [exec_ecFreeze_awake h, if_pos hv]
  · intro d
    refine ⟨fun hc => ?_, fun hc => ?_⟩
    · have hrun : cancelling r.canceller.state = true := (cancelling_iff _).2 hc
      rw [exec_windowSet_awake h, if_neg (by rw [hrun]; decide), moveWindow_cancelling hrun]
      rfl
    · have hrun : cancelling r.canceller.state = false := by rwa [← Bool.not_eq_true, cancelling_iff]
      rw [exec_windowSet_awake h, if_pos hrun]

end Sys2Proof.Machine

/-! # The canceller's events (R61, R65 to R68, R81) -/

namespace Sys2Proof.Machine

/-! ## When a count is reached -/

theorem convergenceStep_converges_iff (conv : Nat) (c : Canceller) :
    (convergenceStep conv c).2 = true ↔ conv ≤ c.erle ∧ 24 ≤ c.convergence := by
  rw [convergenceStep_eq]
  split
  · simp; omega
  · split
    · simp; omega
    · simp; omega

theorem divergenceStep_diverges_iff (lest ly : Nat) (c : Canceller) :
    (divergenceStep lest ly c).2 = true ↔ ly + 8 ≤ lest ∧ 7 ≤ c.divergence := by
  rw [divergenceStep_eq]
  split
  · simp; omega
  · simp; omega

theorem lossStep_loses_iff (level : Nat) (c : Canceller) : (lossStep level c).2 = true ↔ c.erle < level ∧ 249 ≤ c.loss := by
  rw [lossStep_eq, decide_eq_true_eq]
  omega

theorem researchStep_ends_iff (seconds : Nat) (c : Canceller) :
    (researchStep seconds c).2 = true ↔ seconds ≠ 0 ∧ seconds * 250 ≤ c.research + 1 := by
  unfold researchStep
  split
  · simp [*]
  · split <;> simp [*]

section
variable {c : Canceller}

theorem convergenceStep_converged {conv : Nat} (h : (convergenceStep conv c).2 = true) :
    (convergenceStep conv c).1 = { zeroCounters c with state := .tracking } := by
  obtain ⟨he, hn⟩ := (convergenceStep_converges_iff conv c).1 h
  rw [convergenceStep_eq, if_neg (Nat.not_lt.2 he), if_neg (by omega)]

theorem divergenceStep_diverged {lest ly : Nat} (h : (divergenceStep lest ly c).2 = true) :
    (divergenceStep lest ly c).1 = { zeroedCanceller c with state := .training } := by
  obtain ⟨he, hn⟩ := (divergenceStep_diverges_iff lest ly c).1 h
  rw [divergenceStep_eq, if_pos ⟨he, by omega⟩]

theorem lossStep_lost {level : Nat} (h : (lossStep level c).2 = true) : (lossStep level c).1 = { c with loss := 0 } := by
  obtain ⟨-, hn⟩ := (lossStep_loses_iff level c).1 h
  rw [lossStep_eq, if_neg fun hl => by omega]

theorem researchStep_ended {seconds : Nat} (h : (researchStep seconds c).2 = true) :
    (researchStep seconds c).1 = { c with research := 0 } := by
  obtain ⟨h0, hn⟩ := (researchStep_ends_iff seconds c).1 h
  rw [researchStep, if_neg h0, if_pos hn]

end

/-! ## The events -/

section
variable (p : PosIx) (s : State)

/-- A slice of the position may adapt, as far as the state shows (R61). -/
def Adapting : Prop :=
  processes s p = true ∧ ((getPos s p).canceller.state = .training ∨ (getPos s p).canceller.state = .tracking) ∧
    s.period.netLocked = true ∧ (getPos s p).canceller.freeze = false ∧ (getPos s p).canceller.hangover = 0

theorem mayAdapt_iff : mayAdapt s p = true ↔ Adapting p s := by
  simp only [mayAdapt, Adapting, Bool.and_eq_true, cancelling_iff, Bool.not_eq_true', beq_iff_eq, and_assoc]

/-- A canceller's event and its report (R81). -/
theorem cancellerEvent_eq (ev : EchoEvent) (c : Canceller) :
    cancellerEvent p ev c s =
      raise (.echo p ev c.state c.window c.erle (getPos s p).lastSearch) (putPos s p { getPos s p with canceller := c }) := by
  simp only [cancellerEvent, echoReport, putCanceller, getPos_putPos, if_true]

theorem converge_due (ha : Adapting p s) (ht : (getPos s p).canceller.state = .training)
    (hn : (getPos s p).params.ecConv ≤ (getPos s p).canceller.erle ∧ 24 ≤ (getPos s p).canceller.convergence) :
    converge p s =
      let c := (getPos s p).canceller
      raise (.echo p .converged .tracking c.window c.erle (getPos s p).lastSearch)
        (putPos s p { getPos s p with canceller := { zeroCounters c with state := .tracking } }) := by
  have hx := (convergenceStep_converges_iff _ _).2 hn
  rw [converge]
  dsimp only
  rw [if_pos ⟨(mayAdapt_iff p s).2 ha, ht, hx⟩, convergenceStep_converged hx, cancellerEvent_eq]
  rfl

theorem converge_idle
    (h : ¬(Adapting p s ∧ (getPos s p).canceller.state = .training ∧
      (getPos s p).params.ecConv ≤ (getPos s p).canceller.erle ∧ 24 ≤ (getPos s p).canceller.convergence)) : converge p s = s :=
  if_neg fun ⟨ha, ht, hx⟩ => h ⟨(mayAdapt_iff p s).1 ha, ht, (convergenceStep_converges_iff _ _).1 hx⟩

theorem diverge_due {lest ly : Nat} (ha : Adapting p s) (hn : ly + 8 ≤ lest ∧ 7 ≤ (getPos s p).canceller.divergence) :
    diverge p lest ly s =
      let c := (getPos s p).canceller
      raise (.echo p .diverged .training c.window 0 (getPos s p).lastSearch)
        (putPos s p { getPos s p with canceller := { zeroedCanceller c with state := .training } }) := by
  have hx := (divergenceStep_diverges_iff lest ly (getPos s p).canceller).2 hn
  rw [diverge]
  dsimp only
  rw [if_pos ⟨(mayAdapt_iff p s).2 ha, hx⟩, divergenceStep_diverged hx, cancellerEvent_eq]
  rfl

theorem diverge_idle {lest ly : Nat} (h : ¬(Adapting p s ∧ ly + 8 ≤ lest ∧ 7 ≤ (getPos s p).canceller.divergence)) :
    diverge p lest ly s = s :=
  if_neg fun ⟨ha, hx⟩ => h ⟨(mayAdapt_iff p s).1 ha, (divergenceStep_diverges_iff _ _ _).1 hx⟩

theorem loseErle_due (ha : Adapting p s) (ht : (getPos s p).canceller.state = .tracking)
    (hn : (getPos s p).canceller.erle < (getPos s p).params.ecLoss ∧ 249 ≤ (getPos s p).canceller.loss) :
    loseErle p s =
      let t := putPos s p { getPos s p with canceller := { (getPos s p).canceller with loss := 0 } }
      if (getPos s p).params.ecAutoSearch = 1 then (placeRequest p autoShort t).1 else t := by
  have hx := (lossStep_loses_iff _ _).2 hn
  rw [loseErle]
  dsimp only
  rw [if_pos ⟨(mayAdapt_iff p s).2 ha, ht, hx⟩, lossStep_lost hx]
  rfl

theorem loseErle_idle
    (h : ¬(Adapting p s ∧ (getPos s p).canceller.state = .tracking ∧
      (getPos s p).canceller.erle < (getPos s p).params.ecLoss ∧ 249 ≤ (getPos s p).canceller.loss)) : loseErle p s = s :=
  if_neg fun ⟨ha, ht, hx⟩ => h ⟨(mayAdapt_iff p s).1 ha, ht, (lossStep_loses_iff _ _).1 hx⟩

theorem expireResearch_due (hp : processes s p = true) (ht : (getPos s p).canceller.state = .tracking)
    (hn : (getPos s p).params.ecResearch ≠ 0 ∧ (getPos s p).params.ecResearch * 250 ≤ (getPos s p).canceller.research + 1) :
    expireResearch p s =
      (placeRequest p autoShort (putPos s p { getPos s p with canceller := { (getPos s p).canceller with research := 0 } })).1 := by
  have hx := (researchStep_ends_iff _ _).2 hn
  rw [expireResearch]
  dsimp only
  rw [if_pos ⟨hp, ht, hx⟩, researchStep_ended hx]
  rfl

theorem expireResearch_idle
    (h : ¬(processes s p = true ∧ (getPos s p).canceller.state = .tracking ∧ (getPos s p).params.ecResearch ≠ 0 ∧
      (getPos s p).params.ecResearch * 250 ≤ (getPos s p).canceller.research + 1)) : expireResearch p s = s :=
  if_neg fun ⟨hp, ht, hx⟩ => h ⟨hp, ht, (researchStep_ends_iff _ _).1 hx⟩

end

/-- Settles O57: each event acts exactly where its counter's step reports that the count is reached. -/
theorem cancellerEvents : Obligations.CancellerEvents := by
  unfold Obligations.CancellerEvents
  intro s p r c adapting request converged diverged lost searched dueConverged dueLost dueResearch
  refine ⟨fun ⟨ha, ht, hn⟩ => ?_, fun h => ?_, fun lest ly => ⟨fun ⟨ha, hn⟩ => ?_, fun h => ?_⟩, fun ⟨ha, ht, hn⟩ => ?_,
    fun h => ?_, fun ⟨hp, ht, hn⟩ => ?_, fun h => ?_⟩
  · exact congrArg Host.Outcome.next (converge_due p s ha ht hn)
  · exact congrArg Host.Outcome.next (converge_idle p s h)
  · exact congrArg Host.Outcome.next (diverge_due p s ha hn)
  · exact congrArg Host.Outcome.next (diverge_idle p s h)
  · exact congrArg Host.Outcome.next (loseErle_due p s ha ht hn)
  · exact congrArg Host.Outcome.next (loseErle_idle p s h)
  · exact congrArg Host.Outcome.next (expireResearch_due p s hp ht hn)
  · exact congrArg Host.Outcome.next (expireResearch_idle p s h)

end Sys2Proof.Machine

/-! # A canceller within its ranges (R54, R55, R60 to R68, R70, R73, R74) -/

namespace Sys2Proof.Machine

/-! ## The comfort-noise register (R74) -/

/-- The register never becomes 0: the feedback sets its top bit, and a shift alone drops a 0. -/
theorem noiseStep_ne_zero {r : BitVec 16} (h : r ≠ 0) : noiseStep r ≠ 0 := by
  unfold noiseStep
  intro he
  split at he
  · have htop := congrArg (fun x : BitVec 16 => x.getLsbD 15) he
    simp at htop
  · rename_i hlow
    refine h (BitVec.eq_of_getLsbD_eq fun i hi => ?_)
    cases i with
    | zero => simpa using hlow
    | succ i =>
      have hbit := congrArg (fun x : BitVec 16 => x.getLsbD i) he
      simpa [Nat.add_comm] using hbit

theorem noiseRun_ne_zero (n : Nat) : ∀ {r : BitVec 16}, r ≠ 0 → (noiseRun n r).2 ≠ 0 := by
  induction n with
  | zero => exact fun h => h
  | succ n ih => exact fun h => ih (noiseStep_ne_zero h)

/-! ## Samples, the history and the coefficients (R22, R54, R55, R57, R58) -/

theorem saturate_bounds (v : Int) : -32768 ≤ saturate v ∧ saturate v ≤ 32767 := by
  unfold saturate clampInt
  omega

theorem updateCoeff_bounds (mu e power h x : Int) :
    -2147483648 ≤ updateCoeff mu e power h x ∧ updateCoeff mu e power h x ≤ 2147483647 := by
  unfold updateCoeff clampInt
  omega

/-- A slice of samples has a level of at most 120 (R28). -/
theorem levelIndex_le {xs : List Int} (hl : xs.length = 64) (h : ∀ x ∈ xs, -32768 ≤ x ∧ x ≤ 32767) :
    levelIndex xs ≤ 120 := by
  have he : energySum xs ≤ xs.length * 2 ^ 30 := energySum_le fun x hx => by
    have hb := h x hx
    omega
  rw [hl] at he
  exact levelOfEnergy_le (Nat.div_le_of_le_mul he)

theorem historyOk_zero : HistoryOk zeroHistory :=
  ⟨List.length_replicate .., fun x hx => by rw [List.eq_of_mem_replicate hx]; decide⟩

theorem coeffsOk_zero : CoeffsOk zeroCoeffs :=
  ⟨List.length_replicate .., fun x hx => by rw [List.eq_of_mem_replicate hx]; decide⟩

theorem coeffsOk_update {mu e : Int} {coeffs taps : List Int} (h : CoeffsOk coeffs) (ht : taps.length = 256) :
    CoeffsOk (updateCoeffs mu e coeffs taps) := by
  refine ⟨by rw [updateCoeffs, List.length_zipWith, h.1, ht, Nat.min_self], fun x hx => ?_⟩
  obtain ⟨i, hi, rfl⟩ := List.getElem_of_mem hx
  simp only [updateCoeffs, List.getElem_zipWith]
  exact updateCoeff_bounds ..

/-- The samples of a slice leave as many errors, each a sample, and coefficients within their ranges (R56 part 2). -/
theorem cancelSamples_bounds (mu : Int) (adapting : Bool) {history : List Int} {d : Nat} (hh : history.length = 2112)
    (hd : d ≤ 1792) (ys : List Int) : ∀ (j : Nat) (coeffs : List Int), j + ys.length = 64 → CoeffsOk coeffs →
      (cancelSamples mu adapting history d j ys coeffs).2.1.length = ys.length ∧
      (∀ e ∈ (cancelSamples mu adapting history d j ys coeffs).2.1, -32768 ≤ e ∧ e ≤ 32767) ∧
      CoeffsOk (cancelSamples mu adapting history d j ys coeffs).2.2 := by
  induction ys with
  | nil => exact fun j coeffs _ hc => ⟨rfl, fun e he => (nomatch he), hc⟩
  | cons y ys ih =>
    intro j coeffs hj hc
    rw [List.length_cons] at hj
    have ht : (tapsAt history d j).length = 256 := by
      rw [tapsAt_eq history d j hh hd (by omega), List.length_map, List.length_range]
    rw [cancelSamples]
    dsimp only
    generalize hm : (if adapting = true then _ else coeffs) = moved
    have hmoved : CoeffsOk moved := by
      rw [← hm]
      split
      · exact coeffsOk_update hc ht
      · exact hc
    obtain ⟨hlen, herr, hco⟩ := ih (j + 1) moved (by omega) hmoved
    exact ⟨congrArg (· + 1) hlen, List.forall_mem_cons.2 ⟨saturate_bounds _, herr⟩, hco⟩

/-! ## The record (R55, R60 to R68, R70, R73) -/

/-- What the ranges of a canceller say apart from its mode and the call. -/
def CancellerWithin (c : Canceller) : Prop :=
  c.window % 16 = 0 ∧ c.window ≤ 1792 ∧ (c.state = .off ∨ c.state = .standby → c.coeffs = zeroCoeffs) ∧
    HistoryOk c.history ∧ CoeffsOk c.coeffs ∧ CancellerCountsOk c ∧ TrackerOk c.floor ∧ c.noise ≠ 0

/-- A canceller in TRAINING or TRACKING, within its ranges. -/
def CancellerRuns (c : Canceller) : Prop := c.mode = .on ∧ cancelling c.state = true ∧ CancellerWithin c

theorem cancellerOk_iff (r : Position) :
    CancellerOk r ↔ stateFits r.call r.canceller = true ∧ CancellerWithin r.canceller := Iff.rfl

section
variable {c : Canceller}

theorem CancellerWithin.coeffs (h : CancellerWithin c) : CoeffsOk c.coeffs := by
  obtain ⟨-, -, -, -, hco, -⟩ := h
  exact hco

theorem CancellerWithin.counts (h : CancellerWithin c) : CancellerCountsOk c := by
  obtain ⟨-, -, -, -, -, hcounts, -⟩ := h
  exact hcounts

theorem CancellerWithin.floor (h : CancellerWithin c) : TrackerOk c.floor := by
  obtain ⟨-, -, -, -, -, -, hf, -⟩ := h
  exact hf

theorem CancellerWithin.noise (h : CancellerWithin c) : c.noise ≠ 0 := by
  obtain ⟨-, -, -, -, -, -, -, hn⟩ := h
  exact hn

end

/-- Only mode ON reads the call (R63). -/
theorem stateFits_other {c : Canceller} (hm : c.mode ≠ .on) (call call' : CallState) : stateFits call c = stateFits call' c := by
  unfold stateFits
  split
  · rfl
  · rfl
  · rename_i hon
    exact absurd hon hm

/-- TRAINING and TRACKING are states of mode ON in a call (R63). -/
theorem stateFits_cancelling {call : CallState} {c : Canceller} (hc : cancelling c.state = true) :
    stateFits call c = true ↔ c.mode = .on ∧ callPresent call = true := by
  unfold stateFits
  cases hm : c.mode with
  | off | bypass =>
    simp only [decide_eq_true_eq, reduceCtorEq, false_and, iff_false]
    intro hs
    rw [hs] at hc
    cases hc
  | on =>
    cases callPresent call with
    | true => simpa using hc
    | false =>
      simp only [Bool.false_eq_true, if_false, decide_eq_true_eq, and_false, iff_false]
      intro hs
      rw [hs] at hc
      cases hc

theorem CancellerOk.runs {r : Position} (h : CancellerOk r) (hc : cancelling r.canceller.state = true) :
    callPresent r.call = true ∧ CancellerRuns r.canceller := by
  obtain ⟨hf, hw⟩ := (cancellerOk_iff r).1 h
  obtain ⟨hm, hp⟩ := (stateFits_cancelling hc).1 hf
  exact ⟨hp, hm, hc, hw⟩

theorem cancellerOk_of_runs {r : Position} (hp : callPresent r.call = true) (h : CancellerRuns r.canceller) : CancellerOk r := by
  obtain ⟨hm, hc, hw⟩ := h
  exact (cancellerOk_iff r).2 ⟨(stateFits_cancelling hc).2 ⟨hm, hp⟩, hw⟩

theorem windowStart_within (lag : Nat) : windowStart lag % 16 = 0 ∧ windowStart lag ≤ 1792 := by
  unfold windowStart
  omega

section
variable {c : Canceller}

theorem within_counts (h : CancellerWithin c) {erle hangover convergence divergence loss research : Nat}
    (hc : erle ≤ 60 ∧ hangover ≤ 250 ∧ convergence ≤ 24 ∧ divergence ≤ 7 ∧ loss ≤ 249 ∧ research ≤ 62499) :
    CancellerWithin { c with
      erle := erle, hangover := hangover, convergence := convergence, divergence := divergence, loss := loss
      research := research } := by
  obtain ⟨hd16, hd, hz, hh, hco, -, hrest⟩ := h
  exact ⟨hd16, hd, hz, hh, hco, hc, hrest⟩

theorem counts_zero : 0 ≤ 60 ∧ 0 ≤ 250 ∧ 0 ≤ 24 ∧ 0 ≤ 7 ∧ 0 ≤ 249 ∧ 0 ≤ 62499 := by decide

/-- A zeroed canceller may be in any mode and state. -/
theorem within_zeroed (h : CancellerWithin c) (m : CancellerMode) (st : CancellerState) :
    CancellerWithin { zeroedCanceller c with mode := m, state := st } := by
  obtain ⟨hd16, hd, -, hh, -, -, hrest⟩ := h
  exact ⟨hd16, hd, fun _ => rfl, hh, coeffsOk_zero, counts_zero, hrest⟩

/-- A canceller in another mode and state that need no zero coefficients. -/
theorem within_state (h : CancellerWithin c) (m : CancellerMode) {st : CancellerState} (hs : st ≠ .off ∧ st ≠ .standby) :
    CancellerWithin { c with mode := m, state := st } := by
  obtain ⟨hd16, hd, -, hrest⟩ := h
  exact ⟨hd16, hd, fun ho => ho.elim (fun e => absurd e hs.1) fun e => absurd e hs.2, hrest⟩

theorem within_window (h : CancellerWithin c) (lag : Nat) : CancellerWithin { c with window := windowStart lag } := by
  obtain ⟨-, -, hrest⟩ := h
  exact ⟨(windowStart_within lag).1, (windowStart_within lag).2, hrest⟩

theorem within_history (h : CancellerWithin c) {x : List Int} (hx : HistoryOk x) : CancellerWithin { c with history := x } := by
  obtain ⟨hd16, hd, hz, -, hrest⟩ := h
  exact ⟨hd16, hd, hz, hx, hrest⟩

theorem within_floor (h : CancellerWithin c) {x : Tracker} (hx : TrackerOk x) : CancellerWithin { c with floor := x } := by
  obtain ⟨hd16, hd, hz, hh, hco, hcounts, -, hn⟩ := h
  exact ⟨hd16, hd, hz, hh, hco, hcounts, hx, hn⟩

theorem within_noise (h : CancellerWithin c) {x : BitVec 16} (hx : x ≠ 0) : CancellerWithin { c with noise := x } := by
  obtain ⟨hd16, hd, hz, hh, hco, hcounts, hf, -⟩ := h
  exact ⟨hd16, hd, hz, hh, hco, hcounts, hf, hx⟩

end

end Sys2Proof.Machine

/-! # What the parts of the canceller keep (R6, R10, R56, R60 to R70, R77) -/

namespace Sys2Proof.Machine

/-! ## State changes (R6, R10, R70, R77) -/

theorem within_moveWindow {c : Canceller} (h : CancellerWithin c) (lag : Nat) :
    CancellerWithin (moveWindow (windowStart lag) c) := by
  unfold moveWindow
  split
  · exact within_window (within_zeroed h c.mode .training) lag
  · exact h

/-- A window move leaves a canceller that runs running, and does nothing to another (R70). -/
theorem stateFits_moveWindow (call : CallState) (d : Nat) (c : Canceller) : stateFits call (moveWindow d c) = stateFits call c := by
  unfold moveWindow
  split
  · rename_i h
    have ht : stateFits call { zeroedCanceller c with window := d, state := .training } = true ↔ stateFits call c = true := by
      rw [stateFits_cancelling h.1, stateFits_cancelling (by rfl)]
      rfl
    exact Bool.eq_iff_iff.2 ht
  · rfl

theorem cancellerOk_moveWindow {r : Position} (h : CancellerOk r) (lag : Nat) :
    CancellerOk { r with canceller := moveWindow (windowStart lag) r.canceller } := by
  obtain ⟨hf, hw⟩ := (cancellerOk_iff r).1 h
  exact (cancellerOk_iff _).2 ⟨(stateFits_moveWindow ..).trans hf, within_moveWindow hw lag⟩

/-- EC-MODE brings the state that fits the new mode (R63, R77). -/
theorem cancellerOk_enterMode {r : Position} (h : CancellerOk r) (m : CancellerMode) :
    CancellerOk { r with canceller := enterMode m r.call r.canceller } := by
  obtain ⟨-, hw⟩ := (cancellerOk_iff r).1 h
  cases m with
  | off => exact (cancellerOk_iff _).2 ⟨rfl, within_zeroed hw .off .off⟩
  | bypass => exact (cancellerOk_iff _).2 ⟨rfl, within_state hw .bypass (by decide)⟩
  | on =>
    rw [enterMode]
    by_cases hc : callPresent r.call = true
    · rw [if_pos hc]
      exact cancellerOk_of_runs hc ⟨rfl, rfl, within_counts (within_state hw .on (by decide)) counts_zero⟩
    · rw [if_neg hc]
      exact (cancellerOk_iff _).2 ⟨by simp [stateFits, hc], within_zeroed hw .on .standby⟩

/-- A call that ends leaves a canceller that waits in STANDBY in mode ON, and as it was in another mode (R10, R64). -/
theorem cancellerOk_endCall {r r' : Position} (h : CancellerOk r) (hp : callPresent r'.call = false)
    (hc : r'.canceller = endCallCanceller r.canceller) : CancellerOk r' := by
  obtain ⟨hf, hw⟩ := (cancellerOk_iff r).1 h
  rw [cancellerOk_iff, hc]
  unfold endCallCanceller
  split
  · rename_i hm
    exact ⟨by simp [stateFits, hp, hm, zeroedCanceller, zeroCounters], within_zeroed hw r.canceller.mode .standby⟩
  · rename_i hm
    exact ⟨(stateFits_other hm r'.call r.call).trans hf, hw⟩

/-- A call that begins trains a canceller in mode ON, and leaves one of another mode in its state (R6). -/
theorem cancellerOk_prepare {r r' : Position} (h : CancellerOk r) (hp : callPresent r'.call = true) (hint : Option Nat)
    (hc : r'.canceller = prepareCanceller hint r.canceller) : CancellerOk r' := by
  obtain ⟨hf, hw⟩ := (cancellerOk_iff r).1 h
  have hcleared := within_history hw historyOk_zero
  rw [cancellerOk_iff, hc]
  unfold prepareCanceller
  dsimp only
  split
  · rename_i hm
    refine ⟨by simp [stateFits, hp, hm, zeroedCanceller, zeroCounters, cancelling], ?_⟩
    exact within_floor (within_window (within_zeroed hcleared r.canceller.mode .training) (hint.getD 0))
      ⟨Nat.le_refl 120, Nat.zero_le _⟩
  · rename_i hm
    exact ⟨(stateFits_other hm r'.call r.call).trans hf, hcleared⟩

/-! ## The counters of a slice (R62, R65 to R68) -/

section
variable {c : Canceller}

theorem runs_erle (h : CancellerRuns c) (ly le : Nat) : CancellerRuns { c with erle := erleStep ly le c.erle } := by
  obtain ⟨hm, hc, hw⟩ := h
  obtain ⟨he, hrest⟩ := hw.counts
  exact ⟨hm, hc, within_counts hw ⟨stepTowards_le he (Nat.min_le_right _ _), hrest⟩⟩

theorem runs_divergence (h : CancellerRuns c) (lest ly : Nat) : CancellerRuns (divergenceStep lest ly c).1 := by
  obtain ⟨hm, hc, hw⟩ := h
  obtain ⟨he, hh, hcv, -, hrest⟩ := hw.counts
  rw [divergenceStep_eq]
  split
  · exact ⟨hm, rfl, within_zeroed hw c.mode .training⟩
  · refine ⟨hm, hc, within_counts hw ⟨he, hh, hcv, ?_, hrest⟩⟩
    split <;> omega

theorem runs_convergence (h : CancellerRuns c) (conv : Nat) : CancellerRuns (convergenceStep conv c).1 := by
  obtain ⟨hm, hc, hw⟩ := h
  obtain ⟨he, hh, -, hrest⟩ := hw.counts
  rw [convergenceStep_eq]
  split
  · exact ⟨hm, hc, within_counts hw ⟨he, hh, Nat.zero_le _, hrest⟩⟩
  · split
    · exact ⟨hm, hc, within_counts hw ⟨he, hh, by omega, hrest⟩⟩
    · have hz : CancellerWithin (zeroCounters c) :=
        within_counts hw ⟨he, hh, by decide⟩
      exact ⟨hm, rfl, within_state hz c.mode (by decide)⟩

theorem runs_loss (h : CancellerRuns c) (level : Nat) : CancellerRuns (lossStep level c).1 := by
  obtain ⟨hm, hc, hw⟩ := h
  obtain ⟨he, hh, hcv, hdv, -, hr⟩ := hw.counts
  rw [lossStep_eq]
  refine ⟨hm, hc, within_counts hw ⟨he, hh, hcv, hdv, ?_, hr⟩⟩
  split <;> omega

theorem runs_research (h : CancellerRuns c) {seconds : Nat} (hs : seconds ≤ 250) : CancellerRuns (researchStep seconds c).1 := by
  obtain ⟨hm, hc, hw⟩ := h
  obtain ⟨he, hh, hcv, hdv, hl, -⟩ := hw.counts
  have hcount : ∀ n, n ≤ 62499 → CancellerRuns { c with research := n } := fun n hn =>
    ⟨hm, hc, within_counts hw ⟨he, hh, hcv, hdv, hl, hn⟩⟩
  unfold researchStep
  split
  · exact hcount 0 (Nat.zero_le _)
  · split
    · exact hcount 0 (Nat.zero_le _)
    · exact hcount _ (by omega)

theorem runs_hangover (h : CancellerRuns c) {hang : Nat} (hh : hang ≤ 250) : CancellerRuns { c with hangover := hang } := by
  obtain ⟨hm, hc, hw⟩ := h
  obtain ⟨he, -, hrest⟩ := hw.counts
  exact ⟨hm, hc, within_counts hw ⟨he, hh, hrest⟩⟩

theorem runs_coeffs (h : CancellerRuns c) {x : List Int} (hx : CoeffsOk x) : CancellerRuns { c with coeffs := x } := by
  obtain ⟨hm, hc, hd16, hd, -, hh, -, hrest⟩ := h
  refine ⟨hm, hc, hd16, hd, fun hs => ?_, hh, hx, hrest⟩
  rcases hs with hs | hs <;> rw [hs] at hc <;> cases hc

theorem runs_floor (h : CancellerRuns c) {rise l : Nat} (hr : rise ≤ 250) (hl : l ≤ 120) :
    CancellerRuns { c with floor := trackerStep rise l c.floor } := by
  obtain ⟨hm, hc, hw⟩ := h
  exact ⟨hm, hc, within_floor hw (trackerOk_step hw.floor hr hl)⟩

theorem runs_noise (h : CancellerRuns c) (n : Nat) : CancellerRuns { c with noise := (noiseRun n c.noise).2 } := by
  obtain ⟨hm, hc, hw⟩ := h
  exact ⟨hm, hc, within_noise hw (noiseRun_ne_zero n hw.noise)⟩

theorem doubleTalkHangover_le {hang n : Nat} (hh : hang ≤ 250) (hn : n ≤ 250) (detected : Bool) :
    doubleTalkHangover hang detected n ≤ 250 := by
  unfold doubleTalkHangover
  split
  · exact hh
  · omega

/-! ## Stage 4 (R56) -/

theorem runs_finishResearch {t : PosParams} (ht : ParamsOk t) (was : Bool) {x : CancellerSlice} (h : CancellerRuns x.canceller) :
    CancellerRuns (finishResearch t was x).canceller := by
  unfold finishResearch
  split
  · exact runs_research h (ht.le_max .ecResearch)
  · exact h

theorem runs_adaptingCounters (h : CancellerRuns c) (t : PosParams) (ly le lest : Nat) (caller : List Int) :
    CancellerRuns (adaptingCounters t ly le lest caller c).canceller := by
  have hd := runs_divergence (runs_erle h ly le) lest ly
  unfold adaptingCounters
  dsimp only
  split
  · exact hd
  · split
    · exact runs_convergence hd t.ecConv
    · exact runs_loss hd t.ecLoss

theorem runs_cancelSlice {t : PosParams} (ht : ParamsOk t) (h : CancellerRuns c) (active : Bool) {ys : List Int}
    (hy : ys.length = 64) : CancellerRuns (cancelSlice t active ys c).canceller := by
  obtain ⟨-, -, hw⟩ := id h
  obtain ⟨-, hd, -, ⟨hlen, -⟩, -⟩ := id hw
  obtain ⟨-, hh, -⟩ := hw.counts
  refine runs_finishResearch ht _ ?_
  generalize (if c.state = .training then t.ecMuTrain else t.ecMuTrack : Nat) = mu
  generalize doubleTalk (peakMagnitude ys) (peakMagnitude (tapSpan c.history c.window)) = talk
  generalize (quietReference active talk (doubleTalkHangover t.ecDtHang talk c.hangover) && !c.freeze) = adapting
  obtain ⟨hel, hes, hcs⟩ := cancelSamples_bounds mu adapting hlen hd ys 0 c.coeffs (by omega) hw.coeffs
  have hhang := runs_hangover h (doubleTalkHangover_le (ht.le_max .ecDtHang) hh talk)
  have hafter := runs_noise (runs_floor (runs_coeffs hhang hcs) (ht.le_max .floorRise) (levelIndex_le (hel.trans hy) hes)) 64
  split
  · exact runs_adaptingCounters hafter ..
  · exact hafter

/-- Stage 4 leaves a canceller that runs running, and any other as it is (R56, R71). -/
theorem cancellerOk_stage {r : Position} (ht : ParamsOk r.params) (h : CancellerOk { r with canceller := c }) (locked active : Bool)
    {ys : List Int} (hy : ys.length = 64) :
    CancellerOk { r with canceller := (cancellerStage r.params locked active ys c).canceller } := by
  unfold cancellerStage
  split
  · rename_i hc
    obtain ⟨hp, hr⟩ := h.runs hc
    obtain ⟨-, -, hw⟩ := id hr
    obtain ⟨-, hh, -⟩ := hw.counts
    refine cancellerOk_of_runs hp ?_
    dsimp only
    split
    · exact runs_cancelSlice ht hr active hy
    · have hhang := runs_hangover hr (doubleTalkHangover_le (ht.le_max .ecDtHang) hh false)
      exact runs_finishResearch ht _ (runs_noise hhang 64)
  · exact h

end

end Sys2Proof.Machine

/-! # What leaves a position's parameters, its call and its canceller -/

namespace Sys2Proof.Machine

/-- What the ranges of a canceller speak of: the parameters, whether a call is present, and the canceller. -/
def cancellerView (r : Position) : PosParams × Bool × Canceller := (r.params, callPresent r.call, r.canceller)

/-- Two states whose cancellers, parameters and calls are the same. -/
structure SameCancellers (s t : State) : Prop where
  view : ∀ p, cancellerView (getPos t p) = cancellerView (getPos s p)

section
variable {s t u : State} {p : PosIx} {w : PlayerId} {r : Position} {e : Engine}

theorem SameCancellers.rfl : SameCancellers s s := ⟨fun _ => Eq.refl _⟩

theorem SameCancellers.trans (h : SameCancellers s t) (g : SameCancellers t u) : SameCancellers s u :=
  ⟨fun p => (g.view p).trans (h.view p)⟩

theorem SameCancellers.ite {c : Prop} [Decidable c] (h : SameCancellers s t) (g : SameCancellers s u) :
    SameCancellers s (if c then t else u) := by
  split
  · exact h
  · exact g

theorem SameCancellers.of_positions (h : t.positions = s.positions) : SameCancellers s t :=
  ⟨fun p => by rw [getPos, getPos, h]⟩

theorem SameCancellers.of_bare (h : bare t = bare s) : SameCancellers s t := .of_positions (positions_of_bare h)

theorem SameCancellers.of_portless (h : portless t = portless s) : SameCancellers s t := .of_positions (positions_of_portless h)

theorem SameCancellers.of_storeless (h : storeless t = storeless s) : SameCancellers s t := .of_positions (positions_of_storeless h)

theorem sameCancellers_putPos (h : cancellerView r = cancellerView (getPos s p)) : SameCancellers s (putPos s p r) := by
  refine ⟨fun q => ?_⟩
  rw [getPos_putPos]
  split
  · rename_i hq
    rw [h, hq]
  · rfl

theorem SameCancellers.of_leaves (h : Leaves s p r e u) (hr : cancellerView r = cancellerView (getPos s p)) : SameCancellers s u :=
  have hput : SameCancellers s (putPos s p r) := sameCancellers_putPos hr
  (hput.trans (t := putPos s p r) (u := putEngine (putPos s p r) e) (.of_positions (Eq.refl _))).trans (.of_bare h.1)

theorem sameCancellers_raiseAll (bs : List ReportBody) (s : State) : SameCancellers s (raiseAll bs s) :=
  .of_bare (bare_raiseAll bs s)

/-! ## Players and tones -/

theorem sameCancellers_player {pl : Player} (h : bare t = bare (putPlayer s p w pl)) : SameCancellers s t := by
  have hp : SameCancellers s (putPlayer s p w pl) := sameCancellers_putPos (by cases w <;> rfl)
  exact hp.trans (.of_bare h)

theorem sameCancellers_endCurrent (p : PosIx) (w : PlayerId) (reason : LeaveReason) (s : State) :
    SameCancellers s (endCurrent p w reason s) := by
  have hb := bare_endCurrent p w reason s
  split at hb
  · exact sameCancellers_player hb
  · exact .of_bare hb

theorem sameCancellers_dropLists (p : PosIx) (w : PlayerId) (reason : LeaveReason) (sel : Item → Bool) (s : State) :
    SameCancellers s (dropLists p w reason sel s) := sameCancellers_player (bare_dropLists p w reason sel s)

theorem sameCancellers_clearPlayer (p : PosIx) (w : PlayerId) (reason : LeaveReason) (s : State) :
    SameCancellers s (clearPlayer p w reason s) := (sameCancellers_dropLists ..).trans (sameCancellers_endCurrent ..)

theorem sameCancellers_playItem (p : PosIx) (w : PlayerId) (m : PlayMode) (it : Item) (s : State) :
    SameCancellers s (playItem p w m it s) := by
  cases m with
  | now => exact sameCancellers_player (bare_playNowItem p w it s)
  | interrupt => exact sameCancellers_player (bare_playInterruptItem p w it s)
  | next => exact sameCancellers_player (bare_playNextItem p w it s)
  | only => exact sameCancellers_player (bare_playOnlyItem p w it s)

theorem sameCancellers_clearTone (p : PosIx) (s : State) : SameCancellers s (clearTone p s) :=
  .of_leaves (leaves_self s p).clearTone (Eq.refl _)

/-- A change of the call state in which a call stays, or stays away. -/
theorem sameCancellers_setCall {call : CallState} (h : callPresent call = callPresent (getPos s p).call) :
    SameCancellers s (setCall p call s) := sameCancellers_putPos (by rw [cancellerView, h]; rfl)

/-- A whisper done leaves the call connected (R7). -/
theorem sameCancellers_whisperCheck (p : PosIx) (was : Bool) (s : State) : SameCancellers s (whisperCheck p was s) := by
  unfold whisperCheck
  split
  · rename_i h
    obtain ⟨-, hc, -⟩ := h
    have hcall : SameCancellers s (setCall p .connected s) := sameCancellers_setCall (by rw [hc]; rfl)
    exact (hcall.trans (sameCancellers_clearPlayer ..)).trans (.of_bare (bare_raise _ _))
  · exact .rfl

theorem sameCancellers_closeStream (i : StreamIx) (s : State) : SameCancellers s (closeStream i s) := by
  have hgive : ∀ p w t, SameCancellers t (giveUpStream i p w t) := fun p w t =>
    .ite ((sameCancellers_dropLists ..).trans (sameCancellers_endCurrent ..)) (sameCancellers_dropLists ..)
  have hgiven := foldl_keeps (P := SameCancellers s) (fun t x ht => ht.trans (hgive x.1 x.2 t)) (streamHolders i s) s .rfl
  have hwhispered : SameCancellers s
      (closeWhispers (streamHolders i s) s ((streamHolders i s).foldl (fun t x => giveUpStream i x.1 x.2 t) s)) :=
    foldl_keeps (P := SameCancellers s) (fun t x ht => .ite (ht.trans (sameCancellers_whisperCheck ..)) ht) _ _ hgiven
  exact hwhispered.trans (.of_positions (Eq.refl _))

/-! ## Requests and cancellations -/

theorem sameCancellers_putEngine (e : Engine) : SameCancellers s (putEngine s e) := .of_positions (Eq.refl _)

theorem sameCancellers_placeRequest (p : PosIx) (q : SearchRequest) (s : State) : SameCancellers s (placeRequest p q s).1 := by
  rw [placeRequest_eq]
  exact sameCancellers_putEngine _

theorem sameCancellers_startHead (s : State) : SameCancellers s (startHead s) := by
  rw [startHead_eq]
  exact sameCancellers_putEngine _

theorem sameCancellers_cancelSearches (p : PosIx) (s : State) : SameCancellers s (cancelSearches p s) :=
  .of_leaves (leaves_self s p).cancelSearches (Eq.refl _)

end

/-! # What every command and every event keeps of the cancellers (R54, R55, R60 to R68, R73, R74) -/

/-! ## Cancellers within their ranges -/

/-- A position's parameters and its canceller are in range. -/
def CancellerFits (r : Position) : Prop := ParamsOk r.params ∧ CancellerOk r

/-- Every position's parameters and canceller are in range. -/
def CancellersHold (s : State) : Prop := ∀ p, CancellerFits (getPos s p)

theorem cancellerFits_congr {x y : Position} (h : cancellerView x = cancellerView y) (hy : CancellerFits y) : CancellerFits x := by
  simp only [cancellerView, Prod.mk.injEq] at h
  obtain ⟨ht, hp, hc⟩ := h
  have hf : stateFits x.call x.canceller = stateFits y.call y.canceller := by rw [stateFits, stateFits, hp, hc]
  rw [CancellerFits, cancellerOk_iff, ht, hf, hc]
  exact hy

theorem cancellerFits_reset (p : PosIx) : CancellerFits (positionAtReset p) := by
  have hseed : (cancellerAtReset p).noise ≠ 0 := by revert p; decide
  refine ⟨paramsOk_default, (cancellerOk_iff _).2 ⟨rfl, rfl, Nat.zero_le _, fun _ => rfl, historyOk_zero, coeffsOk_zero, ?_,
    ⟨Nat.le_refl 120, Nat.zero_le _⟩, hseed⟩⟩
  simp [CancellerCountsOk, positionAtReset, cancellerAtReset]

section
variable {s t u : State} {p : PosIx} {r : Position} {e : Engine}

theorem CancellersHold.same (h : CancellersHold s) (hs : SameCancellers s t) : CancellersHold t := fun p =>
  cancellerFits_congr (hs.view p) (h p)

theorem CancellersHold.ite {c : Prop} [Decidable c] (h : CancellersHold s) (g : CancellersHold t) :
    CancellersHold (if c then s else t) := by
  split
  · exact h
  · exact g

theorem CancellersHold.putPos (h : CancellersHold s) (hr : CancellerFits r) : CancellersHold (putPos s p r) := by
  intro q
  rw [getPos_putPos]
  split
  · exact hr
  · exact h q

theorem CancellersHold.putCanceller (h : CancellersHold s) {c : Canceller} (hc : CancellerOk { getPos s p with canceller := c }) :
    CancellersHold (putCanceller s p c) := h.putPos ⟨(h p).1, hc⟩

/-- A canceller that runs becomes another one that runs. -/
theorem CancellersHold.runs (h : CancellersHold s) (hc : cancelling (getPos s p).canceller.state = true) {c : Canceller}
    (hr : CancellerRuns (getPos s p).canceller → CancellerRuns c) : CancellersHold (Machine.putCanceller s p c) := by
  obtain ⟨hp, hruns⟩ := (h p).2.runs hc
  exact h.putCanceller (cancellerOk_of_runs hp (hr hruns))

/-! ## Calls and resets -/

/-- CALL-CLEAR ends the call and with it the canceller's training, and leaves the other positions (R10). -/
theorem cancellerView_clearCall (p : PosIx) (s : State) (q : PosIx) :
    cancellerView (getPos (clearCall p s) q) =
      if p = q then ((getPos s p).params, false, endCallCanceller (getPos s p).canceller) else cancellerView (getPos s q) := by
  have hquiet : SameCancellers (setCall p .ready s) (clearCallTone p (playersCleared p s)) :=
    ((sameCancellers_clearPlayer ..).trans (sameCancellers_clearPlayer ..)).trans (.ite (sameCancellers_clearTone ..) .rfl)
  rw [clearCall_eq, (sameCancellers_cancelSearches p _).view q, callEnding, putCanceller, getPos_putPos]
  have hp := hquiet.view p
  have hq := hquiet.view q
  rw [setCall, getPos_putPos] at hp hq
  split
  · rw [if_pos rfl] at hp
    simp only [cancellerView, Prod.mk.injEq] at hp ⊢
    obtain ⟨ht, hcall, hc⟩ := hp
    exact ⟨ht, hcall, by rw [hc]⟩
  · rename_i hne
    rwa [if_neg hne] at hq

theorem callPresent_clearCall (p : PosIx) (s : State) : callPresent (getPos (clearCall p s) p).call = false := by
  have hv := cancellerView_clearCall p s p
  rw [if_pos rfl] at hv
  simp only [cancellerView, Prod.mk.injEq] at hv
  obtain ⟨-, hc, -⟩ := hv
  exact hc

theorem cancellersHold_clearCall (h : CancellersHold s) (p : PosIx) : CancellersHold (clearCall p s) := by
  intro q
  have hv := cancellerView_clearCall p s q
  split at hv
  · rename_i hq
    subst hq
    simp only [cancellerView, Prod.mk.injEq] at hv
    obtain ⟨ht, hcall, hc⟩ := hv
    exact ⟨by rw [ht]; exact (h p).1, cancellerOk_endCall (h p).2 hcall hc⟩
  · exact cancellerFits_congr hv (h q)

theorem callPresent_endIfCalled (p : PosIx) (s : State) : callPresent (getPos (endIfCalled p s) p).call = false := by
  unfold endIfCalled
  split
  · exact callPresent_clearCall p s
  · rename_i hc
    simpa using hc

/-- A close leaves every canceller in range, and no call (R11). -/
theorem cancellersHold_closePosition (h : CancellersHold s) (p : PosIx) :
    CancellersHold (closePosition p s) ∧ callPresent (getPos (closePosition p s) p).call = false := by
  have hended : CancellersHold (endIfCalled p s) := .ite (cancellersHold_clearCall h p) h
  have hvacant : SameCancellers (endIfCalled p s) (setCall p .vacant (endIfCalled p s)) :=
    sameCancellers_setCall (callPresent_endIfCalled p s).symm
  have hquiet := (hvacant.trans (sameCancellers_clearPlayer p .agent .cleared _)).trans (sameCancellers_clearTone p _)
  have hq := hended.same hquiet
  have hcall := congrArg (fun x : PosParams × Bool × Canceller => x.2.1) (hquiet.view p)
  rw [closePosition_eq]
  generalize clearTone p (clearPlayer p .agent .cleared (setCall p .vacant (endIfCalled p s))) = v at hq hcall ⊢
  obtain ⟨ht, hok⟩ := hq p
  obtain ⟨hf, hw⟩ := (cancellerOk_iff _).1 hok
  have hr : CancellerFits (closedRecord (getPos v p)) := ⟨ht, (cancellerOk_iff _).2 ⟨hf, within_history hw historyOk_zero⟩⟩
  refine ⟨hq.putPos hr, ?_⟩
  rw [getPos_putPos, if_pos rfl]
  exact hcall.trans (callPresent_endIfCalled p s)

theorem cancellersHold_closeIfOpen (h : CancellersHold s) (p : PosIx) :
    CancellersHold (closeIfOpen p s) ∧ callPresent (getPos (closeIfOpen p s) p).call = false := by
  unfold closeIfOpen
  split
  · rename_i hv
    exact ⟨h, by rw [hv]; rfl⟩
  · exact cancellersHold_closePosition h p

theorem cancellersHold_resetPosition (h : CancellersHold s) (p : PosIx) : CancellersHold (resetPosition p s) := by
  obtain ⟨ht, hok⟩ := h p
  obtain ⟨hf, hw⟩ := (cancellerOk_iff _).1 hok
  have hz : CancellersHold (windowZeroed p s) := h.putCanceller ((cancellerOk_iff _).2 ⟨hf, within_window hw 0⟩)
  obtain ⟨hclosed, hcall⟩ := cancellersHold_closeIfOpen hz p
  rw [resetPosition_eq]
  generalize closeIfOpen p (windowZeroed p s) = v at hclosed hcall ⊢
  refine hclosed.putPos (cancellerFits_congr (y := positionAtReset p) ?_ (cancellerFits_reset p))
  rw [cancellerView, cancellerView, resetRecord, hcall]
  rfl

theorem cancellersHold_takeOffer (h : CancellersHold s) (p : PosIx) (a b : Option Item) (hint : Option Nat) :
    CancellersHold (takeOffer p a b hint s) := by
  have hl := takeOffer_leaves s p a b hint
  have hcall : callPresent (offeredRecord a b hint (getPos s p)).call = true := by cases a <;> rfl
  have hr : CancellerFits (offeredRecord a b hint (getPos s p)) := ⟨(h p).1, cancellerOk_prepare (h p).2 hcall hint rfl⟩
  intro q
  by_cases hq : q = p
  · rw [hq, hl.getPos_self]
    exact hr
  · rw [hl.getPos_ne hq]
    exact h q

/-! ## Modes and searches -/

theorem cancellersHold_changeMode (h : CancellersHold s) (m : CancellerMode) (p : PosIx) : CancellersHold (changeMode m p s) := by
  have hput := h.putCanceller (cancellerOk_enterMode (h p).2 m)
  exact .ite h (.ite (hput.same (sameCancellers_cancelSearches ..)) hput)

theorem cancellersHold_endSearch (h : CancellersHold s) (o : SearchOutcome) (lag : Option Nat) (f : InFlight) :
    CancellersHold (endSearch o lag f s).1 := by
  obtain ⟨ht, hok⟩ := h f.entry.position
  have hr : CancellerFits (searchedRecord o lag f (getPos s f.entry.position)) := by
    refine ⟨ht, ?_⟩
    unfold searchedRecord
    split
    · exact cancellerOk_moveWindow hok (lag.getD 0 - 32)
    · exact hok
  rw [endSearch_eq]
  exact (h.putPos hr).same (sameCancellers_putEngine _)

theorem cancellersHold_judgeSearch (h : CancellersHold s) (f : InFlight) : CancellersHold (judgeSearch f s).1 := by
  obtain ⟨o, lag, -, he⟩ | ⟨-, he⟩ := judgeSearch_cases f s
  · rw [he]
    exact cancellersHold_endSearch h o lag f
  · rw [he]
    exact h

end

end Sys2Proof.Machine

namespace Sys2Proof.Machine

/-! ## Commands -/

section
variable {s : State}

theorem cancellersHold_reset (h : CancellersHold s) (src : Nat) (b : List Byte) : CancellersHold (resetCommand src b s).1 := by
  unfold resetCommand
  split
  · exact h
  · split
    · refine onDevice_keeps src h ?_
      split
      · exact h
      · intro p
        have hr : getPos (taken (resetDevice (byteAt b 1 == 1) s)).1 p = positionAtReset p := getPos_reset p
        rw [hr]
        exact cancellerFits_reset p
    · exact onPosition_keeps src h fun p => cancellersHold_resetPosition h p

/-- SET-PARAM stores a value that is in range (R181). -/
theorem cancellersHold_setParam (h : CancellersHold s) (src : Nat) (b : List Byte) :
    CancellersHold (setParamCommand src b s).1 := by
  unfold setParamCommand
  dsimp only
  split
  · exact h
  · split
    · exact h.putPos ⟨paramsOk_store (h _).1 _ _, (h _).2⟩
    · exact h
  · split
    · exact h
    · exact h

/-- The commands of a call keep the cancellers (R4 to R11). -/
theorem cancellersHold_callCommands (h : CancellersHold s) (src : Nat) (b : List Byte) :
    CancellersHold (posOpenCommand src s).1 ∧ CancellersHold (posCloseCommand src s).1 ∧
      CancellersHold (callOfferCommand src b s).1 ∧ CancellersHold (callConnectCommand src s).1 ∧
      CancellersHold (callHoldCommand src b s).1 ∧ CancellersHold (callClearCommand src s).1 := by
  refine ⟨?_, ?_, ?_, ?_, ?_, ?_⟩ <;> refine onPosition_keeps src h fun p => ?_
  · split
    · rename_i hv
      exact taken_keeps (P := CancellersHold) (h.same (sameCancellers_putPos (by rw [cancellerView, cancellerView, hv]; rfl)))
    · exact h
  · exact (cancellersHold_closeIfOpen h p).1
  · split
    · exact h
    · split
      · exact h
      · split
        · exact h
        · split
          · exact h
          · exact cancellersHold_takeOffer h _ _ _ _
  · split
    · rename_i hc
      have hcall : SameCancellers s (setCall p .connected s) := sameCancellers_setCall (by rw [hc]; rfl)
      exact taken_keeps (P := CancellersHold)
        (h.same ((hcall.trans (sameCancellers_clearPlayer ..)).trans (sameCancellers_clearPlayer ..)))
    · rename_i hc
      have hcall : SameCancellers s (setCall p .connected s) := sameCancellers_setCall (by rw [hc]; rfl)
      exact taken_keeps (P := CancellersHold) (h.same (hcall.trans (sameCancellers_clearPlayer ..)))
    · exact h
    · exact h
    · exact h
  · split
    · exact h
    · rename_i hm
      split
      · exact h
      · have hcall : SameCancellers s (setCall p .held s) :=
          sameCancellers_setCall (by cases hc : (getPos s p).call <;> simp [hc, mayHold] at hm <;> rfl)
        exact taken_keeps (P := CancellersHold) (h.same (hcall.trans (sameCancellers_playItem p .net .only _ _)))
  · split
    · exact taken_keeps (P := CancellersHold) (cancellersHold_clearCall h p)
    · exact h

/-- The commands of the canceller and the engine keep the cancellers (R77 to R79, R87). -/
theorem cancellersHold_echoCommands (h : CancellersHold s) (src : Nat) (b : List Byte) :
    CancellersHold (ecModeCommand src b s).1 ∧ CancellersHold (ecFreezeCommand src b s).1 ∧
      CancellersHold (windowSetCommand src b s).1 ∧ CancellersHold (searchCommand src b s).1 := by
  refine ⟨?_, ?_, ?_, ?_⟩ <;> refine onPosition_keeps src h fun p => ?_
  · split
    · exact h
    · exact cancellersHold_changeMode h _ p
  · split
    · exact h
    · exact h.putCanceller (p := p) (h p).2
  · split
    · exact h
    · exact h.putCanceller (cancellerOk_moveWindow (h p).2 _)
  · split
    · exact h
    · split
      · exact h.same (sameCancellers_placeRequest ..)
      · exact h

/-- The commands of the players, the tone and the mute leave the cancellers (R12, R125, R136, R157, R161). -/
theorem cancellersHold_audioCommands (h : CancellersHold s) (src : Nat) (b : List Byte) :
    CancellersHold (muteCommand src b s).1 ∧ CancellersHold (playCommand src b s).1 ∧ CancellersHold (stopCommand src b s).1 ∧
      CancellersHold (toneStartCommand src b s).1 ∧ CancellersHold (toneStopCommand src s).1 := by
  have htone : ∀ p x, CancellersHold (spendDraw (putPos s p { getPos s p with tone := x })) := fun p x =>
    CancellersHold.same (s := putPos s p { getPos s p with tone := x }) (h.same (sameCancellers_putPos rfl)) (.of_positions rfl)
  refine ⟨?_, ?_, ?_, ?_, ?_⟩ <;> refine onPosition_keeps src h fun p => ?_
  · split
    · exact h
    · split
      · exact h
      · exact taken_keeps (P := CancellersHold) (h.same (sameCancellers_putPos rfl))
  · split
    · split
      · exact h
      · split
        · exact h
        · dsimp only
          split
          · exact h
          · exact h.same (sameCancellers_playItem ..)
    · exact h
  · split
    · exact h.same ((sameCancellers_endCurrent ..).trans (sameCancellers_whisperCheck ..))
    · exact h.same ((sameCancellers_clearPlayer ..).trans (sameCancellers_whisperCheck ..))
    · exact h
  · split
    · exact h
    · split
      · exact h
      · split
        · exact h
        · exact htone p _
  · exact htone p _

/-- The commands of the ports leave the positions (R163, R168 to R170). -/
theorem sameCancellers_portCommands (s : State) (src : Nat) (b : List Byte) :
    SameCancellers s (sleepCommand src s).1 ∧ SameCancellers s (wakeCommand src s).1 ∧
      SameCancellers s (portSetCommand src b s).1 ∧ SameCancellers s (portStatusCommand src s).1 := by
  refine ⟨?_, ?_, ?_, ?_⟩ <;> refine onDevice_keeps (P := SameCancellers s) src .rfl ?_
  · split
    · exact .rfl
    · split
      · exact .rfl
      · exact .of_portless (portless_goToSleep s)
  · split
    · exact .of_portless (portless_portsEvent ..)
    · exact .rfl
  · split
    · split
      · exact .rfl
      · split
        · exact .rfl
        · exact .of_portless (portless_setPort ..)
    · exact .rfl
  · split
    · exact .rfl
    · exact .of_positions rfl

/-- The commands of the store leave the positions (R107 to R113, R116). -/
theorem sameCancellers_storeCommands (s : State) (src : Nat) (b : List Byte) :
    SameCancellers s (clipAllocCommand src b s).1 ∧ SameCancellers s (clipWriteCommand src b s).1 ∧
      SameCancellers s (clipEndCommand src b s).1 ∧ SameCancellers s (clipFreeCommand src b s).1 ∧
      SameCancellers s (clipInfoCommand src b s).1 ∧ SameCancellers s (storeCompactCommand src s).1 ∧
      SameCancellers s (expandLoadCommand src b s).1 := by
  have hclip : ∀ {id act}, (∀ c, (act c).1.positions = s.positions) → SameCancellers s (onDevice s src (onClip s id act)).1 :=
    fun h => onDevice_keeps (P := SameCancellers s) src .rfl
      (onClip_keeps (P := SameCancellers s) _ .rfl fun c => .of_positions (h c))
  refine ⟨hclip fun c => ?_, hclip fun c => ?_, hclip fun c => ?_, hclip fun c => ?_, hclip fun c => rfl,
    onDevice_keeps (P := SameCancellers s) src .rfl (.of_positions ?_),
    onDevice_keeps (P := SameCancellers s) src .rfl (.of_positions rfl)⟩
  · dsimp only
    (repeat' split) <;> rfl
  · dsimp only
    (repeat' split) <;> rfl
  · dsimp only
    split <;> rfl
  · (repeat' split) <;> rfl
  · (repeat' split) <;> rfl

/-- The commands of the streams leave the positions, but for the players of a stream that closes (R144 to R147, R152, R154). -/
theorem sameCancellers_streamCommands (s : State) (src : Nat) (b : List Byte) :
    SameCancellers s (streamOpenCommand src b s).1 ∧ SameCancellers s (streamFillCommand src b s).1 ∧
      (∀ act, SameCancellers s (streamRunCommand act src b s).1) ∧ SameCancellers s (streamCloseCommand src b s).1 ∧
      SameCancellers s (streamStatusCommand src b s).1 := by
  have hstream : ∀ {id act}, (∀ i, SameCancellers s (act i).1) → SameCancellers s (onDevice s src (onStream s id act)).1 :=
    fun h => onDevice_keeps (P := SameCancellers s) src .rfl (onStream_keeps (P := SameCancellers s) _ .rfl h)
  refine ⟨hstream fun i => .of_positions ?_, hstream fun i => .of_positions ?_, fun act => ?_, hstream fun i => ?_,
    hstream fun i => .rfl⟩
  · dsimp only
    (repeat' split) <;> rfl
  · dsimp only
    (repeat' split) <;> rfl
  · refine onDevice_keeps (P := SameCancellers s) src .rfl ?_
    split
    · exact .rfl
    · refine onStream_keeps (P := SameCancellers s) _ .rfl fun i => .of_positions ?_
      split <;> rfl
  · split
    · exact .rfl
    · exact sameCancellers_closeStream i s

/-- Every command keeps the cancellers within their ranges. -/
theorem cancellersHold_perform (c : Command) (src : Nat) (b : List Byte) (s : State) (h : CancellersHold s) :
    CancellersHold (perform c src b s).1 := by
  obtain ⟨hopen, hclose, hoffer, hconnect, hhold, hclear⟩ := cancellersHold_callCommands h src b
  obtain ⟨hmode, hfreeze, hwindow, hsearch⟩ := cancellersHold_echoCommands h src b
  obtain ⟨hmute, hplay, hstop, htone, htoneStop⟩ := cancellersHold_audioCommands h src b
  obtain ⟨hsleep, hwake, hset, hports⟩ := sameCancellers_portCommands s src b
  obtain ⟨halloc, hwrite, hend, hfree, hinfo, hcompact, hload⟩ := sameCancellers_storeCommands s src b
  obtain ⟨hsopen, hfill, hrun, hsclose, hstatus⟩ := sameCancellers_streamCommands s src b
  cases c with
  | reset => exact cancellersHold_reset h src b
  | sleep => exact h.same hsleep
  | wake => exact h.same hwake
  | portSet => exact h.same hset
  | portStatus => exact h.same hports
  | setParam => exact cancellersHold_setParam h src b
  | getParam =>
    simp only [perform, getParamCommand]
    (repeat' split) <;> exact h
  | posOpen => exact hopen
  | posClose => exact hclose
  | callOffer => exact hoffer
  | callConnect => exact hconnect
  | callHold => exact hhold
  | callClear => exact hclear
  | mute => exact hmute
  | posStatus => exact onPosition_keeps src h fun _ => h
  | ecMode => exact hmode
  | ecFreeze => exact hfreeze
  | search => exact hsearch
  | windowSet => exact hwindow
  | ecStatus => exact onPosition_keeps src h fun _ => h
  | play => exact hplay
  | stop => exact hstop
  | playerStatus => exact onPosition_keeps src h fun _ => h
  | toneStart => exact htone
  | toneStop => exact htoneStop
  | clipAlloc => exact h.same halloc
  | clipWrite => exact h.same hwrite
  | clipEnd => exact h.same hend
  | clipFree => exact h.same hfree
  | clipInfo => exact h.same hinfo
  | storeCompact => exact h.same hcompact
  | expandLoad => exact h.same hload
  | streamOpen => exact h.same hsopen
  | streamFill => exact h.same hfill
  | streamStart => exact h.same (hrun startedStream)
  | streamStop => exact h.same (hrun haltedStream)
  | streamClose => exact h.same hsclose
  | streamStatus => exact h.same hstatus

end

end Sys2Proof.Machine

/-! # What a slice and the events keep of the cancellers -/

namespace Sys2Proof.Machine

/-! ## The slice of a position (R15) -/

section
variable {s t : State} {p : PosIx}

/-- The transmit samples join the history (R54). -/
theorem historyOk_slice (h : CancellerOk (getPos s p)) : HistoryOk (sliceHistory p s) := by
  refine ⟨length_sliceHistory h, fun x hx => ?_⟩
  obtain ⟨-, -, -, -, ⟨-, hh⟩, -⟩ := h
  obtain hx | hx := List.mem_append.1 (List.mem_of_mem_drop hx)
  · exact hh x hx
  · rw [stages_transmit, networkTransmit] at hx
    obtain ⟨v, -, rfl⟩ := List.mem_map.1 hx
    exact saturate_bounds v

/-- A slice leaves its position a canceller within its ranges (R54, R56). -/
theorem cancellerFits_slice (h : CancellerFits (getPos s p)) : CancellerFits (sliceRecord (stages p s) (getPos s p)) := by
  obtain ⟨ht, hok⟩ := h
  obtain ⟨hf, hw⟩ := (cancellerOk_iff _).1 hok
  have hin : CancellerOk { getPos s p with canceller := { (getPos s p).canceller with history := sliceHistory p s } } :=
    (cancellerOk_iff _).2 ⟨hf, within_history hw (historyOk_slice hok)⟩
  have hout := cancellerOk_stage ht hin s.period.netLocked (stages p s).active (isSlice_returned p s)
  rw [← stages_canceller] at hout
  exact ⟨ht, hout⟩

theorem cancellersHold_judgedSlice (h : CancellersHold s) (p : PosIx) : CancellersHold (judgedSlice p s).1 := by
  have hsettled : CancellersHold (settleSlice p (stages p s) s) := by
    have hworked := h.putPos (p := p) (cancellerFits_slice (h p))
    exact CancellersHold.same hworked (.of_positions (settleSlice_beside p (stages p s) s).positions)
  have hrequested : CancellersHold (sliceRequests p (stages p s) (settleSlice p (stages p s) s)) :=
    hsettled.same (.ite (sameCancellers_placeRequest ..) .rfl)
  unfold judgedSlice sliceJudgement
  split
  · exact hrequested
  · split
    · exact cancellersHold_judgeSearch hrequested _
    · exact hrequested

theorem cancellersHold_positionSlice (h : CancellersHold s) (p : PosIx) : CancellersHold (positionSlice p s) := by
  refine .ite ?_ h
  rw [processSlice_eq]
  refine inFreeOrder_keeps (P := CancellersHold) _ _ (cancellersHold_judgedSlice h p) ?_ fun t ht => ht.same (.of_positions rfl)
  intro act ha t ht
  obtain ⟨x, -, rfl⟩ := List.mem_map.1 ha
  cases x with
  | players => exact ht.same ((sameCancellers_raiseAll ..).trans (sameCancellers_whisperCheck ..))
  | level | tone | echo => exact ht.same (sameCancellers_raiseAll ..)

/-! ## The slice period (R24) -/

theorem cancellersHold_endPeriod (h : CancellersHold s) : CancellersHold (endPeriod s) := by
  refine .ite ?_ h
  have hslices := foldl_keeps (P := CancellersHold) (fun t p ht => cancellersHold_positionSlice ht p) (dueOrder s) s h
  refine inFreeOrder_keeps (P := CancellersHold) _ _ (hslices.same (.of_positions rfl)) ?_ fun t ht => ht.same (.of_positions rfl)
  intro act ha t ht
  simp only [List.mem_cons, List.not_mem_nil, or_false] at ha
  obtain rfl | rfl := ha
  · exact ht.same (.of_portless (portless_handEarpiece t))
  · exact ht.same (.of_storeless (storeless_finishMove t))

theorem sameCancellers_beginPeriod (netIn posIn : AudioBlock) (group : Option AudioBlock) (s : State) :
    SameCancellers s (beginPeriod netIn posIn group s) := by
  have hdue : SameCancellers s (dueSlices (putPeriod (putPorts s (clearedOutputs s.ports)) (startedPeriod netIn s.ports))) :=
    ⟨fun p => by rw [getPos_dueSlices]; rfl⟩
  refine inFreeOrder_keeps (P := SameCancellers s) _ _ hdue ?_ fun t ht => ht.trans (.of_positions rfl)
  intro act ha t ht
  have hfix : ∀ i, SameCancellers s (fixOne i t) := fun i => ht.trans (.of_storeless (storeless_fixOne t i))
  simp only [List.mem_cons, List.not_mem_nil, or_false] at ha
  obtain rfl | rfl | rfl | rfl | rfl | rfl := ha
  · exact ht.trans (.of_portless (portless_receiveMic t posIn group))
  · exact hfix 0
  · exact hfix 1
  · exact hfix 2
  · exact hfix 3
  · exact ht.trans (.of_storeless (storeless_compactPeriod t))

theorem cancellersHold_slicePeriod (h : CancellersHold s) (netIn posIn : AudioBlock) (group : Option AudioBlock) :
    CancellersHold (slicePeriod netIn posIn group s) := by
  have hgroup : CancellersHold (groupBefore group s) := h.same (.of_portless (portless_groupBefore s group))
  exact .ite h ((cancellersHold_endPeriod hgroup).same (sameCancellers_beginPeriod ..))

/-! ## The events -/

theorem cancelling_of_mayAdapt (h : mayAdapt s p = true) : cancelling (getPos s p).canceller.state = true := by
  obtain ⟨-, hc, -⟩ := (mayAdapt_iff p s).1 h
  exact (cancelling_iff _).2 hc

theorem cancellersHold_raiseCallerFloor (h : CancellersHold s) (p : PosIx) (level : Nat) :
    CancellersHold (raiseCallerFloor p level s) := by
  unfold raiseCallerFloor
  dsimp only
  split
  · rename_i hd
    obtain ⟨-, hc, -, hl, -⟩ := hd
    exact h.runs hc fun hr => runs_floor hr ((h p).1.le_max .floorRise) hl
  · exact h

theorem cancellersHold_expireDoubleTalk (h : CancellersHold s) (p : PosIx) (ymax xmax : Nat) :
    CancellersHold (expireDoubleTalk p ymax xmax s) := by
  rw [expireDoubleTalk_eq]
  dsimp only
  generalize (if s.period.netLocked = true then ymax else 0) = heard
  split
  · rename_i hd
    obtain ⟨-, hc, -⟩ := hd
    exact h.runs ((cancelling_iff _).2 hc) fun hr => runs_hangover hr (Nat.zero_le _)
  · exact h

/-- The canceller's events keep the cancellers (R65 to R68). -/
theorem cancellersHold_cancellerEvents (h : CancellersHold s) (p : PosIx) (lest ly : Nat) :
    CancellersHold (converge p s) ∧ CancellersHold (diverge p lest ly s) ∧ CancellersHold (loseErle p s) ∧
      CancellersHold (expireResearch p s) := by
  have hevent : ∀ {c} ev, CancellersHold (putCanceller s p c) → CancellersHold (cancellerEvent p ev c s) := fun _ hc =>
    hc.same (.of_bare (bare_raise ..))
  refine ⟨?_, ?_, ?_, ?_⟩
  · unfold converge
    dsimp only
    split
    · rename_i hd
      exact hevent _ (h.runs (cancelling_of_mayAdapt hd.1) fun hr => runs_convergence hr _)
    · exact h
  · unfold diverge
    dsimp only
    split
    · rename_i hd
      exact hevent _ (h.runs (cancelling_of_mayAdapt hd.1) fun hr => runs_divergence hr _ _)
    · exact h
  · unfold loseErle
    dsimp only
    split
    · rename_i hd
      have hlost := h.runs (p := p) (cancelling_of_mayAdapt hd.1) fun hr => runs_loss hr (getPos s p).params.ecLoss
      exact .ite (hlost.same (sameCancellers_placeRequest ..)) hlost
    · exact h
  · unfold expireResearch
    dsimp only
    split
    · rename_i hd
      obtain ⟨-, hc, -⟩ := hd
      exact (h.runs (by rw [hc]; rfl) fun hr => runs_research hr ((h p).1.le_max .ecResearch)).same (sameCancellers_placeRequest ..)
    · exact h

theorem cancellersHold_endInFlight (h : CancellersHold s) (due : InFlight → Bool)
    {finish : InFlight → State → State × ReportBody} (hf : ∀ f, CancellersHold (finish f s).1) :
    CancellersHold (endInFlight due finish s) := by
  unfold endInFlight
  split
  · exact h
  · exact .ite ((hf _).same (.of_bare (bare_raise ..))) h

theorem sameCancellers_endPass (p : PosIx) (w : PlayerId) (s : State) : SameCancellers s (endPass p w s) := by
  unfold endPass
  split
  · exact .rfl
  · dsimp only
    split
    · exact ((sameCancellers_player (bare_settleRun ..)).trans (sameCancellers_raiseAll ..)).trans (sameCancellers_whisperCheck ..)
    · exact .rfl

/-- The events of the suppressor and of the tone leave the cancellers (R30, R39, R47, R159). -/
theorem sameCancellers_unitEvents (p : PosIx) (a : Nat) (s : State) :
    SameCancellers s (raiseMicFloor p a s) ∧ SameCancellers s (expireVad p a s) ∧ SameCancellers s (refreshDue p s) ∧
      SameCancellers s (completeBurst p s) ∧ SameCancellers s (beginCycle p s) := by
  have hsup : ∀ x, SameCancellers s (putSuppressor s p x) := fun x => sameCancellers_putPos rfl
  have htone : ∀ x, SameCancellers s (putTone s p x) := fun x => sameCancellers_putPos rfl
  exact ⟨.ite (hsup _) .rfl, .ite (hsup _) .rfl, .ite ((hsup _).trans (sameCancellers_raiseAll ..)) .rfl,
    .ite ((htone _).trans (sameCancellers_raiseAll ..)) .rfl, .ite (htone _) .rfl⟩

end

/-! ## Every step -/

theorem cancellersHold_exec (i : Instr) {s t : State} (h : CancellersHold s) (he : exec i s = .next t) : CancellersHold t := by
  have hlink : ∀ t l, CancellersHold t → CancellersHold (putLink t l) := fun _ _ ht => ht.same (.of_positions rfl)
  have hreset : ∀ m, CancellersHold (powerOnState s.pending m s.draws) := fun m p => by
    have hr : getPos (powerOnState s.pending m s.draws) p = positionAtReset p := getPos_reset p
    rw [hr]
    exact cancellerFits_reset p
  cases i with
  | powerOn | resetPin => cases he; exact hreset _
  | frameError len followed => cases he; exact .ite (linkEvent_keeps hlink _ _ _ h) h
  | read e => cases he; exact readTransaction_keeps hlink cancellersHold_perform e s h
  | frameArrival | linkClear | badKind | resetDevice | resetPosition | sleep | wake | portSet | portStatus | setParam | getParam
  | posOpen | posClose | callOffer | callConnect | callHold | callClear | mute | posStatus | ecMode | ecFreeze | search | windowSet
  | ecStatus | playNow | playInterrupt | playNext | playOnly | stopCurrent | stopAll | playerStatus | toneStart | toneStop | clipAlloc
  | clipWrite | clipEnd | clipFree | clipInfo | storeCompact | expandLoad | streamOpen | streamFill | streamStart | streamStop
  | streamClose | streamStatus => cases he; exact writeFrame_keeps hlink cancellersHold_perform _ s h
  | slicePeriod netIn posIn group => cases he; exact cancellersHold_slicePeriod h netIn posIn group
  | positionSlice p => cases he; exact cancellersHold_positionSlice h p
  | floorTrackerRise p which level =>
    cases he
    cases which with
    | microphone => exact h.same (sameCancellers_unitEvents p level s).1
    | callerPath => exact cancellersHold_raiseCallerFloor h p level
  | vadHangoverExpiry p ratio => cases he; obtain ⟨-, hvad, -⟩ := sameCancellers_unitEvents p ratio s; exact h.same hvad
  | boostRefresh p => cases he; obtain ⟨-, -, hrefresh, -⟩ := sameCancellers_unitEvents p 0 s; exact h.same hrefresh
  | doubleTalkHangoverExpiry p ymax xmax => cases he; exact cancellersHold_expireDoubleTalk h p ymax xmax
  | converged p => cases he; obtain ⟨hc, -⟩ := cancellersHold_cancellerEvents h p 0 0; exact hc
  | diverged p lest ly => cases he; obtain ⟨-, hd, -⟩ := cancellersHold_cancellerEvents h p lest ly; exact hd
  | lossOfErle p => cases he; obtain ⟨-, -, hl, -⟩ := cancellersHold_cancellerEvents h p 0 0; exact hl
  | researchPeriodExpiry p => cases he; obtain ⟨-, -, -, hr⟩ := cancellersHold_cancellerEvents h p 0 0; exact hr
  | searchStart => cases he; exact h.same (sameCancellers_startHead s)
  | searchCompletes => cases he; exact cancellersHold_endInFlight h _ fun f => cancellersHold_endSearch h _ _ f
  | timedOut => cases he; exact cancellersHold_endInFlight h _ fun f => cancellersHold_endSearch h _ _ f
  | passEnd p which => cases he; exact h.same (sameCancellers_endPass p which s)
  | burstComplete p => cases he; obtain ⟨-, -, -, hb, -⟩ := sameCancellers_unitEvents p 0 s; exact h.same hb
  | newCycle p => cases he; obtain ⟨-, -, -, -, hn⟩ := sameCancellers_unitEvents p 0 s; exact h.same hn
  | halfEmpty k => cases he; exact h.same (.of_storeless (storeless_emptyHalfOf s k))
  | turn => cases he; exact .ite (h.same (.of_storeless (storeless_takeTurn s))) h
  | moveCompletes => cases he; exact h.same (.of_storeless (storeless_finishMove s))
  | frameSync port distance => cases he; exact .ite (h.same (.of_portless (portless_takeSync s port distance))) h
  | missingSync port => cases he; exact .ite (h.same (.of_portless (portless_missSync s port))) h
  | positionPortGroup x => cases he; exact h.same (.of_portless (portless_completeGroup s x))

/-- Settles O10: each command's, each slice's and each event's part keeps every canceller within its ranges. -/
theorem stepKeepsTheCancellers : Obligations.StepKeepsTheCancellers := by
  unfold Obligations.StepKeepsTheCancellers
  intro s t hp hc hs p
  have h : CancellersHold s := fun q => ⟨hp q, hc q⟩
  rw [step] at hs
  split at hs
  · cases hs
    exact hc p
  · rename_i c rest _
    exact (cancellersHold_exec c (s := { s with pending := rest }) (h.same (.of_positions rfl)) hs p).2

end Sys2Proof.Machine

/-! # Requests to the Delay Search Engine (R87 to R89) -/

namespace Sys2Proof.Machine

/-! ## The four cases of a request (R88) -/

/-- What a follow-up becomes with a request (R88). -/
def joinedFollowUp (r : SearchRequest) (u : Option SearchRequest) : SearchRequest := u.elim r (mergeRequests · r)

section
variable {s : State} {p : PosIx} {r : SearchRequest}

theorem inFlightFor_of_position {f : InFlight} (hf : s.engine.inFlight = some f) (hp : f.entry.position = p) :
    inFlightFor s p = some f := by simp [inFlightFor, hf, hp]

theorem queuedFor_isSome (h : ∃ x ∈ s.engine.queue, x.position = p) : (queuedFor s p).isSome = true := by
  simpa [queuedFor] using h

theorem placeRequest_followUp {f : InFlight} (hf : inFlightFor s p = some f) :
    placeRequest p r s = (putEngine s { s.engine with followUp := some (joinedFollowUp r s.engine.followUp) }, .followUp) := by
  rw [placeRequest, hf, if_pos (by rfl)]
  cases s.engine.followUp with
  | none => rfl
  | some u => rfl

theorem placeRequest_merged (hf : inFlightFor s p = none) (hq : ∃ x ∈ s.engine.queue, x.position = p) :
    placeRequest p r s = (putEngine s { s.engine with queue := mergeQueued p r s.engine.queue }, .merged) := by
  rw [placeRequest, hf, if_neg (by simp), if_pos (queuedFor_isSome hq)]

theorem placeRequest_started (hf : s.engine.inFlight = none) (hq : ∀ x ∈ s.engine.queue, x.position ≠ p) :
    placeRequest p r s = (startEntry ⟨p, r⟩ s, .started) := by
  have hi : inFlightFor s p = none := by rw [inFlightFor, hf]; rfl
  rw [placeRequest, hi, (queuedFor_none_iff s p).2 hq, hf]
  rfl

theorem placeRequest_queued (hi : s.engine.inFlight ≠ none) (hf : inFlightFor s p = none)
    (hq : ∀ x ∈ s.engine.queue, x.position ≠ p) :
    placeRequest p r s = (putEngine s { s.engine with queue := s.engine.queue ++ [⟨p, r⟩] }, .queued) := by
  rw [placeRequest, hf, (queuedFor_none_iff s p).2 hq, if_neg (by simp), if_neg (by simp), if_neg (by simpa using hi)]

end

/-- A HOST request makes what it is merged into a HOST request (R88). -/
theorem mergeRequests_host (a : SearchRequest) (k : SearchKind) :
    mergeRequests a ⟨k, .host, false⟩ = ⟨if a.kind = .long ∨ k = .long then .long else .short, .host, a.escalate⟩ := by
  simp [mergeRequests]

/-! ## SEARCH (R87) -/

section
variable {s : State} {p : PosIx}

theorem searchKindOfCode_none {n : Nat} (h : 1 < n) : searchKindOfCode n = none := by
  unfold searchKindOfCode
  split
  · omega
  · omega
  · rfl

theorem exec_search_badValue (h : Awake s) (tag : Byte) {v : Byte} (hv : 1 < v.toNat) :
    exec (.search (sourceByte p) tag v) s = .next (sendReply ⟨0x9A, sourceByte p, tag, .badValue, []⟩ s) := by
  rw [exec_search h.1, perform, searchCommand, onPosition_awake h.2]
  simp only [byteAt_cons_zero, searchKindOfCode_none hv, answered_refuse]

/-- The state that SEARCH leaves, with its reply: the disposition and the length of the queue (R87). -/
def searchPlaced (p : PosIx) (tag : Byte) (x : State × Disposition) : State :=
  sendReply ⟨0x9A, sourceByte p, tag, .ok, [byteField (dispositionCode x.2), byteField x.1.engine.queue.length]⟩ x.1

theorem exec_search_awake (h : Awake s) (tag : Byte) {v : Byte} {k : SearchKind} (hv : searchKindOfCode v.toNat = some k) :
    exec (.search (sourceByte p) tag v) s =
      .next (if callPresent (getPos s p).call = true ∧ cancelling (getPos s p).canceller.state = true then
          searchPlaced p tag (placeRequest p ⟨k, .host, false⟩ s)
        else sendReply ⟨0x9A, sourceByte p, tag, .badState, []⟩ s) := by
  rw [exec_search h.1, perform, searchCommand, onPosition_awake h.2]
  simp only [byteAt_cons_zero, hv]
  split
  · rfl
  · rfl

end

/-- Settles O39: the request is placed by the first of R88's cases that applies. -/
theorem searchIsPlacedByTheFirstCase : Obligations.SearchIsPlacedByTheFirstCase := by
  unfold Obligations.SearchIsPlacedByTheFirstCase
  intro s p tag h r e
  refine ⟨fun v hv => exec_search_badValue h tag hv, fun long => ?_⟩
  intro k req merge reply c
  have hmerge : ∀ a, mergeRequests a req = merge a := fun a => mergeRequests_host a k
  have hc : c = .next (if callPresent r.call = true ∧ cancelling r.canceller.state = true then
      searchPlaced p tag (placeRequest p req s) else sendReply ⟨0x9A, sourceByte p, tag, .badState, []⟩ s) :=
    exec_search_awake h tag (by cases long <;> rfl)
  refine ⟨fun hn => by rw [hc, if_neg hn], fun hcall hrun => ?_⟩
  rw [hc, if_pos ⟨hcall, hrun⟩]
  refine ⟨fun f hf hp => ?_, fun hf => ⟨fun hq => ?_, fun hq => ⟨fun hi => ?_, fun hi => ?_⟩⟩⟩
  · rw [placeRequest_followUp (inFlightFor_of_position hf hp)]
    cases s.engine.followUp with
    | none => rfl
    | some a =>
      simp only [← hmerge]
      rfl
  · have hqueue : mergeQueued p req e.queue = e.queue.map fun x => if x.position = p then ⟨p, merge x.request⟩ else x := by
      refine List.map_congr_left fun x _ => ?_
      split
      · rename_i hx
        rw [hx, hmerge]
      · rfl
    have hlength : (mergeQueued p req e.queue).length = e.queue.length := List.length_map _
    rw [placeRequest_merged ((inFlightFor_none_iff s p).2 hf) hq]
    simp only [searchPlaced, putEngine_engine]
    rw [hlength, hqueue]
    rfl
  · rw [placeRequest_started hi hq]
    cases long <;> rfl
  · rw [placeRequest_queued hi ((inFlightFor_none_iff s p).2 hf) hq]
    simp only [searchPlaced, putEngine_engine, List.length_append]
    rfl

end Sys2Proof.Machine

/-! # The events of the Delay Search Engine (R89, R92 to R95, R97) -/

namespace Sys2Proof.Machine

/-! ## The end of a search (R95) -/

/-- The engine that a search leaves, before the head of the queue starts: the follow-up joins the tail (R95). -/
def releasedEngine (p : PosIx) (u : Option SearchRequest) (e : Engine) : Engine :=
  { e with inFlight := none, followUp := none, queue := e.queue ++ u.toList.map fun r => ⟨p, r⟩ }

/-- The follow-up as the end of a search leaves it, with the LONG request that a SHORT AUTO search without a peak makes (R95). -/
def endFollowUp (escalated : Bool) (u : Option SearchRequest) : Option SearchRequest :=
  if escalated then some (joinedFollowUp ⟨.long, .auto, true⟩ u) else u

/-- The state that the end of a search leaves, but for its report (R95, R97). -/
def searchEnded (o : SearchOutcome) (lag : Option Nat) (f : InFlight) (s : State) : State :=
  startHead (putEngine (putPos s f.entry.position (searchedRecord o lag f (getPos s f.entry.position)))
    (releasedEngine f.entry.position
      (endFollowUp (escalates o f.entry.request (getPos s f.entry.position).params.ecAutoSearch) s.engine.followUp) s.engine))

theorem searchEnded_follow {o : SearchOutcome} {lag : Option Nat} {f : InFlight} {s : State} {u : Option SearchRequest}
    (h : endFollowUp (escalates o f.entry.request (getPos s f.entry.position).params.ecAutoSearch) s.engine.followUp = u) :
    searchEnded o lag f s = startHead (putEngine (putPos s f.entry.position (searchedRecord o lag f (getPos s f.entry.position)))
      (releasedEngine f.entry.position u s.engine)) := by rw [searchEnded, h]

/-- The report of a search that ended, with the record it leaves (R81, R97). -/
def endReport (o : SearchOutcome) (lag : Option Nat) (f : InFlight) (r : Position) : ReportBody :=
  .echo f.entry.position (.outcome o) (searchedRecord o lag f r).canceller.state (searchedRecord o lag f r).canceller.window
    (searchedRecord o lag f r).canceller.erle (some ⟨f.entry.request, o, f.eligible, f.elapsed, lag⟩)

section
variable {s : State} {f : InFlight}

/-- The outcome is kept after the window has moved (R94, R97). -/
theorem keepOutcome_moved (o : SearchOutcome) (lag : Option Nat) (f : InFlight) (s : State) :
    keepOutcome f.entry.position ⟨f.entry.request, o, f.eligible, f.elapsed, lag⟩
      (if o = .foundMoved then
        putCanceller s f.entry.position (moveWindow (windowForPeak (lag.getD 0)) (getPos s f.entry.position).canceller)
      else s) = putPos s f.entry.position (searchedRecord o lag f (getPos s f.entry.position)) := by
  unfold searchedRecord keepOutcome
  split
  · rw [putCanceller, putPos_putPos, getPos_putPos_self]
  · rfl

theorem releaseEngine_eq (p : PosIx) (s : State) :
    releaseEngine p s = startHead (putEngine s (releasedEngine p s.engine.followUp s.engine)) := by
  unfold releaseEngine releasedEngine
  cases s.engine.followUp with
  | none => rfl
  | some r => rfl

/-- A search that is in flight ends: its follow-up takes the request of an escalation (R88, R95). -/
theorem endSearch_does (o : SearchOutcome) (lag : Option Nat) (hf : s.engine.inFlight = some f) :
    endSearch o lag f s = (searchEnded o lag f s, endReport o lag f (getPos s f.entry.position)) := by
  unfold endSearch searchEnded endReport
  dsimp only
  rw [keepOutcome_moved]
  generalize hr : searchedRecord o lag f (getPos s f.entry.position) = r
  have hparams : r.params = (getPos s f.entry.position).params := by rw [← hr]; rfl
  have hlast : r.lastSearch = some ⟨f.entry.request, o, f.eligible, f.elapsed, lag⟩ := by rw [← hr]; rfl
  have hin : inFlightFor (putPos s f.entry.position r) f.entry.position = some f := inFlightFor_of_position hf rfl
  rw [echoReport, getPos_putPos_self, hparams, hlast, releaseEngine_eq]
  cases escalates o f.entry.request (getPos s f.entry.position).params.ecAutoSearch with
  | true =>
    rw [if_pos rfl, placeRequest_followUp hin]
    rfl
  | false => rfl

theorem escalates_iff (o : SearchOutcome) (q : SearchRequest) (auto : Nat) :
    escalates o q auto = true ↔ o = .noPeak ∧ q.kind = .short ∧ q.origin = .auto ∧ auto = 1 := by
  simp [escalates, and_assoc]

/-! ## The start of an entry (R89) -/

/-- The record of an entry that starts, with the window start at its position. -/
def startedFlight (x : SearchEntry) (d : Nat) : InFlight :=
  ⟨x, (searchSpan x.request.kind d).1, (searchSpan x.request.kind d).2, 0, 0⟩

/-- The engine that starts an entry, with the window start at its position. -/
def startedEngine (x : SearchEntry) (d : Nat) (e : Engine) : Engine :=
  { e with
    inFlight := some (startedFlight x d)
    followUp := none
    accumulators := clearSpan (startedFlight x d).first (startedFlight x d).last e.accumulators }

theorem startEntry_eq (x : SearchEntry) (s : State) :
    startEntry x s = putEngine s (startedEngine x (getPos s x.position).canceller.window s.engine) := rfl

/-- The head of the queue starts on an IDLE engine alone (R89). -/
theorem headStarted_idle {window : PosIx → Nat} {e : Engine} (h : e.inFlight ≠ none ∨ e.queue = []) :
    headStarted window e = e := by
  unfold headStarted
  split
  · rename_i hi hq
    rw [hi, hq] at h
    simp at h
  · rfl

theorem headStarted_head {window : PosIx → Nat} {e : Engine} {x : SearchEntry} {rest : List SearchEntry}
    (hi : e.inFlight = none) (hq : e.queue = x :: rest) :
    headStarted window e = startedEngine x (window x.position) { e with queue := rest } := by
  rw [headStarted, hi, hq]
  rfl

/-! ## Where an end is due (R92) -/

theorem searchComplete_iff (f : InFlight) : searchComplete f = true ↔ slicesNeeded f.entry.request.kind ≤ f.eligible := by
  simp [searchComplete]

theorem searchTimedOut_iff (timeout : Nat) (f : InFlight) :
    searchTimedOut timeout f = true ↔ ¬slicesNeeded f.entry.request.kind ≤ f.eligible ∧ timeout ≤ f.elapsed := by
  simp [searchTimedOut, searchComplete]

theorem endInFlight_idle {due : InFlight → Bool} {finish : InFlight → State → State × ReportBody}
    (hf : s.engine.inFlight = some f) (h : ¬(processes s f.entry.position = true ∧ due f = true)) :
    endInFlight due finish s = s := by
  rw [endInFlight, hf]
  exact if_neg (by rwa [Bool.and_eq_true])

/-- An end that is due, with its report (R92, R95, R97). -/
theorem endInFlight_due {due : InFlight → Bool} {finish : InFlight → State → State × ReportBody}
    (hf : s.engine.inFlight = some f) (hp : processes s f.entry.position = true) (hd : due f = true) :
    endInFlight due finish s = raise (finish f s).2 (finish f s).1 := by
  rw [endInFlight, hf]
  exact if_pos (by rw [hp, hd]; rfl)

/-- What a search leaves that ends with an outcome, the record's canceller being given (R95, R97). -/
theorem raise_endSearch {o : SearchOutcome} {lag : Option Nat} (hf : s.engine.inFlight = some f) {c : Canceller}
    (hc : (searchedRecord o lag f (getPos s f.entry.position)).canceller = c) :
    raise (endSearch o lag f s).2 (endSearch o lag f s).1 =
      raise (.echo f.entry.position (.outcome o) c.state c.window c.erle (some ⟨f.entry.request, o, f.eligible, f.elapsed, lag⟩))
        (searchEnded o lag f s) := by
  rw [endSearch_does o lag hf, endReport, hc]

/-- The outcome of a search that has its eligible slices, by its peak (R93, R94). -/
theorem exec_searchCompletes_due (hf : s.engine.inFlight = some f) (hp : processes s f.entry.position = true)
    (hn : slicesNeeded f.entry.request.kind ≤ f.eligible) {o : SearchOutcome}
    (ho : completionOutcome s.device.peakRatio (getPos s f.entry.position).canceller.window f s.engine.accumulators = o)
    {c : Canceller}
    (hc : (searchedRecord o (some (peakLag f.first f.last s.engine.accumulators)) f (getPos s f.entry.position)).canceller = c) :
    exec .searchCompletes s =
      .next (raise (.echo f.entry.position (.outcome o) c.state c.window c.erle
          (some ⟨f.entry.request, o, f.eligible, f.elapsed, some (peakLag f.first f.last s.engine.accumulators)⟩))
        (searchEnded o (some (peakLag f.first f.last s.engine.accumulators)) f s)) := by
  show Host.Outcome.next (endInFlight searchComplete completeSearch s) = _
  rw [endInFlight_due hf hp ((searchComplete_iff f).2 hn), completeSearch, ho, raise_endSearch hf hc]

end

/-- Settles O58: an event of the engine acts where it is due, and the end of a search is `searchEnded` with its report. -/
theorem searchEngineEvents : Obligations.SearchEngineEvents := by
  unfold Obligations.SearchEngineEvents
  intro s
  refine ⟨fun e rest hi hq => ?_, fun h => ?_, fun hi => ?_, fun f hf => ?_⟩
  · show Host.Outcome.next (startHead s) = _
    rw [startHead_eq, startHead_does, headStarted_head hi hq, startedEngine, startedFlight]
    cases e.request.kind <;> rfl
  · show Host.Outcome.next (startHead s) = _
    rw [startHead_eq, startHead_does, headStarted_idle h, putEngine_engine_eq]
  · have hidle : ∀ due finish, endInFlight due finish s = s := fun due finish => by rw [endInFlight, hi]
    exact ⟨congrArg Host.Outcome.next (hidle _ _), congrArg Host.Outcome.next (hidle _ _)⟩
  · intro p r q complete lag found d finish
    have hcomplete : complete ↔ slicesNeeded q.kind ≤ f.eligible := by
      simp only [complete]
      cases q.kind <;> rfl
    have hfinish : ∀ o peak c, (searchedRecord o peak f r).canceller = c → finish o peak c =
        raise (.echo p (.outcome o) c.state c.window c.erle (some ⟨q, o, f.eligible, f.elapsed, peak⟩))
          (searchEnded o peak f s) := by
      intro o peak c hc
      subst hc
      have he := escalates_iff o q r.params.ecAutoSearch
      by_cases hn : escalates o q r.params.ecAutoSearch = true
      · simp only [finish, if_pos (he.1 hn)]
        rw [searchEnded_follow (if_pos hn)]
        cases s.engine.followUp <;> rfl
      · simp only [finish, if_neg (mt he.2 hn)]
        rw [searchEnded_follow (if_neg hn)]
        rfl
    have hcompletes : ∀ o c, processes s p = true → complete →
        completionOutcome s.device.peakRatio r.canceller.window f s.engine.accumulators = o →
        (searchedRecord o (some lag) f r).canceller = c → exec .searchCompletes s = .next (finish o (some lag) c) := by
      intro o c hp hn ho hc
      rw [hfinish o (some lag) c hc]
      exact exec_searchCompletes_due hf hp (hcomplete.1 hn) ho hc
    refine ⟨fun hp hn => ⟨fun hno => ?_, fun hyes hd => ?_, fun hyes hd hrun => ?_⟩, fun h => ?_, fun hp hn ht => ?_, fun h => ?_⟩
    · exact hcompletes .noPeak _ hp hn (by rw [completionOutcome, if_neg (Bool.eq_false_iff.1 hno)]) rfl
    · exact hcompletes .foundSame _ hp hn (by rw [completionOutcome, if_pos hyes]; exact if_pos hd) rfl
    · refine hcompletes .foundMoved _ hp hn (by rw [completionOutcome, if_pos hyes]; exact if_neg hd) ?_
      exact (moveWindow_cancelling ((cancelling_iff _).2 hrun) d).trans (if_neg hd)
    · exact congrArg Host.Outcome.next (endInFlight_idle hf fun ⟨hp, hc⟩ => h ⟨hp, hcomplete.2 ((searchComplete_iff f).1 hc)⟩)
    · show Host.Outcome.next (endInFlight _ _ s) = _
      rw [endInFlight_due hf hp ((searchTimedOut_iff _ f).2 ⟨fun hc => hn (hcomplete.2 hc), ht⟩),
        raise_endSearch hf (c := r.canceller) rfl, hfinish .timedOut none r.canceller rfl]
    · refine congrArg Host.Outcome.next (endInFlight_idle hf fun ⟨hp, hc⟩ => h ?_)
      obtain ⟨hn, ht⟩ := (searchTimedOut_iff _ f).1 hc
      exact ⟨hp, fun hc => hn (hcomplete.1 hc), ht⟩

end Sys2Proof.Machine

/-! # The Delay Search Engine in order (R84, R85, R88 to R92, R96)

What the operations of the engine keep, said of the engine alone: the positions that may be searched and the window starts are
given. -/

namespace Sys2Proof.Machine

/-! ## The accumulators and the record in flight (R84, R89, R91) -/

/-- The range of one accumulator (R91). -/
def Within48 (v : Int) : Prop := -140737488355328 ≤ v ∧ v ≤ 140737488355327

theorem accumulatorsOk_mapIdx {acc : List Int} {g : Nat → Int → Int} (h : AccumulatorsOk acc)
    (hg : ∀ l v, Within48 v → Within48 (g l v)) : AccumulatorsOk (acc.mapIdx g) := by
  obtain ⟨hlen, hv⟩ := h
  refine ⟨List.length_mapIdx.trans hlen, fun v hm => ?_⟩
  obtain ⟨l, hl, rfl⟩ := List.mem_mapIdx.1 hm
  exact hg l _ (hv _ (List.getElem_mem hl))

theorem within48_saturate (v : Int) : Within48 (saturate48 v) := by
  unfold Within48 saturate48 clampInt
  omega

theorem accumulatorsOk_clearSpan {acc : List Int} (h : AccumulatorsOk acc) (first last : Nat) :
    AccumulatorsOk (clearSpan first last acc) :=
  accumulatorsOk_mapIdx h fun l v hv => by
    split
    · exact ⟨by decide, by decide⟩
    · exact hv

theorem accumulatorsOk_accumulateSpan {acc : List Int} (h : AccumulatorsOk acc) (history ys : List Int) (first last : Nat) :
    AccumulatorsOk (accumulateSpan history ys first last acc) :=
  accumulatorsOk_mapIdx h fun l v hv => by
    split
    · exact within48_saturate _
    · exact hv

/-- A search starts with a span within 0..2047 and nothing counted (R89). -/
theorem inFlightOk_start (x : SearchEntry) {d : Nat} (hd : d ≤ 1792) : InFlightOk (startedFlight x d) := by
  unfold InFlightOk startedFlight searchSpan
  cases x.request.kind with
  | long => simp
  | short =>
    dsimp only
    omega

/-! ## What an engine holds -/

/-- The positions the engine holds may be searched, and it holds each once; `ok` says what holds of the record in flight. An IDLE
engine may still have a queue: so it is between the end of a search and the start of the head (R95). -/
structure EngineHolds (ok : InFlight → Prop) (may : PosIx → Bool) (e : Engine) : Prop where
  accumulators : AccumulatorsOk e.accumulators
  followUp : e.inFlight = none → e.followUp = none
  nodup : (queuedPositions e).Nodup
  waiting : ∀ q ∈ queuedPositions e, may q = true
  flying : ∀ f, e.inFlight = some f → f.entry.position ∉ queuedPositions e ∧ may f.entry.position = true ∧ ok f

/-- The queue of an IDLE engine is empty (R85). -/
def QueueStarts (e : Engine) : Prop := e.inFlight = none → e.queue = []

theorem engineOk_iff (s : State) :
    EngineOk s ↔ EngineHolds InFlightOk (searchable s) s.engine ∧ QueueStarts s.engine := by
  constructor
  · rintro ⟨hacc, hidle, hnodup, hwait, hfly⟩
    exact ⟨⟨hacc, fun hi => (hidle hi).1, hnodup, hwait, hfly⟩, fun hi => (hidle hi).2⟩
  · rintro ⟨h, hq⟩
    exact ⟨h.accumulators, fun hi => ⟨h.followUp hi, hq hi⟩, h.nodup, h.waiting, h.flying⟩

/-- The engine holds something for a position (R85). -/
def Holds (e : Engine) (q : PosIx) : Prop := q ∈ queuedPositions e ∨ ∃ f, e.inFlight = some f ∧ f.entry.position = q

theorem not_holds_of_heldFields {s : State} {p : PosIx} (h : heldFields s p = none) : ¬Holds s.engine p := by
  obtain ⟨hf, hq⟩ := (heldFields_none_iff s p).1 h
  rintro (hw | ⟨f, hi, hp⟩)
  · obtain ⟨x, hx, hp⟩ := List.mem_map.1 hw
    exact hq x hx hp
  · exact hf f hi hp

theorem mem_queuedPositions_iff {e : Engine} {q : PosIx} : q ∈ queuedPositions e ↔ ∃ x ∈ e.queue, x.position = q := List.mem_map

section
variable {ok ok' : InFlight → Prop} {may may' : PosIx → Bool} {e : Engine} {p : PosIx}

theorem EngineHolds.mono (h : EngineHolds ok may e) (hm : ∀ q, Holds e q → may q = true → may' q = true)
    (hk : ∀ f, e.inFlight = some f → ok f → ok' f) : EngineHolds ok' may' e where
  accumulators := h.accumulators
  followUp := h.followUp
  nodup := h.nodup
  waiting q hq := hm q (.inl hq) (h.waiting q hq)
  flying f hf := by
    obtain ⟨hn, hp, hok⟩ := h.flying f hf
    exact ⟨hn, hm _ (.inr ⟨f, hf, rfl⟩) hp, hk f hf hok⟩

/-! ## Starts and requests (R88, R89) -/

/-- An entry starts whose position the queue does not hold (R88, R89). -/
theorem EngineHolds.started (h : EngineHolds ok may e) (hk : ∀ f, InFlightOk f → ok f) {x : SearchEntry}
    (hx : x.position ∉ queuedPositions e) (hm : may x.position = true) {d : Nat} (hd : d ≤ 1792) :
    EngineHolds ok may (startedEngine x d e) where
  accumulators := accumulatorsOk_clearSpan h.accumulators _ _
  followUp _ := rfl
  nodup := h.nodup
  waiting := h.waiting
  flying f hf := by
    cases hf
    exact ⟨hx, hm, hk _ (inFlightOk_start x hd)⟩

/-- The head of the queue starts (R89). -/
theorem EngineHolds.headStarted (h : EngineHolds InFlightOk may e) {window : PosIx → Nat} (hw : ∀ q, window q ≤ 1792) :
    EngineHolds InFlightOk may (headStarted window e) ∧ QueueStarts (headStarted window e) := by
  by_cases hidle : e.inFlight ≠ none ∨ e.queue = []
  · rw [headStarted_idle hidle]
    exact ⟨h, fun hi => hidle.resolve_left (not_not_intro hi)⟩
  · obtain ⟨hi, hq⟩ := not_or.1 hidle
    have hi := not_not.1 hi
    obtain ⟨x, rest, hq⟩ := List.exists_cons_of_ne_nil hq
    have hpos : queuedPositions e = x.position :: rest.map SearchEntry.position := by rw [queuedPositions, hq]; rfl
    have hnodup := h.nodup
    have hwait := h.waiting
    rw [hpos] at hnodup hwait
    obtain ⟨hx, hrest⟩ := List.nodup_cons.1 hnodup
    have htail : EngineHolds InFlightOk may { e with queue := rest } :=
      ⟨h.accumulators, h.followUp, hrest, fun q hm => hwait q (List.mem_cons_of_mem _ hm), fun f hf => nomatch hi.symm.trans hf⟩
    rw [headStarted_head hi hq]
    exact ⟨htail.started (fun _ hok => hok) hx (hwait _ List.mem_cons_self) (hw _), fun hn => nomatch hn⟩

theorem EngineHolds.followed (h : EngineHolds ok may e) {f : InFlight} (hf : e.inFlight = some f) (u : Option SearchRequest) :
    EngineHolds ok may { e with followUp := u } where
  accumulators := h.accumulators
  followUp hi := by
    rw [hf] at hi
    cases hi
  nodup := h.nodup
  waiting := h.waiting
  flying := h.flying

/-- A queue with other requests at the same positions (R88). -/
theorem EngineHolds.requeued (h : EngineHolds ok may e) {q : List SearchEntry}
    (hq : q.map SearchEntry.position = queuedPositions e) : EngineHolds ok may { e with queue := q } where
  accumulators := h.accumulators
  followUp := h.followUp
  nodup := by rw [queuedPositions, hq]; exact h.nodup
  waiting := by rw [queuedPositions, hq]; exact h.waiting
  flying := by rw [queuedPositions, hq]; exact h.flying

/-- New entries at the tail, of positions that the engine holds nothing for. -/
theorem EngineHolds.appended (h : EngineHolds ok may e) {x : SearchEntry} (hx : ¬Holds e x.position)
    (hm : may x.position = true) : EngineHolds ok may { e with queue := e.queue ++ [x] } := by
  have hq : queuedPositions { e with queue := e.queue ++ [x] } = queuedPositions e ++ [x.position] := List.map_append
  obtain ⟨hn, hfly⟩ := not_or.1 hx
  refine ⟨h.accumulators, h.followUp, ?_, fun q hm' => ?_, fun f hf => ?_⟩
  · rw [hq]
    exact List.nodup_append.2 ⟨h.nodup, List.nodup_singleton _, fun a ha b hb => by
      rw [List.mem_singleton.1 hb]
      exact fun e => hn (e ▸ ha)⟩
  · rw [hq] at hm'
    obtain hm' | hm' := List.mem_append.1 hm'
    · exact h.waiting q hm'
    · rw [List.mem_singleton.1 hm']
      exact hm
  · obtain ⟨hnf, hpf, hok⟩ := h.flying f hf
    refine ⟨fun hm' => ?_, hpf, hok⟩
    rw [hq] at hm'
    obtain hm' | hm' := List.mem_append.1 hm'
    · exact hnf hm'
    · exact hfly ⟨f, hf, List.mem_singleton.1 hm'⟩

theorem map_position_mergeQueued (p : PosIx) (r : SearchRequest) (q : List SearchEntry) :
    (mergeQueued p r q).map SearchEntry.position = q.map SearchEntry.position := by
  unfold mergeQueued
  rw [List.map_map]
  refine List.map_congr_left fun x _ => ?_
  dsimp only [Function.comp]
  split <;> rfl

/-- A request for a position that may be searched, in each of R88's cases. -/
theorem EngineHolds.placeRequest {s : State} (h : EngineHolds ok may s.engine) (hk : ∀ f, InFlightOk f → ok f) (hm : may p = true)
    (hw : (getPos s p).canceller.window ≤ 1792) (r : SearchRequest) : EngineHolds ok may (placeRequest p r s).1.engine := by
  cases hf : inFlightFor s p with
  | some f =>
    rw [placeRequest_followUp hf]
    exact h.followed (Option.filter_eq_some_iff.1 hf).1 _
  | none =>
    by_cases hq : ∃ x ∈ s.engine.queue, x.position = p
    · rw [placeRequest_merged hf hq]
      exact h.requeued (map_position_mergeQueued ..)
    · have hn : p ∉ queuedPositions s.engine := fun hp => hq (mem_queuedPositions_iff.1 hp)
      have hq' : ∀ x ∈ s.engine.queue, x.position ≠ p := fun x hx hp => hq ⟨x, hx, hp⟩
      by_cases hi : s.engine.inFlight = none
      · rw [placeRequest_started hi hq', startEntry_eq]
        exact h.started hk (x := ⟨p, r⟩) hn hm hw
      · rw [placeRequest_queued hi hf hq']
        refine h.appended (x := ⟨p, r⟩) ?_ hm
        rintro (hp | ⟨f, hff, hp⟩)
        · exact hn hp
        · exact (inFlightFor_none_iff s p).1 hf f hff hp

theorem queueStarts_placeRequest {s : State} (h : QueueStarts s.engine) (p : PosIx) (r : SearchRequest) :
    QueueStarts (placeRequest p r s).1.engine := by
  cases hf : inFlightFor s p with
  | some f =>
    rw [placeRequest_followUp hf]
    exact h
  | none =>
    by_cases hq : ∃ x ∈ s.engine.queue, x.position = p
    · rw [placeRequest_merged hf hq]
      intro hi
      obtain ⟨x, hx, -⟩ := hq
      rw [h hi] at hx
      cases hx
    · have hq' : ∀ x ∈ s.engine.queue, x.position ≠ p := fun x hx hp => hq ⟨x, hx, hp⟩
      by_cases hi : s.engine.inFlight = none
      · rw [placeRequest_started hi hq']
        exact fun hn => nomatch hn
      · rw [placeRequest_queued hi hf hq']
        exact fun hn => absurd hn hi

/-! ## Ends and cancellations (R95, R96) -/

/-- A search that is in flight leaves, and its follow-up joins the tail (R95). -/
theorem EngineHolds.released (h : EngineHolds ok may e) {f : InFlight} (hf : e.inFlight = some f) (u : Option SearchRequest) :
    EngineHolds ok' may (releasedEngine f.entry.position u e) := by
  obtain ⟨hn, hp, -⟩ := h.flying f hf
  have hleft : EngineHolds ok' may { e with inFlight := none, followUp := none } :=
    ⟨h.accumulators, fun _ => rfl, h.nodup, h.waiting, fun g hg => nomatch hg⟩
  cases u with
  | none =>
    rw [releasedEngine, Option.toList_none, List.map_nil, List.append_nil]
    exact hleft
  | some r =>
    refine hleft.appended (x := ⟨f.entry.position, r⟩) ?_ hp
    rintro (hm | ⟨g, hg, -⟩)
    · exact hn hm
    · cases hg

/-- Nothing of a position is left, which then need not be searchable (R96). -/
theorem EngineHolds.dropped (h : EngineHolds ok may e) (hm : ∀ q, q ≠ p → may q = true → may' q = true) :
    EngineHolds ok may' (droppedEngine e p) := by
  have hsub : (queuedPositions (droppedEngine e p)).Sublist (queuedPositions e) := List.filter_sublist.map _
  have hne : ∀ q ∈ queuedPositions (droppedEngine e p), q ≠ p := fun q hq => by
    obtain ⟨x, hx, rfl⟩ := mem_queuedPositions_iff.1 hq
    exact mem_droppedEngine hx
  refine ⟨h.accumulators, fun hi => ?_, h.nodup.sublist hsub,
    fun q hq => hm q (hne q hq) (h.waiting q (hsub.subset hq)), fun f hf => ?_⟩
  · simp only [droppedEngine] at hi ⊢
    split
    · rfl
    · rename_i hno
      rw [if_neg hno] at hi
      exact h.followUp hi
  · simp only [droppedEngine] at hf
    split at hf
    · cases hf
    · rename_i hno
      obtain ⟨hn, hp, hok⟩ := h.flying f hf
      refine ⟨fun hq => hn (hsub.subset hq), hm _ (fun hp => hno ?_) hp, hok⟩
      rw [hf]
      simp [hp]

/-- The searches of a position are cancelled, and the head starts (R96). -/
theorem engineHolds_cancelled {s : State} (h : EngineHolds InFlightOk may s.engine) (hq : QueueStarts s.engine)
    (hm : ∀ q, q ≠ p → may q = true → may' q = true) (hw : ∀ q, (getPos s q).canceller.window ≤ 1792) :
    EngineHolds InFlightOk may' (cancelledEngine s p) ∧ QueueStarts (cancelledEngine s p) := by
  rw [cancelledEngine_eq]
  split
  · exact (h.dropped hm).headStarted hw
  · rename_i hno
    have hnot := not_holds_of_heldFields (Option.not_isSome_iff_eq_none.1 hno)
    exact ⟨h.mono (fun q hh => hm q fun e => hnot (e ▸ hh)) fun _ _ hok => hok, hq⟩

/-! ## A slice of the position in flight (R90, R92) -/

/-- What holds of the record in flight once it has counted a slice: its search may be due to end (R92). -/
def CountedOk (f : InFlight) : Prop :=
  f.first ≤ f.last ∧ f.last ≤ 2047 ∧ f.eligible ≤ slicesNeeded f.entry.request.kind ∧ f.elapsed ≤ 12500

theorem inFlightOk_iff (f : InFlight) :
    InFlightOk f ↔ f.first ≤ f.last ∧ f.last ≤ 2047 ∧ f.eligible < slicesNeeded f.entry.request.kind ∧ f.elapsed < 12500 := by
  unfold InFlightOk
  cases f.entry.request.kind <;> rfl

theorem countedOk_of_inFlightOk {f : InFlight} (h : InFlightOk f) : CountedOk f := by
  obtain ⟨hspan, hlast, hn, ht⟩ := (inFlightOk_iff f).1 h
  exact ⟨hspan, hlast, hn.le, ht.le⟩

theorem countedOk_countedFlight {f : InFlight} (h : InFlightOk f) (active : Bool) : CountedOk (countedFlight active f) := by
  obtain ⟨hspan, hlast, hn, ht⟩ := (inFlightOk_iff f).1 h
  refine ⟨hspan, hlast, ?_, ht⟩
  cases active with
  | true => exact hn
  | false => exact hn.le

/-- A search that is not at its end goes on within its ranges, the time-out being within its own (R92, R98). -/
theorem inFlightOk_of_countedOk {s : State} {f : InFlight} (h : CountedOk f) (ht : s.device.searchTimeout ≤ 12500)
    (hn : ¬AtEnd s f) : InFlightOk f := by
  obtain ⟨hspan, hlast, -, -⟩ := h
  obtain ⟨hc, hl⟩ := not_or.1 hn
  exact (inFlightOk_iff f).2 ⟨hspan, hlast, Nat.lt_of_not_le hc, (Nat.lt_of_not_le hl).trans_le ht⟩

theorem EngineHolds.searched (h : EngineHolds InFlightOk may e) (p : PosIx) (w : SliceWork) :
    EngineHolds CountedOk may (searchedEngine p w e) := by
  unfold searchedEngine
  split
  · exact h.mono (fun _ _ hm => hm) fun f _ hf => countedOk_of_inFlightOk hf
  · rename_i f hf
    have hi : e.inFlight = some f := (Option.filter_eq_some_iff.1 hf).1
    obtain ⟨hn, hp, hok⟩ := h.flying f hi
    rw [accumulate_eq]
    refine ⟨?_, fun hc => (nomatch hc), h.nodup, h.waiting, fun g hg => ?_⟩
    · dsimp only
      split
      · exact accumulatorsOk_accumulateSpan h.accumulators ..
      · exact h.accumulators
    · cases hg
      exact ⟨hn, hp, countedOk_countedFlight hok _⟩

end

end Sys2Proof.Machine

/-! # What leaves the searches: the calls, the cancellers' states and window starts, and the engine -/

namespace Sys2Proof.Machine

/-- What a search depends on at a position: whether a call is present, the canceller's mode and state, and the window start. -/
def searchView (r : Position) : Bool × CancellerMode × CancellerState × Nat :=
  (callPresent r.call, r.canceller.mode, r.canceller.state, r.canceller.window)

/-- The canceller's state fits its mode and the call, and a window starts within the history (R55, R63). -/
def SearchFits (r : Position) : Prop := stateFits r.call r.canceller = true ∧ r.canceller.window ≤ 1792

/-- The engine is in order, and every position's canceller fits. -/
structure SearchesHold (s : State) : Prop where
  fits : ∀ p, SearchFits (getPos s p)
  holds : EngineHolds InFlightOk (searchable s) s.engine
  starts : QueueStarts s.engine

/-- Two states with the same engine, whose positions a search sees alike. -/
structure SameSearches (s t : State) : Prop where
  view : ∀ p, searchView (getPos t p) = searchView (getPos s p)
  engine : t.engine = s.engine

theorem searchFits_congr {x y : Position} (h : searchView x = searchView y) (hy : SearchFits y) : SearchFits x := by
  simp only [searchView, Prod.mk.injEq] at h
  obtain ⟨hp, hm, hs, hw⟩ := h
  unfold SearchFits stateFits
  rw [hp, hm, hs, hw]
  exact hy

theorem window_of_searchView {x y : Position} (h : searchView x = searchView y) : x.canceller.window = y.canceller.window := by
  simp only [searchView, Prod.mk.injEq] at h
  obtain ⟨-, -, -, hw⟩ := h
  exact hw

theorem callPresent_of_searchView {x y : Position} (h : searchView x = searchView y) :
    callPresent x.call = callPresent y.call := by
  simp only [searchView, Prod.mk.injEq] at h
  obtain ⟨hp, -⟩ := h
  exact hp

theorem searchable_congr {s t : State} {p q : PosIx} (h : searchView (getPos t q) = searchView (getPos s p)) :
    searchable t q = searchable s p := by
  simp only [searchView, Prod.mk.injEq] at h
  obtain ⟨hp, -, hs, -⟩ := h
  rw [searchable, searchable, hp, hs]

theorem searchable_iff (s : State) (p : PosIx) :
    searchable s p = true ↔ callPresent (getPos s p).call = true ∧ cancelling (getPos s p).canceller.state = true := by
  rw [searchable, Bool.and_eq_true]

/-- A canceller that runs runs in a call (R63). -/
theorem SearchFits.searchable {s : State} {p : PosIx} (h : SearchFits (getPos s p))
    (hc : cancelling (getPos s p).canceller.state = true) : searchable s p = true :=
  (searchable_iff s p).2 ⟨((stateFits_cancelling hc).1 h.1).2, hc⟩

section
variable {s t u : State} {p : PosIx} {w : PlayerId} {r : Position} {e : Engine}

theorem SameSearches.rfl : SameSearches s s := ⟨fun _ => Eq.refl _, Eq.refl _⟩

theorem SameSearches.trans (h : SameSearches s t) (g : SameSearches t u) : SameSearches s u :=
  ⟨fun p => (g.view p).trans (h.view p), g.engine.trans h.engine⟩

theorem SameSearches.ite {c : Prop} [Decidable c] (h : SameSearches s t) (g : SameSearches s u) :
    SameSearches s (if c then t else u) := by
  split
  · exact h
  · exact g

theorem SameSearches.still (hp : t.positions = s.positions) (he : t.engine = s.engine) : SameSearches s t :=
  ⟨fun p => by rw [getPos, getPos, hp], he⟩

theorem SameSearches.of_bare (h : bare t = bare s) : SameSearches s t := .still (positions_of_bare h) (engine_of_bare h)

theorem SameSearches.of_portless (h : portless t = portless s) : SameSearches s t := by
  have he := congrArg State.engine h
  exact .still (positions_of_portless h) he

theorem SameSearches.of_storeless (h : storeless t = storeless s) : SameSearches s t := by
  have he := congrArg State.engine h
  exact .still (positions_of_storeless h) he

theorem sameSearches_putPos (h : searchView r = searchView (getPos s p)) : SameSearches s (putPos s p r) := by
  refine ⟨fun q => ?_, Eq.refl _⟩
  rw [getPos_putPos]
  split
  · rename_i hq
    rw [h, hq]
  · rfl

theorem sameSearches_raise (b : ReportBody) (s : State) : SameSearches s (raise b s) := .of_bare (bare_raise b s)

theorem sameSearches_raiseAll (bs : List ReportBody) (s : State) : SameSearches s (raiseAll bs s) := .of_bare (bare_raiseAll bs s)

/-! ## Players, tones and calls -/

theorem sameSearches_player {pl : Player} (h : bare t = bare (putPlayer s p w pl)) : SameSearches s t := by
  have hp : SameSearches s (putPlayer s p w pl) := sameSearches_putPos (by cases w <;> rfl)
  exact hp.trans (.of_bare h)

theorem sameSearches_endCurrent (p : PosIx) (w : PlayerId) (reason : LeaveReason) (s : State) :
    SameSearches s (endCurrent p w reason s) := by
  have hb := bare_endCurrent p w reason s
  split at hb
  · exact sameSearches_player hb
  · exact .of_bare hb

theorem sameSearches_dropLists (p : PosIx) (w : PlayerId) (reason : LeaveReason) (sel : Item → Bool) (s : State) :
    SameSearches s (dropLists p w reason sel s) := sameSearches_player (bare_dropLists p w reason sel s)

theorem sameSearches_clearPlayer (p : PosIx) (w : PlayerId) (reason : LeaveReason) (s : State) :
    SameSearches s (clearPlayer p w reason s) := (sameSearches_dropLists ..).trans (sameSearches_endCurrent ..)

theorem sameSearches_playItem (p : PosIx) (w : PlayerId) (m : PlayMode) (it : Item) (s : State) :
    SameSearches s (playItem p w m it s) := by
  cases m with
  | now => exact sameSearches_player (bare_playNowItem p w it s)
  | interrupt => exact sameSearches_player (bare_playInterruptItem p w it s)
  | next => exact sameSearches_player (bare_playNextItem p w it s)
  | only => exact sameSearches_player (bare_playOnlyItem p w it s)

theorem sameSearches_clearTone (p : PosIx) (s : State) : SameSearches s (clearTone p s) := by
  have h := (leaves_self s p).clearTone
  have hr : SameSearches s (putPos s p { getPos s p with tone := stoppedTone (getPos s p).tone }) :=
    sameSearches_putPos (Eq.refl _)
  exact hr.trans (.of_bare h.1)

/-- A change of the call state in which a call stays, or stays away. -/
theorem sameSearches_setCall {call : CallState} (h : callPresent call = callPresent (getPos s p).call) :
    SameSearches s (setCall p call s) := sameSearches_putPos (by rw [searchView, h]; rfl)

/-- A whisper done leaves the call connected (R7). -/
theorem sameSearches_whisperCheck (p : PosIx) (was : Bool) (s : State) : SameSearches s (whisperCheck p was s) := by
  unfold whisperCheck
  split
  · rename_i h
    obtain ⟨-, hc, -⟩ := h
    have hcall : SameSearches s (setCall p .connected s) := sameSearches_setCall (by rw [hc]; rfl)
    exact (hcall.trans (sameSearches_clearPlayer ..)).trans (sameSearches_raise ..)
  · exact .rfl

theorem sameSearches_closeStream (i : StreamIx) (s : State) : SameSearches s (closeStream i s) := by
  have hgive : ∀ p w t, SameSearches t (giveUpStream i p w t) := fun p w t =>
    .ite ((sameSearches_dropLists ..).trans (sameSearches_endCurrent ..)) (sameSearches_dropLists ..)
  have hgiven := foldl_keeps (P := SameSearches s) (fun t x ht => ht.trans (hgive x.1 x.2 t)) (streamHolders i s) s .rfl
  have hwhispered : SameSearches s
      (closeWhispers (streamHolders i s) s ((streamHolders i s).foldl (fun t x => giveUpStream i x.1 x.2 t) s)) :=
    foldl_keeps (P := SameSearches s) (fun t x ht => .ite (ht.trans (sameSearches_whisperCheck ..)) ht) _ _ hgiven
  exact hwhispered.trans (.still (Eq.refl _) (Eq.refl _))

end

end Sys2Proof.Machine

/-! # What the parts of a step keep of the searches (R6, R10, R11, R20, R77, R88, R95, R96) -/

namespace Sys2Proof.Machine

section
variable {s t u : State} {p : PosIx} {r : Position} {e : Engine} {f : InFlight}

theorem SearchesHold.same (h : SearchesHold s) (hs : SameSearches s t) : SearchesHold t where
  fits q := searchFits_congr (hs.view q) (h.fits q)
  holds := by
    rw [hs.engine]
    exact h.holds.mono (fun q _ hq => (searchable_congr (hs.view q)).trans hq) fun _ _ hok => hok
  starts := by
    rw [hs.engine]
    exact h.starts

theorem SearchesHold.ite {c : Prop} [Decidable c] (h : SearchesHold s) (g : SearchesHold t) :
    SearchesHold (if c then s else t) := by
  split
  · exact h
  · exact g

theorem SearchesHold.window (h : SearchesHold s) (q : PosIx) : (getPos s q).canceller.window ≤ 1792 := (h.fits q).2

/-- A position that may still be searched if it could before. -/
theorem SearchesHold.putPos (h : SearchesHold s) (hr : SearchFits r)
    (hm : searchable s p = true → callPresent r.call = true ∧ cancelling r.canceller.state = true) :
    SearchesHold (putPos s p r) where
  fits q := by
    rw [getPos_putPos]
    split
    · exact hr
    · exact h.fits q
  holds := h.holds.mono
    (fun q _ hq => by
      rw [searchable_iff, getPos_putPos]
      split
      · rename_i hpq
        exact hm (hpq ▸ hq)
      · exact (searchable_iff s q).1 hq)
    fun _ _ hok => hok
  starts := h.starts

/-- A position's searches are cancelled, and it need not be searchable any more (R96). -/
theorem SearchesHold.cancelled (h : SearchesHold s) (hv : ∀ q, q ≠ p → searchView (getPos t q) = searchView (getPos s q))
    (hr : SearchFits (getPos t p)) (he : t.engine = cancelledEngine s p) : SearchesHold t := by
  obtain ⟨hh, hq⟩ := engineHolds_cancelled (p := p) (may' := searchable t) h.holds h.starts
    (fun q hq hm => (searchable_congr (hv q hq)).trans hm) h.window
  refine ⟨fun q => ?_, he ▸ hh, he ▸ hq⟩
  by_cases hq : q = p
  · exact hq ▸ hr
  · exact searchFits_congr (hv q hq) (h.fits q)

/-! ## Requests, starts and ends (R88, R89, R95) -/

theorem SearchesHold.placeRequest (h : SearchesHold s) (hm : searchable s p = true) (q : SearchRequest) :
    SearchesHold (placeRequest p q s).1 := by
  have hp : ∀ x, getPos (Machine.placeRequest p q s).1 x = getPos s x := fun x => by rw [placeRequest_eq, getPos_putEngine]
  refine ⟨fun x => by rw [hp]; exact h.fits x, ?_, queueStarts_placeRequest h.starts p q⟩
  exact (h.holds.placeRequest (fun _ hok => hok) hm (h.window p) q).mono
    (fun x _ hx => (searchable_congr (by rw [hp])).trans hx) fun _ _ hok => hok

/-- The head starts on an engine that is in order but for an IDLE engine's queue (R89). -/
theorem searchesHold_startHead (hfit : ∀ p, SearchFits (getPos s p)) (h : EngineHolds InFlightOk (searchable s) s.engine) :
    SearchesHold (startHead s) := by
  obtain ⟨hh, hq⟩ := h.headStarted fun q => (hfit q).2
  rw [startHead_eq, startHead_does]
  exact ⟨hfit, hh, hq⟩

/-- The record of a position whose search ends: a window move leaves a canceller that runs running (R70, R94). -/
theorem searchFits_searchedRecord (h : SearchFits r) (o : SearchOutcome) (lag : Option Nat) (f : InFlight) :
    SearchFits (searchedRecord o lag f r) ∧
      (cancelling r.canceller.state = true → cancelling (searchedRecord o lag f r).canceller.state = true) := by
  obtain ⟨hs, hw⟩ := h
  unfold searchedRecord
  split
  · refine ⟨⟨(stateFits_moveWindow ..).trans hs, ?_⟩, fun hc => ?_⟩
    · dsimp only [moveWindow]
      split
      · exact (windowStart_within _).2
      · exact hw
    · dsimp only [moveWindow]
      split
      · rfl
      · exact hc
  · exact ⟨⟨hs, hw⟩, fun hc => hc⟩

/-- The end of a search, whatever its record had counted (R95). -/
theorem searchesHold_endSearch {ok : InFlight → Prop} (hfit : ∀ p, SearchFits (getPos s p))
    (h : EngineHolds ok (searchable s) s.engine) (hf : s.engine.inFlight = some f) (o : SearchOutcome) (lag : Option Nat) :
    SearchesHold (endSearch o lag f s).1 := by
  obtain ⟨hr, hc⟩ := searchFits_searchedRecord (hfit f.entry.position) o lag f
  rw [endSearch_does o lag hf]
  refine searchesHold_startHead (fun q => ?_) ((h.released hf _).mono (fun q _ hq => ?_) fun _ _ hok => hok)
  · rw [getPos_putEngine, getPos_putPos]
    split
    · exact hr
    · exact hfit q
  · rw [searchable_iff] at hq ⊢
    rw [getPos_putEngine, getPos_putPos]
    split
    · rename_i hpq
      subst hpq
      exact ⟨hq.1, hc hq.2⟩
    · exact hq

/-- The judgement of a search that has counted a slice (R92). -/
theorem searchesHold_judgeSearch (hfit : ∀ p, SearchFits (getPos s p)) (h : EngineHolds CountedOk (searchable s) s.engine)
    (hf : s.engine.inFlight = some f) (ht : s.device.searchTimeout ≤ 12500) : SearchesHold (judgeSearch f s).1 := by
  obtain ⟨o, lag, -, he⟩ | ⟨hn, he⟩ := judgeSearch_cases f s
  · rw [he]
    exact searchesHold_endSearch hfit h hf o lag
  · rw [he]
    refine ⟨hfit, h.mono (fun _ _ hm => hm) fun g hg hok => ?_, fun hi => ?_⟩
    · obtain rfl : f = g := Option.some.inj (hf.symm.trans hg)
      exact inFlightOk_of_countedOk hok ht hn
    · rw [hf] at hi
      cases hi

/-! ## Calls (R5 to R11) -/

/-- The canceller of a call that ends fits (R10, R64). -/
theorem searchFits_endCall {r' : Position} (h : SearchFits r) (hp : callPresent r'.call = false)
    (hc : r'.canceller = endCallCanceller r.canceller) : SearchFits r' := by
  obtain ⟨hs, hw⟩ := h
  rw [SearchFits, hc, endCallCanceller]
  split
  · rename_i hm
    exact ⟨by simp [stateFits, zeroedCanceller, zeroCounters, hm, hp], hw⟩
  · rename_i hm
    exact ⟨(stateFits_other hm _ _).trans hs, hw⟩

/-- The canceller of a call that begins fits, and runs in mode ON (R6). -/
theorem searchFits_prepare {r' : Position} (h : SearchFits r) (hp : callPresent r'.call = true) (hint : Option Nat)
    (hc : r'.canceller = prepareCanceller hint r.canceller) :
    SearchFits r' ∧ (r.canceller.mode = .on → cancelling r'.canceller.state = true) := by
  obtain ⟨hs, hw⟩ := h
  rw [SearchFits, hc, prepareCanceller]
  dsimp only
  split
  · rename_i hm
    exact ⟨⟨by simp [stateFits, zeroedCanceller, zeroCounters, hm, hp, cancelling], (windowStart_within _).2⟩, fun _ => rfl⟩
  · rename_i hm
    exact ⟨⟨(stateFits_other hm _ _).trans hs, hw⟩, fun hon => absurd hon hm⟩

/-- What a search sees of another position, and the engine, before CALL-CLEAR cancels the searches (R10). -/
theorem searchView_callEnding (p : PosIx) (s : State) :
    (∀ q, q ≠ p → searchView (getPos (callEnding p s) q) = searchView (getPos s q)) ∧ (callEnding p s).engine = s.engine := by
  have hquiet : SameSearches (setCall p .ready s) (clearCallTone p (playersCleared p s)) :=
    ((sameSearches_clearPlayer ..).trans (sameSearches_clearPlayer ..)).trans (.ite (sameSearches_clearTone ..) .rfl)
  refine ⟨fun q hq => ?_, by rw [callEnding, putCanceller, putPos_engine, hquiet.engine, setCall, putPos_engine]⟩
  rw [callEnding, putCanceller, getPos_putPos_ne _ _ _ _ fun e => hq e.symm, hquiet.view q, setCall,
    getPos_putPos_ne _ _ _ _ fun e => hq e.symm]

theorem searchesHold_clearCall (h : SearchesHold s) (p : PosIx) : SearchesHold (clearCall p s) := by
  obtain ⟨hview, hengine⟩ := searchView_callEnding p s
  have hself := cancellerView_clearCall p s p
  rw [if_pos rfl] at hself
  simp only [cancellerView, Prod.mk.injEq] at hself
  obtain ⟨-, hcall, hc⟩ := hself
  refine h.cancelled (p := p) (fun q hq => ?_) (searchFits_endCall (h.fits p) hcall hc) ?_
  · have hother := cancellerView_clearCall p s q
    rw [if_neg fun e => hq e.symm] at hother
    simp only [cancellerView, Prod.mk.injEq] at hother
    obtain ⟨-, hcall, hc⟩ := hother
    rw [searchView, searchView, hcall, hc]
  · rw [clearCall_eq, cancelSearches_engine]
    exact cancelledEngine_congr hengine fun q hq => window_of_searchView (hview q hq)

theorem searchesHold_closePosition (h : SearchesHold s) (p : PosIx) :
    SearchesHold (closePosition p s) ∧ callPresent (getPos (closePosition p s) p).call = false := by
  have hended : SearchesHold (endIfCalled p s) := .ite (searchesHold_clearCall h p) h
  have hvacant : SameSearches (endIfCalled p s) (setCall p .vacant (endIfCalled p s)) :=
    sameSearches_setCall (callPresent_endIfCalled p s).symm
  have hquiet := (hvacant.trans (sameSearches_clearPlayer p .agent .cleared _)).trans (sameSearches_clearTone p _)
  rw [closePosition_eq]
  generalize clearTone p (clearPlayer p .agent .cleared (setCall p .vacant (endIfCalled p s))) = v at hquiet ⊢
  have hclosed : SameSearches (endIfCalled p s) (putPos v p (closedRecord (getPos v p))) :=
    hquiet.trans (sameSearches_putPos rfl)
  exact ⟨hended.same hclosed, (callPresent_of_searchView (hclosed.view p)).trans (callPresent_endIfCalled p s)⟩

theorem searchesHold_closeIfOpen (h : SearchesHold s) (p : PosIx) :
    SearchesHold (closeIfOpen p s) ∧ callPresent (getPos (closeIfOpen p s) p).call = false := by
  unfold closeIfOpen
  split
  · rename_i hv
    exact ⟨h, by rw [hv]; rfl⟩
  · exact searchesHold_closePosition h p

theorem searchFits_reset (p : PosIx) : SearchFits (positionAtReset p) := ⟨rfl, Nat.zero_le _⟩

theorem searchesHold_resetPosition (h : SearchesHold s) (p : PosIx) : SearchesHold (resetPosition p s) := by
  have hz : SearchesHold (windowZeroed p s) :=
    h.putPos ⟨(h.fits p).1, Nat.zero_le _⟩ (searchable_iff s p).1
  obtain ⟨hclosed, hcall⟩ := searchesHold_closeIfOpen hz p
  rw [resetPosition_eq]
  refine hclosed.putPos (searchFits_congr (y := positionAtReset p) ?_ (searchFits_reset p)) fun hm => ?_
  · rw [searchView, searchView, resetRecord, hcall]
    rfl
  · have hp := ((searchable_iff _ p).1 hm).1
    rw [hcall] at hp
    cases hp

theorem searchesHold_takeOffer (h : SearchesHold s) (p : PosIx) (a b : Option Item) (hint : Option Nat) :
    SearchesHold (takeOffer p a b hint s) := by
  have hl := takeOffer_leaves s p a b hint
  generalize hr : offeredRecord a b hint (getPos s p) = r at hl
  have hcall : callPresent r.call = true := by rw [← hr]; cases a <;> rfl
  obtain ⟨hfit, hruns⟩ := searchFits_prepare (h.fits p) hcall hint (by rw [← hr]; rfl)
  have hput : SearchesHold (putPos s p r) := h.putPos hfit fun hm =>
    ⟨hcall, hruns ((stateFits_cancelling ((searchable_iff s p).1 hm).2).1 (h.fits p).1).1⟩
  have hasked : SearchesHold (putEngine (putPos s p r) (offeredEngine p hint r s)) := by
    unfold offeredEngine
    split
    · rename_i hon
      have hm : searchable (putPos s p r) p = true :=
        (searchable_iff _ p).2 (by rw [getPos_putPos_self]; exact ⟨hcall, hruns hon.1⟩)
      rw [← placeRequest_eq]
      exact hput.placeRequest hm _
    · exact hput
  exact hasked.same (.of_bare hl.1)

/-! ## Modes and canceller changes (R65 to R70, R77) -/

/-- EC-MODE brings the state that fits the new mode (R63, R77). -/
theorem searchFits_enterMode (h : SearchFits r) (m : CancellerMode) :
    SearchFits { r with canceller := enterMode m r.call r.canceller } := by
  obtain ⟨-, hw⟩ := h
  refine ⟨?_, ?_⟩
  · cases m with
    | off | bypass => rfl
    | on => cases hc : callPresent r.call <;> simp [stateFits, enterMode, hc, cancelling]
  · cases m with
    | off | bypass => exact hw
    | on => cases hc : callPresent r.call <;> simpa [enterMode, hc, zeroedCanceller, zeroCounters] using hw

theorem searchesHold_changeMode (h : SearchesHold s) (m : CancellerMode) (p : PosIx) : SearchesHold (changeMode m p s) := by
  have hfit := searchFits_enterMode (h.fits p) m
  by_cases hm : (getPos s p).canceller.mode = m
  · rw [changeMode_same hm]
    exact h
  · cases hc : cancelling (getPos s p).canceller.state with
    | true =>
      have hl := cancelSearches_putCanceller_leaves s p (enterMode m (getPos s p).call (getPos s p).canceller)
      rw [changeMode_cancelling hm hc]
      exact h.cancelled (p := p) (fun q hq => by rw [hl.getPos_ne hq]) (by rw [hl.getPos_self]; exact hfit) hl.engine
    | false =>
      rw [changeMode_idle hm hc]
      refine h.putPos hfit fun hs => ?_
      have hrun := ((searchable_iff s p).1 hs).2
      rw [hc] at hrun
      cases hrun

/-- A canceller that was changed keeps its mode and its window start, and runs if it ran before. -/
def RunsOn (c c' : Canceller) : Prop :=
  c'.mode = c.mode ∧ c'.window = c.window ∧ (cancelling c.state = true → cancelling c'.state = true)

theorem RunsOn.trans {a b c : Canceller} (h : RunsOn a b) (g : RunsOn b c) : RunsOn a c := by
  obtain ⟨hm, hw, hs⟩ := h
  obtain ⟨gm, gw, gs⟩ := g
  exact ⟨gm.trans hm, gw.trans hw, fun hc => gs (hs hc)⟩

/-- A canceller that runs on fits as it did. -/
theorem SearchFits.runsOn (h : SearchFits r) (hc : cancelling r.canceller.state = true) {r' : Position} (hcall : r'.call = r.call)
    (hr : RunsOn r.canceller r'.canceller) : SearchFits r' := by
  obtain ⟨hm, hw, hs⟩ := hr
  obtain ⟨hon, hp⟩ := (stateFits_cancelling hc).1 h.1
  exact ⟨(stateFits_cancelling (hs hc)).2 ⟨hm.trans hon, hcall ▸ hp⟩, hw ▸ h.2⟩

theorem SearchesHold.runs (h : SearchesHold s) (hc : cancelling (getPos s p).canceller.state = true) {c : Canceller}
    (hr : RunsOn (getPos s p).canceller c) : SearchesHold (putCanceller s p c) ∧ searchable (putCanceller s p c) p = true := by
  have hfit : SearchFits { getPos s p with canceller := c } := (h.fits p).runsOn hc rfl hr
  have hrun := hr.2.2 hc
  have hm := (h.fits p).searchable hc
  have hcall := ((searchable_iff s p).1 hm).1
  refine ⟨h.putPos hfit fun _ => ⟨hcall, hrun⟩, (searchable_iff _ p).2 ?_⟩
  rw [putCanceller, getPos_putPos_self]
  exact ⟨hcall, hrun⟩

theorem searchesHold_moveWindow (h : SearchesHold s) (p : PosIx) (lag : Nat) :
    SearchesHold (putCanceller s p (moveWindow (windowStart lag) (getPos s p).canceller)) := by
  obtain ⟨hs, hw⟩ := h.fits p
  refine h.putPos ⟨(stateFits_moveWindow ..).trans hs, ?_⟩ fun hm => ⟨((searchable_iff s p).1 hm).1, ?_⟩
  · dsimp only [moveWindow]
    split
    · exact (windowStart_within _).2
    · exact hw
  · dsimp only [moveWindow]
    split
    · rfl
    · exact ((searchable_iff s p).1 hm).2

/-! ## Resets of the part (R21, R182, R183) -/

theorem searchesHold_allReset (hp : t.positions = positionsAtReset) (he : t.engine = engineAtReset) : SearchesHold t := by
  have hr : ∀ p, getPos t p = positionAtReset p := fun p => by rw [getPos, hp, ← getPos_reset p]; rfl
  have hacc : AccumulatorsOk (List.replicate 2048 0) :=
    ⟨List.length_replicate, fun v hv => by rw [List.eq_of_mem_replicate hv]; decide⟩
  refine ⟨fun p => by rw [hr]; exact searchFits_reset p, ?_, fun _ => by rw [he]; rfl⟩
  rw [he]
  exact ⟨hacc, fun _ => rfl, List.nodup_nil, fun q hq => (nomatch hq), fun f hf => nomatch hf⟩

end

end Sys2Proof.Machine

/-! # What every command keeps of the searches -/

namespace Sys2Proof.Machine

section
variable {s : State}

theorem searchesHold_reset (h : SearchesHold s) (src : Nat) (b : List Byte) : SearchesHold (resetCommand src b s).1 := by
  unfold resetCommand
  split
  · exact h
  · split
    · refine onDevice_keeps src h ?_
      split
      · exact h
      · exact searchesHold_allReset rfl rfl
    · exact onPosition_keeps src h fun p => searchesHold_resetPosition h p

/-- SET-PARAM changes no call, no canceller and not the engine (R181). -/
theorem sameSearches_setParam (s : State) (src : Nat) (b : List Byte) : SameSearches s (setParamCommand src b s).1 := by
  unfold setParamCommand
  dsimp only
  split
  · exact .rfl
  · split
    · exact sameSearches_putPos rfl
    · exact .rfl
  · split
    · exact .still rfl rfl
    · exact .rfl

/-- CALL-HOLD is taken in a call (R9). -/
theorem callPresent_of_mayHold {c : CallState} (h : mayHold c ≠ false) : callPresent c = true := by
  cases c with
  | connected | held => rfl
  | vacant | ready | announce => exact absurd rfl h

/-- The commands of a call (R4 to R11). -/
theorem searchesHold_callCommands (h : SearchesHold s) (src : Nat) (b : List Byte) :
    SearchesHold (posOpenCommand src s).1 ∧ SearchesHold (posCloseCommand src s).1 ∧ SearchesHold (callOfferCommand src b s).1 ∧
      SearchesHold (callConnectCommand src s).1 ∧ SearchesHold (callHoldCommand src b s).1 ∧
      SearchesHold (callClearCommand src s).1 := by
  have hsame : ∀ {p call u}, callPresent call = callPresent (getPos s p).call → SameSearches (setCall p call s) u →
      SearchesHold (taken u).1 := fun hc hu => taken_keeps (P := SearchesHold) (h.same ((sameSearches_setCall hc).trans hu))
  refine ⟨?_, ?_, ?_, ?_, ?_, ?_⟩ <;> refine onPosition_keeps src h fun p => ?_
  · split
    · rename_i hv
      exact taken_keeps (P := SearchesHold) (h.same (sameSearches_putPos (by rw [searchView, searchView, hv]; rfl)))
    · exact h
  · exact (searchesHold_closeIfOpen h p).1
  · split
    · exact h
    · split
      · exact h
      · split
        · exact h
        · split
          · exact h
          · exact searchesHold_takeOffer h _ _ _ _
  · split
    · rename_i hc
      exact hsame (by rw [hc]; rfl) ((sameSearches_clearPlayer ..).trans (sameSearches_clearPlayer ..))
    · rename_i hc
      exact hsame (by rw [hc]; rfl) (sameSearches_clearPlayer ..)
    · exact h
    · exact h
    · exact h
  · split
    · exact h
    · rename_i hm
      split
      · exact h
      · exact hsame (p := p) (call := .held) (callPresent_of_mayHold hm).symm (sameSearches_playItem p .net .only _ _)
  · split
    · exact taken_keeps (P := SearchesHold) (searchesHold_clearCall h p)
    · exact h

/-- The commands of the canceller and the engine (R77 to R79, R87). -/
theorem searchesHold_echoCommands (h : SearchesHold s) (src : Nat) (b : List Byte) :
    SearchesHold (ecModeCommand src b s).1 ∧ SearchesHold (ecFreezeCommand src b s).1 ∧
      SearchesHold (windowSetCommand src b s).1 ∧ SearchesHold (searchCommand src b s).1 := by
  refine ⟨?_, ?_, ?_, ?_⟩ <;> refine onPosition_keeps src h fun p => ?_
  · split
    · exact h
    · exact searchesHold_changeMode h _ p
  · split
    · exact h
    · exact taken_keeps (P := SearchesHold) (h.same (sameSearches_putPos rfl))
  · split
    · exact h
    · exact searchesHold_moveWindow h p _
  · split
    · exact h
    · split
      · rename_i hm
        exact h.placeRequest ((searchable_iff s p).2 hm) _
      · exact h

/-- The commands of the players, the tone and the mute (R12, R125, R136, R157, R161). -/
theorem sameSearches_audioCommands (s : State) (src : Nat) (b : List Byte) :
    SameSearches s (muteCommand src b s).1 ∧ SameSearches s (playCommand src b s).1 ∧ SameSearches s (stopCommand src b s).1 ∧
      SameSearches s (toneStartCommand src b s).1 ∧ SameSearches s (toneStopCommand src s).1 := by
  have htone : ∀ p x, SameSearches s (spendDraw (putPos s p { getPos s p with tone := x })) := fun p x =>
    SameSearches.trans (t := putPos s p { getPos s p with tone := x }) (sameSearches_putPos rfl) (.still rfl rfl)
  refine ⟨?_, ?_, ?_, ?_, ?_⟩ <;> refine onPosition_keeps (P := SameSearches s) src .rfl fun p => ?_
  · split
    · exact .rfl
    · split
      · exact .rfl
      · exact taken_keeps (P := SameSearches s) (sameSearches_putPos rfl)
  · split
    · split
      · exact .rfl
      · split
        · exact .rfl
        · dsimp only
          split
          · exact .rfl
          · exact sameSearches_playItem ..
    · exact .rfl
  · split
    · exact (sameSearches_endCurrent ..).trans (sameSearches_whisperCheck ..)
    · exact (sameSearches_clearPlayer ..).trans (sameSearches_whisperCheck ..)
    · exact .rfl
  · split
    · exact .rfl
    · split
      · exact .rfl
      · split
        · exact .rfl
        · exact htone p _
  · exact htone p _

/-- The commands of the ports (R163, R168 to R170). -/
theorem sameSearches_portCommands (s : State) (src : Nat) (b : List Byte) :
    SameSearches s (sleepCommand src s).1 ∧ SameSearches s (wakeCommand src s).1 ∧
      SameSearches s (portSetCommand src b s).1 ∧ SameSearches s (portStatusCommand src s).1 := by
  refine ⟨?_, ?_, ?_, ?_⟩ <;> refine onDevice_keeps (P := SameSearches s) src .rfl ?_
  · split
    · exact .rfl
    · split
      · exact .rfl
      · exact .of_portless (portless_goToSleep s)
  · split
    · exact .of_portless (portless_portsEvent ..)
    · exact .rfl
  · split
    · split
      · exact .rfl
      · split
        · exact .rfl
        · exact .of_portless (portless_setPort ..)
    · exact .rfl
  · split
    · exact .rfl
    · exact .still rfl rfl

/-- The commands of the store (R107 to R113, R116). -/
theorem sameSearches_storeCommands (s : State) (src : Nat) (b : List Byte) :
    SameSearches s (clipAllocCommand src b s).1 ∧ SameSearches s (clipWriteCommand src b s).1 ∧
      SameSearches s (clipEndCommand src b s).1 ∧ SameSearches s (clipFreeCommand src b s).1 ∧
      SameSearches s (clipInfoCommand src b s).1 ∧ SameSearches s (storeCompactCommand src s).1 ∧
      SameSearches s (expandLoadCommand src b s).1 := by
  have hclip : ∀ {id act}, (∀ c, SameSearches s (act c).1) → SameSearches s (onDevice s src (onClip s id act)).1 := fun h =>
    onDevice_keeps (P := SameSearches s) src .rfl (onClip_keeps (P := SameSearches s) _ .rfl h)
  refine ⟨hclip fun c => ?_, hclip fun c => ?_, hclip fun c => ?_, hclip fun c => ?_, hclip fun c => .still rfl rfl,
    onDevice_keeps (P := SameSearches s) src .rfl ?_, onDevice_keeps (P := SameSearches s) src .rfl (.still rfl rfl)⟩
  · dsimp only
    (repeat' split) <;> exact .still rfl rfl
  · dsimp only
    (repeat' split) <;> exact .still rfl rfl
  · dsimp only
    split <;> exact .still rfl rfl
  · (repeat' split) <;> exact .still rfl rfl
  · (repeat' split) <;> exact .still rfl rfl

/-- The commands of the streams (R144 to R147, R152, R154). -/
theorem sameSearches_streamCommands (s : State) (src : Nat) (b : List Byte) :
    SameSearches s (streamOpenCommand src b s).1 ∧ SameSearches s (streamFillCommand src b s).1 ∧
      (∀ act, SameSearches s (streamRunCommand act src b s).1) ∧ SameSearches s (streamCloseCommand src b s).1 ∧
      SameSearches s (streamStatusCommand src b s).1 := by
  have hstream : ∀ {id act}, (∀ i, SameSearches s (act i).1) → SameSearches s (onDevice s src (onStream s id act)).1 := fun h =>
    onDevice_keeps (P := SameSearches s) src .rfl (onStream_keeps (P := SameSearches s) _ .rfl h)
  refine ⟨hstream fun i => ?_, hstream fun i => ?_, fun act => ?_, hstream fun i => ?_, hstream fun i => .rfl⟩
  · dsimp only
    (repeat' split) <;> exact .still rfl rfl
  · dsimp only
    (repeat' split) <;> exact .still rfl rfl
  · refine onDevice_keeps (P := SameSearches s) src .rfl ?_
    split
    · exact .rfl
    · refine onStream_keeps (P := SameSearches s) _ .rfl fun i => ?_
      split <;> exact .still rfl rfl
  · split
    · exact .rfl
    · exact taken_keeps (P := SameSearches s) (sameSearches_closeStream i s)

/-- The queries draw free values at most (R13, R80, R140, R181). -/
theorem sameSearches_queries (s : State) (src : Nat) (b : List Byte) :
    SameSearches s (posStatusCommand src s).1 ∧ SameSearches s (ecStatusCommand src s).1 ∧
      SameSearches s (playerStatusCommand src s).1 ∧ SameSearches s (getParamCommand src b s).1 := by
  refine ⟨onPosition_keeps (P := SameSearches s) src .rfl fun _ => .rfl,
    onPosition_keeps (P := SameSearches s) src .rfl fun _ => .rfl,
    onPosition_keeps (P := SameSearches s) src .rfl fun _ => .still rfl rfl, ?_⟩
  unfold getParamCommand
  dsimp only
  (repeat' split) <;> exact .rfl

/-- Every command keeps the searches (R177). -/
theorem searchesHold_perform (c : Command) (src : Nat) (b : List Byte) (s : State) (h : SearchesHold s) :
    SearchesHold (perform c src b s).1 := by
  obtain ⟨hopen, hclose, hoffer, hconnect, hhold, hclear⟩ := searchesHold_callCommands h src b
  obtain ⟨hmode, hfreeze, hwindow, hsearch⟩ := searchesHold_echoCommands h src b
  obtain ⟨hmute, hplay, hstop, htone, htoneStop⟩ := sameSearches_audioCommands s src b
  obtain ⟨hsleep, hwake, hset, hports⟩ := sameSearches_portCommands s src b
  obtain ⟨halloc, hwrite, hend, hfree, hinfo, hcompact, hload⟩ := sameSearches_storeCommands s src b
  obtain ⟨hsopen, hfill, hrun, hsclose, hsstatus⟩ := sameSearches_streamCommands s src b
  obtain ⟨hpos, hec, hplayer, hget⟩ := sameSearches_queries s src b
  cases c with
  | reset => exact searchesHold_reset h src b
  | sleep => exact h.same hsleep
  | wake => exact h.same hwake
  | portSet => exact h.same hset
  | portStatus => exact h.same hports
  | setParam => exact h.same (sameSearches_setParam s src b)
  | getParam => exact h.same hget
  | posOpen => exact hopen
  | posClose => exact hclose
  | callOffer => exact hoffer
  | callConnect => exact hconnect
  | callHold => exact hhold
  | callClear => exact hclear
  | mute => exact h.same hmute
  | posStatus => exact h.same hpos
  | ecMode => exact hmode
  | ecFreeze => exact hfreeze
  | search => exact hsearch
  | windowSet => exact hwindow
  | ecStatus => exact h.same hec
  | play => exact h.same hplay
  | stop => exact h.same hstop
  | playerStatus => exact h.same hplayer
  | toneStart => exact h.same htone
  | toneStop => exact h.same htoneStop
  | clipAlloc => exact h.same halloc
  | clipWrite => exact h.same hwrite
  | clipEnd => exact h.same hend
  | clipFree => exact h.same hfree
  | clipInfo => exact h.same hinfo
  | storeCompact => exact h.same hcompact
  | expandLoad => exact h.same hload
  | streamOpen => exact h.same hsopen
  | streamFill => exact h.same hfill
  | streamStart => exact h.same (hrun startedStream)
  | streamStop => exact h.same (hrun haltedStream)
  | streamClose => exact h.same hsclose
  | streamStatus => exact h.same hsstatus

end

end Sys2Proof.Machine

/-! # What a slice and the events keep of the searches (R56, R65 to R68, R90 to R92) -/

namespace Sys2Proof.Machine

/-! ## Stage 4 keeps a canceller that runs running (R56, R65 to R68) -/

theorem runsOn_divergence (lest ly : Nat) (c : Canceller) : RunsOn c (divergenceStep lest ly c).1 := by
  rw [divergenceStep_eq]
  split
  · exact ⟨rfl, rfl, fun _ => rfl⟩
  · exact ⟨rfl, rfl, fun hc => hc⟩

theorem runsOn_convergence (conv : Nat) (c : Canceller) : RunsOn c (convergenceStep conv c).1 := by
  rw [convergenceStep_eq]
  split
  · exact ⟨rfl, rfl, fun hc => hc⟩
  · split
    · exact ⟨rfl, rfl, fun hc => hc⟩
    · exact ⟨rfl, rfl, fun _ => rfl⟩

theorem runsOn_loss (level : Nat) (c : Canceller) : RunsOn c (lossStep level c).1 := by
  rw [lossStep_eq]
  exact ⟨rfl, rfl, fun hc => hc⟩

theorem runsOn_research (seconds : Nat) (c : Canceller) : RunsOn c (researchStep seconds c).1 := by
  unfold researchStep
  split
  · exact ⟨rfl, rfl, fun hc => hc⟩
  · split
    · exact ⟨rfl, rfl, fun hc => hc⟩
    · exact ⟨rfl, rfl, fun hc => hc⟩

theorem runsOn_finishResearch (t : PosParams) (was : Bool) (x : CancellerSlice) :
    RunsOn x.canceller (finishResearch t was x).canceller := by
  unfold finishResearch
  split
  · exact runsOn_research _ _
  · exact ⟨rfl, rfl, fun hc => hc⟩

theorem runsOn_adaptingCounters (t : PosParams) (ly le lest : Nat) (caller : List Int) (c : Canceller) :
    RunsOn c (adaptingCounters t ly le lest caller c).canceller := by
  have herle : RunsOn c { c with erle := erleStep ly le c.erle } := ⟨rfl, rfl, fun hc => hc⟩
  have hd := herle.trans (runsOn_divergence lest ly _)
  unfold adaptingCounters
  dsimp only
  split
  · exact hd
  · split
    · exact hd.trans (runsOn_convergence ..)
    · exact hd.trans (runsOn_loss ..)

theorem runsOn_cancelSlice (t : PosParams) (active : Bool) (ys : List Int) (c : Canceller) :
    RunsOn c (cancelSlice t active ys c).canceller := by
  refine RunsOn.trans ?_ (runsOn_finishResearch t _ _)
  split
  · exact RunsOn.trans ⟨rfl, rfl, fun hc => hc⟩ (runsOn_adaptingCounters ..)
  · exact ⟨rfl, rfl, fun hc => hc⟩

theorem runsOn_unlockedSlice (t : PosParams) (c : Canceller) : RunsOn c (unlockedSlice t c).canceller :=
  RunsOn.trans ⟨rfl, rfl, fun hc => hc⟩ (runsOn_finishResearch t _ _)

/-- Stage 4 leaves a canceller that does not run as it is, without a request (R56, R67, R68). -/
theorem cancellerStage_idle (t : PosParams) (locked active : Bool) (ys : List Int) {c : Canceller}
    (h : cancelling c.state = false) : cancellerStage t locked active ys c = ⟨c, ys, none, false, false⟩ := by
  rw [cancellerStage, h]
  rfl

theorem runsOn_stage (t : PosParams) (locked active : Bool) (ys : List Int) (c : Canceller) :
    RunsOn c (cancellerStage t locked active ys c).canceller := by
  unfold cancellerStage
  split
  · split
    · exact runsOn_cancelSlice ..
    · exact runsOn_unlockedSlice ..
  · exact ⟨rfl, rfl, fun hc => hc⟩

/-! ## The slice of a position (R15) -/

section
variable {s t : State} {p : PosIx} {f : InFlight}

/-- A slice leaves a canceller that fits, running if it ran before (R56). -/
theorem searchFits_slice (h : SearchFits (getPos s p)) :
    SearchFits (sliceRecord (stages p s) (getPos s p)) ∧
      (cancelling (getPos s p).canceller.state = true →
        cancelling (sliceRecord (stages p s) (getPos s p)).canceller.state = true) := by
  have hrun : RunsOn (getPos s p).canceller (sliceRecord (stages p s) (getPos s p)).canceller := by
    have hr := runsOn_stage (getPos s p).params s.period.netLocked (stages p s).active (stages p s).returned
      { (getPos s p).canceller with history := sliceHistory p s }
    rw [← stages_canceller] at hr
    exact hr
  refine ⟨?_, hrun.2.2⟩
  cases hc : cancelling (getPos s p).canceller.state with
  | true => exact h.runsOn hc rfl hrun
  | false =>
    refine searchFits_congr ?_ h
    have hidle := cancellerStage_idle (getPos s p).params s.period.netLocked (stages p s).active (stages p s).returned
      (c := { (getPos s p).canceller with history := sliceHistory p s }) hc
    rw [← stages_canceller] at hidle
    rw [searchView, sliceRecord, hidle]
    rfl

/-- Only a canceller that runs makes an automatic request (R67, R68). -/
theorem cancelling_of_sliceRequest (h : ((stages p s).canceller.lossRequest || (stages p s).canceller.researchRequest) = true) :
    cancelling (getPos s p).canceller.state = true := by
  by_contra hc
  rw [stages_canceller, cancellerStage_idle _ _ _ _ (by simpa using hc)] at h
  cases h

/-- What a slice leaves before its requests: every canceller fits, and the engine has counted the slice (R90). -/
theorem settleSlice_searches (h : SearchesHold s) (p : PosIx) :
    (∀ q, SearchFits (getPos (settleSlice p (stages p s) s) q)) ∧
      (∀ q, searchable s q = true → searchable (settleSlice p (stages p s) s) q = true) ∧
      (settleSlice p (stages p s) s).engine = searchedEngine p (stages p s) s.engine := by
  obtain ⟨hfit, hrun⟩ := searchFits_slice (h.fits p)
  have hb := settleSlice_beside p (stages p s) s
  refine ⟨fun q => ?_, fun q hq => ?_, hb.engine⟩
  · rw [hb.getPos, getPos_putEngine, getPos_putPos]
    split
    · exact hfit
    · exact h.fits q
  · rw [searchable_iff] at hq ⊢
    rw [hb.getPos, getPos_putEngine, getPos_putPos]
    split
    · rename_i hpq
      subst hpq
      exact ⟨hq.1, hrun hq.2⟩
    · exact hq

/-- The automatic request of a slice leaves the positions and the device (R67, R68). -/
theorem sliceRequests_eq (p : PosIx) (w : SliceWork) (s : State) :
    sliceRequests p w s = putEngine s (sliceRequests p w s).engine := by
  unfold sliceRequests
  split
  · exact placeRequest_eq ..
  · rfl

/-- The automatic request of a slice, which a position makes only where it may be searched (R67, R68, R88). -/
theorem EngineHolds.sliceRequests {ok : InFlight → Prop} {u : State} {w : SliceWork}
    (h : EngineHolds ok (searchable u) u.engine) (hk : ∀ f, InFlightOk f → ok f) (hw : (getPos u p).canceller.window ≤ 1792)
    (hm : (w.canceller.lossRequest || w.canceller.researchRequest) = true → searchable u p = true) :
    EngineHolds ok (searchable u) (sliceRequests p w u).engine := by
  unfold Machine.sliceRequests
  split
  · rename_i hr
    exact h.placeRequest hk (hm hr) hw _
  · exact h

theorem queueStarts_sliceRequests {u : State} (h : QueueStarts u.engine) (p : PosIx) (w : SliceWork) :
    QueueStarts (sliceRequests p w u).engine := by
  unfold sliceRequests
  split
  · exact queueStarts_placeRequest h p _
  · exact h

/-- A slice counts for the position in flight, and the search ends where it is due (R90, R92). -/
theorem searchesHold_judgedSlice (h : SearchesHold s) (hd : s.device.searchTimeout ≤ 12500) (p : PosIx) :
    SearchesHold (judgedSlice p s).1 := by
  obtain ⟨hfit, hm, he⟩ := settleSlice_searches h p
  have hdevice := (settleSlice_beside p (stages p s) s).device
  have hmay := fun hr => hm p ((h.fits p).searchable (cancelling_of_sliceRequest hr))
  have hbeside := (requested_beside p s).engine
  cases hi : inFlightFor s p with
  | none =>
    rw [judgedSlice_idle hi, sliceRequests_eq]
    have hn : s.engine.inFlight.filter (fun f => f.entry.position == p) = none := hi
    rw [searchedEngine, hn] at he
    generalize settleSlice p (stages p s) s = u at hfit hm he hmay ⊢
    have hu : EngineHolds InFlightOk (searchable u) u.engine := by
      rw [he]
      exact h.holds.mono (fun q _ => hm q) fun _ _ hok => hok
    exact ⟨hfit, hu.sliceRequests (fun _ hok => hok) (hfit p).2 hmay, queueStarts_sliceRequests (by rw [he]; exact h.starts) p _⟩
  | some f =>
    rw [judgedSlice_searched hi]
    have hflight := inFlight_sliceRequested hi
    rw [← hbeside, sliceRequests_eq] at hflight
    rw [sliceRequests_eq]
    generalize settleSlice p (stages p s) s = u at hfit hm he hmay hdevice hflight ⊢
    have hu : EngineHolds CountedOk (searchable u) u.engine := by
      rw [he]
      exact (h.holds.searched p (stages p s)).mono (fun q _ => hm q) fun _ _ hok => hok
    exact searchesHold_judgeSearch hfit (hu.sliceRequests (fun _ => countedOk_of_inFlightOk) (hfit p).2 hmay) hflight
      (by rw [putEngine_device, hdevice]; exact hd)

/-! ## The slice period (R24) -/

/-- The searches hold, and the time-out is within its range (R98). -/
def SearchesTimed (s : State) : Prop := SearchesHold s ∧ DeviceOk s.device

theorem deviceOk_of_levelsEvolve (h : LevelsEvolve s t) (hd : DeviceOk s.device) : DeviceOk t.device :=
  keeps_of_chain (P := DeviceOk) (fun _ _ => deviceOk_of_change) h.2 hd

theorem searchesTimed_positionSlice (h : SearchesTimed s) (p : PosIx) : SearchesTimed (positionSlice p s) := by
  obtain ⟨hs, hd⟩ := h
  obtain ⟨-, -, -, ht⟩ := id hd
  refine ⟨.ite ?_ hs, deviceOk_of_levelsEvolve (levelsEvolve_positionSlice p s) hd⟩
  rw [processSlice_eq]
  refine inFreeOrder_keeps (P := SearchesHold) _ _ (searchesHold_judgedSlice hs ht p) ?_ fun t ht => ht.same (.still rfl rfl)
  intro act ha t ht
  obtain ⟨x, -, rfl⟩ := List.mem_map.1 ha
  cases x with
  | players => exact ht.same ((sameSearches_raiseAll ..).trans (sameSearches_whisperCheck ..))
  | level | tone | echo => exact ht.same (sameSearches_raiseAll ..)

theorem searchesHold_endPeriod (h : SearchesTimed s) : SearchesHold (endPeriod s) := by
  refine .ite ?_ h.1
  have hslices := foldl_keeps (P := SearchesTimed) (fun t p ht => searchesTimed_positionSlice ht p) (dueOrder s) s h
  refine inFreeOrder_keeps (P := SearchesHold) _ _ (hslices.1.same (.still rfl rfl)) ?_ fun t ht => ht.same (.still rfl rfl)
  intro act ha t ht
  simp only [List.mem_cons, List.not_mem_nil, or_false] at ha
  obtain rfl | rfl := ha
  · exact ht.same (.of_portless (portless_handEarpiece t))
  · exact ht.same (.of_storeless (storeless_finishMove t))

theorem sameSearches_beginPeriod (netIn posIn : AudioBlock) (group : Option AudioBlock) (s : State) :
    SameSearches s (beginPeriod netIn posIn group s) := by
  have hdue : SameSearches s (dueSlices (putPeriod (putPorts s (clearedOutputs s.ports)) (startedPeriod netIn s.ports))) :=
    ⟨fun p => by rw [getPos_dueSlices]; rfl, rfl⟩
  refine inFreeOrder_keeps (P := SameSearches s) _ _ hdue ?_ fun t ht => ht.trans (.still rfl rfl)
  intro act ha t ht
  have hfix : ∀ i, SameSearches s (fixOne i t) := fun i => ht.trans (.of_storeless (storeless_fixOne t i))
  simp only [List.mem_cons, List.not_mem_nil, or_false] at ha
  obtain rfl | rfl | rfl | rfl | rfl | rfl := ha
  · exact ht.trans (.of_portless (portless_receiveMic t posIn group))
  · exact hfix 0
  · exact hfix 1
  · exact hfix 2
  · exact hfix 3
  · exact ht.trans (.of_storeless (storeless_compactPeriod t))

theorem searchesHold_slicePeriod (h : SearchesTimed s) (netIn posIn : AudioBlock) (group : Option AudioBlock) :
    SearchesHold (slicePeriod netIn posIn group s) := by
  obtain ⟨hs, hd⟩ := h
  have hg := portless_groupBefore s group
  have hgroup : SearchesTimed (groupBefore group s) :=
    ⟨hs.same (.of_portless hg), deviceOk_of_levelsEvolve (.of_portless hg) hd⟩
  exact .ite hs ((searchesHold_endPeriod hgroup).same (sameSearches_beginPeriod ..))

/-! ## The events -/

/-- The canceller's events (R65 to R68). -/
theorem searchesHold_cancellerEvents (h : SearchesHold s) (p : PosIx) (lest ly : Nat) :
    SearchesHold (converge p s) ∧ SearchesHold (diverge p lest ly s) ∧ SearchesHold (loseErle p s) ∧
      SearchesHold (expireResearch p s) := by
  have hevent : ∀ {c} ev, SearchesHold (putCanceller s p c) → SearchesHold (cancellerEvent p ev c s) := fun _ hc =>
    hc.same (sameSearches_raise ..)
  refine ⟨?_, ?_, ?_, ?_⟩
  · unfold converge
    dsimp only
    split
    · rename_i hd
      exact hevent _ (h.runs (cancelling_of_mayAdapt hd.1) (runsOn_convergence ..)).1
    · exact h
  · unfold diverge
    dsimp only
    split
    · rename_i hd
      exact hevent _ (h.runs (cancelling_of_mayAdapt hd.1) (runsOn_divergence ..)).1
    · exact h
  · unfold loseErle
    dsimp only
    split
    · rename_i hd
      obtain ⟨hlost, hm⟩ := h.runs (cancelling_of_mayAdapt hd.1) (runsOn_loss (getPos s p).params.ecLoss _)
      exact .ite (hlost.placeRequest hm _) hlost
    · exact h
  · unfold expireResearch
    dsimp only
    split
    · rename_i hd
      obtain ⟨-, hc, -⟩ := hd
      obtain ⟨hended, hm⟩ := h.runs (by rw [hc]; rfl) (runsOn_research (getPos s p).params.ecResearch (getPos s p).canceller)
      exact hended.placeRequest hm _
    · exact h

theorem searchesHold_endInFlight (h : SearchesHold s) (due : InFlight → Bool) {finish : InFlight → State → State × ReportBody}
    (hf : ∀ f, s.engine.inFlight = some f → SearchesHold (finish f s).1) : SearchesHold (endInFlight due finish s) := by
  unfold endInFlight
  split
  · exact h
  · rename_i f hi
    exact .ite ((hf f hi).same (sameSearches_raise ..)) h

theorem sameSearches_endPass (p : PosIx) (w : PlayerId) (s : State) : SameSearches s (endPass p w s) := by
  unfold endPass
  split
  · exact .rfl
  · dsimp only
    split
    · exact ((sameSearches_player (bare_settleRun ..)).trans (sameSearches_raiseAll ..)).trans (sameSearches_whisperCheck ..)
    · exact .rfl

/-- The events of the suppressor, of the tone, and of the canceller's floor and hangover (R30, R39, R47, R60, R159). -/
theorem sameSearches_unitEvents (p : PosIx) (a b : Nat) (s : State) :
    SameSearches s (raiseMicFloor p a s) ∧ SameSearches s (raiseCallerFloor p a s) ∧ SameSearches s (expireVad p a s) ∧
      SameSearches s (refreshDue p s) ∧ SameSearches s (expireDoubleTalk p a b s) ∧ SameSearches s (completeBurst p s) ∧
      SameSearches s (beginCycle p s) := by
  have hsup : ∀ x, SameSearches s (putSuppressor s p x) := fun x => sameSearches_putPos rfl
  have htone : ∀ x, SameSearches s (putTone s p x) := fun x => sameSearches_putPos rfl
  exact ⟨.ite (hsup _) .rfl, .ite (sameSearches_putPos rfl) .rfl, .ite (hsup _) .rfl,
    .ite ((hsup _).trans (sameSearches_raiseAll ..)) .rfl, .ite (sameSearches_putPos rfl) .rfl,
    .ite ((htone _).trans (sameSearches_raiseAll ..)) .rfl, .ite (htone _) .rfl⟩

end

/-! ## Every step -/

theorem searchesHold_exec (i : Instr) {s t : State} (h : SearchesTimed s) (he : exec i s = .next t) : SearchesHold t := by
  obtain ⟨hs, -⟩ := id h
  have hlink : ∀ t l, SearchesHold t → SearchesHold (putLink t l) := fun _ _ ht => ht.same (.still rfl rfl)
  cases i with
  | powerOn | resetPin => cases he; exact searchesHold_allReset rfl rfl
  | frameError len followed => cases he; exact .ite (linkEvent_keeps hlink _ _ _ hs) hs
  | read e => cases he; exact readTransaction_keeps hlink searchesHold_perform e s hs
  | frameArrival | linkClear | badKind | resetDevice | resetPosition | sleep | wake | portSet | portStatus | setParam | getParam
  | posOpen | posClose | callOffer | callConnect | callHold | callClear | mute | posStatus | ecMode | ecFreeze | search | windowSet
  | ecStatus | playNow | playInterrupt | playNext | playOnly | stopCurrent | stopAll | playerStatus | toneStart | toneStop | clipAlloc
  | clipWrite | clipEnd | clipFree | clipInfo | storeCompact | expandLoad | streamOpen | streamFill | streamStart | streamStop
  | streamClose | streamStatus => cases he; exact writeFrame_keeps hlink searchesHold_perform _ s hs
  | slicePeriod netIn posIn group => cases he; exact searchesHold_slicePeriod h netIn posIn group
  | positionSlice p => cases he; exact (searchesTimed_positionSlice h p).1
  | floorTrackerRise p which level =>
    cases he
    obtain ⟨hmic, hcaller, -⟩ := sameSearches_unitEvents p level 0 s
    cases which with
    | microphone => exact hs.same hmic
    | callerPath => exact hs.same hcaller
  | vadHangoverExpiry p ratio => cases he; obtain ⟨-, -, hvad, -⟩ := sameSearches_unitEvents p ratio 0 s; exact hs.same hvad
  | boostRefresh p => cases he; obtain ⟨-, -, -, hrefresh, -⟩ := sameSearches_unitEvents p 0 0 s; exact hs.same hrefresh
  | doubleTalkHangoverExpiry p ymax xmax =>
    cases he; obtain ⟨-, -, -, -, htalk, -⟩ := sameSearches_unitEvents p ymax xmax s; exact hs.same htalk
  | converged p => cases he; obtain ⟨hc, -⟩ := searchesHold_cancellerEvents hs p 0 0; exact hc
  | diverged p lest ly => cases he; obtain ⟨-, hd, -⟩ := searchesHold_cancellerEvents hs p lest ly; exact hd
  | lossOfErle p => cases he; obtain ⟨-, -, hl, -⟩ := searchesHold_cancellerEvents hs p 0 0; exact hl
  | researchPeriodExpiry p => cases he; obtain ⟨-, -, -, hr⟩ := searchesHold_cancellerEvents hs p 0 0; exact hr
  | searchStart => cases he; exact searchesHold_startHead hs.fits hs.holds
  | searchCompletes => cases he; exact searchesHold_endInFlight hs _ fun f hf => searchesHold_endSearch hs.fits hs.holds hf _ _
  | timedOut => cases he; exact searchesHold_endInFlight hs _ fun f hf => searchesHold_endSearch hs.fits hs.holds hf _ _
  | passEnd p which => cases he; exact hs.same (sameSearches_endPass p which s)
  | burstComplete p => cases he; obtain ⟨-, -, -, -, -, hb, -⟩ := sameSearches_unitEvents p 0 0 s; exact hs.same hb
  | newCycle p => cases he; obtain ⟨-, -, -, -, -, -, hn⟩ := sameSearches_unitEvents p 0 0 s; exact hs.same hn
  | halfEmpty k => cases he; exact hs.same (.of_storeless (storeless_emptyHalfOf s k))
  | turn => cases he; exact .ite (hs.same (.of_storeless (storeless_takeTurn s))) hs
  | moveCompletes => cases he; exact hs.same (.of_storeless (storeless_finishMove s))
  | frameSync port distance => cases he; exact .ite (hs.same (.of_portless (portless_takeSync s port distance))) hs
  | missingSync port => cases he; exact .ite (hs.same (.of_portless (portless_missSync s port))) hs
  | positionPortGroup x => cases he; exact hs.same (.of_portless (portless_completeGroup s x))

/-- Settles O13: each command's, each slice's and each event's part keeps the engine in order, with cancellers that fit their
calls and the time-out within its range. -/
theorem stepKeepsTheEngine : Obligations.StepKeepsTheEngine := by
  unfold Obligations.StepKeepsTheEngine
  intro s t hd hc hen hs
  obtain ⟨hholds, hstarts⟩ := (engineOk_iff s).1 hen
  have hfit : ∀ p, SearchFits (getPos s p) := fun p => by
    obtain ⟨hf, -, hw, -⟩ := hc p
    exact ⟨hf, hw⟩
  have h : SearchesHold s := ⟨hfit, hholds, hstarts⟩
  rw [step] at hs
  split at hs
  · cases hs
    exact hen
  · rename_i c rest _
    have ht := searchesHold_exec c (s := { s with pending := rest }) ⟨h.same (.still rfl rfl), hd⟩ hs
    exact (engineOk_iff t).2 ⟨ht.holds, ht.starts⟩

end Sys2Proof.Machine

/-! # What a step can do to the store, to the places of the rings and to the players (R100 to R122, R145, R152)

What a step can do to them is said once, as a chain of single changes; the invariants of the store follow from the changes alone. -/

namespace Sys2Proof.Machine

open Relation

/-! ## The single changes -/

/-- The bytes, the clips, the compaction, the places of the rings and the players are as they were. -/
structure StoreStill (s t : State) : Prop where
  mem : t.store.mem = s.store.mem
  clips : ∀ c, getClip t c = getClip s c
  compaction : t.store.compaction = s.store.compaction
  rings : ∀ i, streamRegion (getStream t i) = streamRegion (getStream s i)
  players : ∀ p w, getPlayer t p w = getPlayer s p w

/-- A player's items change, and the reference counts with them (R114): of the items that name a clip, some leave and some enter, these
where the clip is READY (R115). -/
structure PlayerChange (s : State) (p : PosIx) (w : PlayerId) (pl : Player) (lost gained : ClipIx → Nat) (t : State) : Prop where
  frame : bare t = bare (putPlayer s p w pl)
  counts : ∀ c, (getClip t c).refCount = (getClip s c).refCount - lost c + gained c
  items : ∀ c, namedBy c (getPlayer s p w) + gained c = namedBy c pl + lost c
  held : ∀ c, lost c ≤ namedBy c (getPlayer s p w)
  ready : ∀ c, gained c ≠ 0 → (getClip s c).state = .ready

/-- Everything that a part of a step does to the store, to the places of the rings and to the items of the players. -/
inductive StoreChange : State → State → Prop where
  | still {s t : State} (h : StoreStill s t) : StoreChange s t
  | player {s t : State} {p : PosIx} {w : PlayerId} {pl : Player} {lost gained : ClipIx → Nat}
    (h : PlayerChange s p w pl lost gained t) : StoreChange s t
  | alloc {s : State} {c : ClipIx} {f : Format} {capacity page : Nat} (hk : s.store.compaction.running = false)
    (hc : (getClip s c).state = .free) (h1 : 1 ≤ capacity) (h2 : capacity ≤ 262144)
    (hp : firstFit (regions s) (clipPages f capacity) = some page) : StoreChange s (putClip s c (allocatedClip f capacity page))
  | write {s : State} {c : ClipIx} {n : Nat} {data : List Byte} (hc : (getClip s c).state = .uploading)
    (hn : n ≤ (getClip s c).capacity - occupied (getClip s c)) :
    StoreChange s (putMem (putClip s c (writeSamples n data (getClip s c) s.store.mem).1)
      (writeSamples n data (getClip s c) s.store.mem).2)
  | finish {s : State} {c : ClipIx} (hc : (getClip s c).state = .uploading) :
    StoreChange s (putClip s c { getClip s c with state := .ready, pending := none })
  | free {s : State} {c : ClipIx} (hm : (getClip s c).state ≠ .moving) (hr : (getClip s c).state = .ready → (getClip s c).refCount = 0) :
    StoreChange s (putClip s c freeClip)
  | compact {s : State} (hk : s.store.compaction.running = false) :
    StoreChange s (putCompaction s { compactionIdle with running := true })
  | turn {s : State} {k : Compaction} (hd : turnDue s = true) (hk : k.move = none) : StoreChange s (putCompaction s k)
  | begin {s : State} {c : ClipIx} {page : Nat} (hd : turnDue s = true) (hc : (getClip s c).state ≠ .free)
    (hp : pinned s (.clip c) = false) (hpage : placeBelow s c = some page) : StoreChange s (beginMove c page s)
  | copy {s : State} : StoreChange s (copyPages s)
  | settle {s : State} {m : Move} (hm : s.store.compaction.move = some m) :
    StoreChange s
      (putCompaction (putClip s m.clip (settledClip m (getClip s m.clip))) { s.store.compaction with move := none })
  | fill {s : State} {a : Nat} {bs : List Byte} : StoreChange s (putMem s (writeBytes s.store.mem a bs))
  | openRing {s : State} {i : StreamIx} {r : Stream} (hk : s.store.compaction.running = false)
    (hi : (getStream s i).state = .closed) (hp : firstFit (regions s) r.pageCount = some r.firstPage) :
    StoreChange s (putStream s i r)
  | closeRing {s : State} {i : StreamIx} {r : Stream} (hr : r.state = .closed) : StoreChange s (putStream s i r)
  | reset {s t : State} {erase : Bool} (hs : t.store = storeAfterReset erase s.store) (hi : ∀ i, (getStream t i).state = .closed)
    (hp : ∀ p w, getPlayer t p w = idlePlayer) : StoreChange s t

/-- From `s` to `t` the store, the rings and the players changed by single changes alone. -/
def StoreEvolves (s t : State) : Prop := ReflTransGen StoreChange s t

section
variable {s t u : State} {p : PosIx} {w : PlayerId} {c : ClipIx} {i : StreamIx}

theorem StoreEvolves.rfl : StoreEvolves s s := ReflTransGen.refl

theorem StoreEvolves.trans (h : StoreEvolves s t) (g : StoreEvolves t u) : StoreEvolves s u := ReflTransGen.trans h g

theorem StoreEvolves.of (h : StoreChange s t) : StoreEvolves s t := .single h

theorem StoreEvolves.ite {q : Prop} [Decidable q] (h : StoreEvolves s t) (g : StoreEvolves s u) :
    StoreEvolves s (if q then t else u) := by
  split
  · exact h
  · exact g

/-! ## What leaves the store, the rings and the players alone -/

theorem StoreEvolves.still (h : StoreStill s t) : StoreEvolves s t := .of (.still h)

theorem storeStill_of_same (hp : SamePlayers s t) (hs : t.store = s.store) (hi : t.streams = s.streams) : StoreStill s t :=
  ⟨by rw [hs], getClip_of_store hs, by rw [hs], fun i => by rw [getStream, getStream, hi], getPlayer_of_samePlayers hp⟩

theorem StoreEvolves.of_same (hp : SamePlayers s t) (hs : t.store = s.store) (hi : t.streams = s.streams) : StoreEvolves s t :=
  .still (storeStill_of_same hp hs hi)

/-- Nothing but the link, the engine, the ports, the period, the device parameters, the queue of commands and the count of free values
has changed. -/
theorem StoreEvolves.of_eq (hp : t.positions = s.positions) (hs : t.store = s.store) (hi : t.streams = s.streams) : StoreEvolves s t :=
  .of_same (samePlayers_of_positions hp) hs hi

theorem StoreEvolves.of_portless (h : portless t = portless s) : StoreEvolves s t :=
  .of_eq (positions_of_portless h) (store_of_portless h) (streams_of_portless h)

theorem storeEvolves_putPos {r : Position} (h : callAndPlayers r = callAndPlayers (getPos s p)) : StoreEvolves s (putPos s p r) :=
  .of_same (samePlayers_putPos h) (Eq.refl _) (Eq.refl _)

/-- A position's call state does not matter to the store. -/
theorem storeEvolves_record {r : Position} (hn : r.net = (getPos s p).net) (ha : r.agent = (getPos s p).agent) :
    StoreEvolves s (putPos s p r) := by
  refine .still ⟨Eq.refl _, fun _ => Eq.refl _, Eq.refl _, fun _ => Eq.refl _, fun q v => ?_⟩
  rw [getPlayer, getPlayer, getPos_putPos]
  split
  · rename_i hq
    subst hq
    cases v
    · exact hn
    · exact ha
  · exact Eq.refl _

theorem storeEvolves_raise (b : ReportBody) (s : State) : StoreEvolves s (raise b s) := .of_eq (by simp) (by simp) (by simp)

theorem storeEvolves_raiseAll (bs : List ReportBody) (s : State) : StoreEvolves s (raiseAll bs s) :=
  .of_eq (by simp) (by simp) (by simp)

theorem storeEvolves_spendDraw (s : State) : StoreEvolves s (spendDraw s) := .of_eq (Eq.refl _) (Eq.refl _) (Eq.refl _)

theorem storeEvolves_putEngine (e : Engine) : StoreEvolves s (putEngine s e) := .of_eq (Eq.refl _) (Eq.refl _) (Eq.refl _)

theorem storeEvolves_setCall (p : PosIx) (x : CallState) (s : State) : StoreEvolves s (setCall p x s) :=
  storeEvolves_record (Eq.refl _) (Eq.refl _)

theorem storeEvolves_putCanceller (x : Canceller) : StoreEvolves s (putCanceller s p x) := storeEvolves_putPos (Eq.refl _)

theorem storeEvolves_placeRequest (p : PosIx) (q : SearchRequest) (s : State) : StoreEvolves s (placeRequest p q s).1 := by
  rw [placeRequest_eq]
  exact storeEvolves_putEngine _

theorem storeEvolves_startHead (s : State) : StoreEvolves s (startHead s) := by
  rw [startHead_eq]
  exact storeEvolves_putEngine _

theorem storeEvolves_endSearch (o : SearchOutcome) (lag : Option Nat) (f : InFlight) (s : State) :
    StoreEvolves s (endSearch o lag f s).1 := by
  have hp : StoreEvolves s (putPos s f.entry.position (searchedRecord o lag f (getPos s f.entry.position))) :=
    storeEvolves_putPos (Eq.refl _)
  rw [endSearch_eq]
  exact hp.trans (storeEvolves_putEngine _)

theorem storeEvolves_cancelSearches (p : PosIx) (s : State) : StoreEvolves s (cancelSearches p s) := by
  unfold cancelSearches
  split
  · exact .rfl
  · have hdrop : StoreEvolves s (dropSearches p s) := by
      rw [dropSearches_eq]
      exact storeEvolves_putEngine _
    have hkept : ∀ f x, StoreEvolves x (keepOutcome p f x) := fun f x => storeEvolves_record (Eq.refl _) (Eq.refl _)
    exact ((hdrop.trans (hkept _ _)).trans (storeEvolves_raise ..)).trans (storeEvolves_startHead _)

theorem storeEvolves_changeMode (m : CancellerMode) (p : PosIx) (s : State) : StoreEvolves s (changeMode m p s) :=
  .ite .rfl (.ite ((storeEvolves_putCanceller _).trans (storeEvolves_cancelSearches ..)) (storeEvolves_putCanceller _))

theorem storeEvolves_tone (p : PosIx) (x : Tone) (s : State) : StoreEvolves s (putPos s p { getPos s p with tone := x }) :=
  storeEvolves_record (Eq.refl _) (Eq.refl _)

theorem storeEvolves_clearTone (p : PosIx) (s : State) : StoreEvolves s (clearTone p s) :=
  .ite ((storeEvolves_tone p _ s).trans (storeEvolves_raise ..)) .rfl

theorem storeEvolves_clearCallTone (p : PosIx) (s : State) : StoreEvolves s (clearCallTone p s) :=
  .ite (storeEvolves_clearTone ..) .rfl

end

/-! ## A player's items (R114, R127 to R130, R133, R136 to R138) -/

/-- 1 where an item names a clip. -/
def namesClip (c : ClipIx) (it : Item) : Nat := if it.source == .clip c then 1 else 0

theorem refCount_clipEnters (c : ClipIx) (it : Item) (s : State) :
    (getClip (clipEnters it.source s) c).refCount = (getClip s c).refCount + namesClip c it := by
  unfold namesClip
  cases it.source with
  | stream j => exact Eq.refl _
  | clip d =>
    rw [clipEnters, getClip_putClip]
    by_cases h : d = c
    · subst h; simp
    · simp [h]

theorem namedBy_eq (c : ClipIx) (pl : Player) :
    namedBy c pl = pl.current.elim 0 (namesClip c) + pl.stack.countP (fun it => it.source == .clip c) +
      pl.queue.countP fun it => it.source == .clip c := by
  obtain ⟨x, stack, queue⟩ := pl
  cases x with
  | none => simp [namedBy, heldItems]
  | some it => simp [namedBy, heldItems, namesClip, List.countP_cons]; omega

section
variable {s t : State} {p : PosIx} {w : PlayerId}

/-- States of one bare form have their clips in the same states. -/
theorem clipState_of_bare (h : bare t = bare s) (c : ClipIx) : (getClip t c).state = (getClip s c).state :=
  (congrArg Clip.state (clip_of_bare h c)).trans rfl

/-- An item whose clip, where it names one, is READY (R115). -/
def ReadyItem (s : State) (it : Item) : Prop := ∀ c, it.source = .clip c → (getClip s c).state = .ready

theorem ReadyItem.state {it : Item} (h : ReadyItem s it) {c : ClipIx} (hn : namesClip c it ≠ 0) : (getClip s c).state = .ready := by
  unfold namesClip at hn
  split at hn
  · rename_i he
    exact h c (by simpa using he)
  · exact absurd rfl hn

/-- An item enters a player: its clip is READY, and nothing leaves. -/
theorem storeEvolves_enter {it : Item} {pl : Player} (hr : ReadyItem s it) (hb : bare t = bare (putPlayer s p w pl))
    (hc : ∀ c, (getClip t c).refCount = (getClip s c).refCount + namesClip c it)
    (hi : ∀ c, namedBy c pl = namedBy c (getPlayer s p w) + namesClip c it) : StoreEvolves s t :=
  .of (.player (lost := fun _ => 0) (gained := fun c => namesClip c it)
    ⟨hb, hc, fun c => by rw [hi]; rfl, fun c => Nat.zero_le _, fun c => hr.state⟩)

/-- Items leave a player, and nothing enters. -/
theorem storeEvolves_leave {pl : Player} {lost : ClipIx → Nat} (hb : bare t = bare (putPlayer s p w pl))
    (hc : ∀ c, (getClip t c).refCount = (getClip s c).refCount - lost c)
    (hi : ∀ c, namedBy c (getPlayer s p w) = namedBy c pl + lost c) : StoreEvolves s t :=
  .of (.player (lost := lost) (gained := fun _ => 0)
    ⟨hb, hc, hi, fun c => by rw [hi]; omega, fun c h => absurd rfl h⟩)

theorem countP_filter_add {α : Type} (q sel : α → Bool) (l : List α) :
    l.countP q = (l.filter fun x => !sel x).countP q + (l.filter sel).countP q := by
  induction l with
  | nil => rfl
  | cons x rest ih =>
    cases hs : sel x
    · simp [hs, List.countP_cons, ih]; omega
    · simp [hs, List.countP_cons, ih]; omega

theorem storeEvolves_dropLists (p : PosIx) (w : PlayerId) (reason : LeaveReason) (sel : Item → Bool) (s : State) :
    StoreEvolves s (dropLists p w reason sel s) := by
  have hq := getPlayer_dropQueued p w reason sel s (getPlayer s p w).queue [] rfl
  refine storeEvolves_leave (lost := fun c =>
    ((getPlayer s p w).queue.filter sel).countP (fun it => it.source == .clip c) +
      ((getPlayer s p w).stack.filter sel).countP fun it => it.source == .clip c)
    (bare_dropLists p w reason sel s) (fun c => ?_) fun c => ?_
  · rw [dropLists, refCount_dropStacked, refCount_dropQueued, hq, Nat.sub_sub]
  · have hst := countP_filter_add (fun it : Item => it.source == .clip c) sel (getPlayer s p w).stack
    have hqu := countP_filter_add (fun it : Item => it.source == .clip c) sel (getPlayer s p w).queue
    simp only [namedBy_eq]
    omega

theorem storeEvolves_endCurrent (p : PosIx) (w : PlayerId) (reason : LeaveReason) (s : State) :
    StoreEvolves s (endCurrent p w reason s) := by
  cases hc : (getPlayer s p w).current with
  | none =>
    rw [endCurrent_idle p w reason s hc]
    exact .rfl
  | some it =>
    refine storeEvolves_leave (pl := succession (getPlayer s p w)) (lost := fun c => namesClip c it) ?_ (fun c => ?_) fun c =>
      namedBy_succession hc c
    · rw [bare_endCurrent, hc]
      rfl
    · rw [refCount_endCurrent, hc, Option.toList_some, List.countP_singleton]
      rfl

theorem storeEvolves_clearPlayer (p : PosIx) (w : PlayerId) (reason : LeaveReason) (s : State) :
    StoreEvolves s (clearPlayer p w reason s) := (storeEvolves_dropLists ..).trans (storeEvolves_endCurrent ..)

theorem refCount_becomeCurrent (c : ClipIx) (it : Item) (s : State) :
    (getClip (becomeCurrent p w it s) c).refCount = (getClip s c).refCount + namesClip c it := by
  rw [becomeCurrent, getClip_listens, refCount_clipEnters]
  rfl

theorem storeEvolves_becomeCurrent {it : Item} (hr : ReadyItem s it) (hc : (getPlayer s p w).current = none) :
    StoreEvolves s (becomeCurrent p w it s) := by
  refine storeEvolves_enter hr (bare_becomeCurrent p w it s) (fun c => refCount_becomeCurrent c it s) fun c => ?_
  simp only [namedBy_eq, hc, Option.elim_none, Option.elim_some]
  omega

theorem storeEvolves_playNowItem {it : Item} (hr : ReadyItem s it) : StoreEvolves s (playNowItem p w it s) := by
  cases hc : (getPlayer s p w).current with
  | none =>
    rw [playNowItem, hc]
    exact storeEvolves_becomeCurrent hr hc
  | some old =>
    refine .of (.player (lost := fun c => namesClip c old) (gained := fun c => namesClip c it)
      ⟨bare_playNowItem p w it s, fun c => ?_, fun c => ?_, fun c => ?_, fun c => hr.state⟩)
    · rw [playNowItem, hc]
      dsimp only
      rw [reportItem, getClip_raise, refCount_becomeCurrent, refCount_clipLeaves, getClip_unlistens]
      rfl
    · simp only [namedBy_eq, hc, Option.elim_some]
      omega
    · simp only [namedBy_eq, hc, Option.elim_some]
      omega

/-- The bottom item of a full stack leaves (R128). -/
theorem storeEvolves_dropBottom (p : PosIx) (w : PlayerId) (s : State) : StoreEvolves s (dropBottom p w s) := by
  unfold dropBottom
  split
  · exact .rfl
  · rename_i it hl
    refine storeEvolves_leave (p := p) (w := w) (lost := fun c => namesClip c it)
      (pl := { getPlayer s p w with stack := (getPlayer s p w).stack.dropLast }) (by simp) (fun c => ?_) fun c => ?_
    · rw [reportItem, getClip_raise, refCount_clipLeaves]
      rfl
    · have hlast : (getPlayer s p w).stack = (getPlayer s p w).stack.dropLast ++ [it] :=
        (List.dropLast_append_getLast? it hl).symm
      rw [namedBy_eq, namedBy_eq, hlast, List.countP_append, List.countP_singleton, ← hlast]
      simp only [namesClip]
      omega

theorem bare_dropBottom (p : PosIx) (w : PlayerId) (s : State) :
    ∃ stack, bare (dropBottom p w s) = bare (putPlayer s p w { getPlayer s p w with stack := stack }) := by
  unfold dropBottom
  split
  · exact ⟨(getPlayer s p w).stack, (congrArg bare (putPlayer_getPlayer p w s)).symm⟩
  · exact ⟨_, by rw [bare_reportItem, bare_clipLeaves]⟩

/-- An operation on a player leaves the clips in their states. -/
theorem ReadyItem.of_player {it : Item} {pl : Player} (h : ReadyItem s it) (hb : bare t = bare (putPlayer s p w pl)) :
    ReadyItem t it := fun c hc => (clipState_of_bare hb c).trans (h c hc)

/-- An item interrupts another, which goes on the stack (R128). -/
theorem storeEvolves_interrupt {old it : Item} (hr : ReadyItem s it) (hc : (getPlayer s p w).current = some old) :
    StoreEvolves s (becomeCurrent p w it (unlistens old.source
      (putPlayer s p w { getPlayer s p w with stack := old :: (getPlayer s p w).stack }))) := by
  refine storeEvolves_enter (p := p) (w := w) (pl := ⟨some it, old :: (getPlayer s p w).stack, (getPlayer s p w).queue⟩) hr ?_
    (fun c => ?_) fun c => ?_
  · rw [bare_becomeCurrent, bare_putPlayer p w (bare_unlistens ..), getPlayer_unlistens, getPlayer_putPlayer_self,
      putPlayer_putPlayer]
  · rw [refCount_becomeCurrent, getClip_unlistens]
    rfl
  · simp only [namedBy_eq, hc, Option.elim_some, List.countP_cons, namesClip]
    omega

theorem storeEvolves_playInterruptItem {it : Item} (hr : ReadyItem s it) : StoreEvolves s (playInterruptItem p w it s) := by
  unfold playInterruptItem
  split
  · rename_i hc
    exact storeEvolves_becomeCurrent hr hc
  · rename_i old hc
    dsimp only
    split
    · obtain ⟨stack, hb⟩ := bare_dropBottom p w s
      refine (storeEvolves_dropBottom p w s).trans (storeEvolves_interrupt (hr.of_player hb) ?_)
      rw [getPlayer_of_bare p w hb, getPlayer_putPlayer_self, hc]
    · exact storeEvolves_interrupt hr hc

theorem storeEvolves_playNextItem {it : Item} (hr : ReadyItem s it) : StoreEvolves s (playNextItem p w it s) := by
  cases hc : (getPlayer s p w).current with
  | none =>
    rw [playNextItem, hc]
    exact storeEvolves_becomeCurrent hr hc
  | some old =>
    refine storeEvolves_enter hr (bare_playNextItem p w it s) (fun c => ?_) fun c => ?_
    · rw [playNextItem, hc]
      exact refCount_clipEnters c it _
    · simp only [namedBy_eq, hc, Option.isSome_some, if_true, List.countP_append, List.countP_singleton, namesClip]
      omega

theorem storeEvolves_playOnlyItem {it : Item} (hr : ReadyItem s it) : StoreEvolves s (playOnlyItem p w it s) :=
  (storeEvolves_dropLists ..).trans (storeEvolves_playNowItem (hr.of_player (bare_dropLists ..)))

theorem storeEvolves_playItem {it : Item} (m : PlayMode) (hr : ReadyItem s it) : StoreEvolves s (playItem p w m it s) := by
  cases m with
  | now => exact storeEvolves_playNowItem hr
  | interrupt => exact storeEvolves_playInterruptItem hr
  | next => exact storeEvolves_playNextItem hr
  | only => exact storeEvolves_playOnlyItem hr

/-- The items that completed in a slice leave their player (R134). -/
theorem storeEvolves_settleRun {r : PlayRun} (hr : RunCounts (getPlayer s p w) r) : StoreEvolves s (settleRun p w r s) :=
  storeEvolves_leave (bare_settleRun p w r s) (fun _ => refCount_settleRun _) hr.named

/-! ## The checks of an item (R115, R125) -/

theorem readyItem_of_source {offset : Nat} {src : Source} (h : sourceRefusal s offset src = none) {it : Item} (hi : it.source = src) :
    ReadyItem s it := by
  intro c hc
  rw [hi] at hc
  subst hc
  unfold sourceRefusal at h
  cases hs : (getClip s c).state with
  | ready => rfl
  | _ => simp [hs] at h

theorem readyItem_of_check {f : ItemFields} {it : Item} (h : checkItem s f = .ok it) : ReadyItem s it := by
  unfold checkItem at h
  split at h
  · nomatch h
  · rename_i src _
    split at h
    · nomatch h
    · rename_i hn
      cases h
      exact readyItem_of_source hn rfl

theorem readyItem_of_checkOptional {f : Option ItemFields} {x : Option Item} (h : checkOptional s f = .ok x) :
    ∀ it, x = some it → ReadyItem s it := by
  rintro it rfl
  unfold checkOptional at h
  split at h
  · nomatch h
  · split at h
    · nomatch h
    · rename_i hi
      cases h
      exact readyItem_of_check hi

end

end Sys2Proof.Machine

/-! # What the calls, the streams and compaction do to the store (R5 to R11, R117, R118, R138, R145 to R152) -/

namespace Sys2Proof.Machine

open Relation

/-! ## Calls and whispers -/

section
variable {s t : State} {p : PosIx}

theorem storeEvolves_whisperCheck (p : PosIx) (was : Bool) (s : State) : StoreEvolves s (whisperCheck p was s) :=
  .ite (((storeEvolves_setCall p .connected s).trans (storeEvolves_clearPlayer ..)).trans (storeEvolves_raise ..)) .rfl

theorem storeEvolves_playersCleared (p : PosIx) (s : State) : StoreEvolves s (playersCleared p s) :=
  ((storeEvolves_setCall p .ready s).trans (storeEvolves_clearPlayer ..)).trans (storeEvolves_clearPlayer ..)

theorem storeEvolves_clearCall (p : PosIx) (s : State) : StoreEvolves s (clearCall p s) := by
  have hquiet := (storeEvolves_playersCleared p s).trans (storeEvolves_clearCallTone p _)
  have hending : StoreEvolves s (callEnding p s) := hquiet.trans (storeEvolves_putCanceller _)
  rw [clearCall_eq]
  exact hending.trans (storeEvolves_cancelSearches ..)

theorem storeEvolves_closedRecord (p : PosIx) (s : State) : StoreEvolves s (putPos s p (closedRecord (getPos s p))) :=
  storeEvolves_record rfl rfl

theorem storeEvolves_closePosition (p : PosIx) (s : State) : StoreEvolves s (closePosition p s) := by
  have hended : StoreEvolves s (endIfCalled p s) := .ite (storeEvolves_clearCall ..) .rfl
  have hvacant := hended.trans (storeEvolves_setCall p .vacant _)
  have hquiet := (hvacant.trans (storeEvolves_clearPlayer p .agent .cleared _)).trans (storeEvolves_clearTone p _)
  rw [closePosition_eq]
  exact hquiet.trans (storeEvolves_closedRecord p _)

theorem storeEvolves_closeIfOpen (p : PosIx) (s : State) : StoreEvolves s (closeIfOpen p s) :=
  .ite .rfl (storeEvolves_closePosition p s)

theorem storeEvolves_resetPosition (p : PosIx) (s : State) : StoreEvolves s (resetPosition p s) :=
  ((storeEvolves_putCanceller _).trans (storeEvolves_closeIfOpen ..)).trans (storeEvolves_record rfl rfl)

theorem storeEvolves_prepareCall (p : PosIx) (hint : Option Nat) (s : State) : StoreEvolves s (prepareCall p hint s) :=
  .ite ((storeEvolves_putCanceller _).trans (storeEvolves_placeRequest ..)) (storeEvolves_putCanceller _)

theorem storeEvolves_startWhisper {x : Option Item} (h : ∀ it, x = some it → ReadyItem s it) :
    StoreEvolves s (startWhisper p x s) := by
  cases x with
  | none => exact .rfl
  | some it =>
    have ht : StoreEvolves s (putPos s p { getPos s p with announceTag := it.tag }) := storeEvolves_record rfl rfl
    exact ht.trans (storeEvolves_playOnlyItem (h it rfl))

theorem storeEvolves_startNetItem {x : Option Item} (h : ∀ it, x = some it → ReadyItem s it) :
    StoreEvolves s (startNetItem p x s) := by
  cases x with
  | none => exact .rfl
  | some it => exact storeEvolves_playOnlyItem (h it rfl)

/-- A whisper leaves the clips in their states. -/
theorem clipState_startWhisper (p : PosIx) (x : Option Item) (s : State) (c : ClipIx) :
    (getClip (startWhisper p x s) c).state = (getClip s c).state := by
  cases x with
  | none => rfl
  | some it => exact clipState_of_bare (bare_playOnlyItem p .agent it _) c

theorem storeEvolves_takeOffer {a b : Option Item} (ha : ∀ it, a = some it → ReadyItem s it)
    (hb : ∀ it, b = some it → ReadyItem s it) (hint : Option Nat) : StoreEvolves s (takeOffer p a b hint s) := by
  have hcall := storeEvolves_setCall p (if a.isSome then .announce else .connected) s
  have hnet : ∀ it, b = some it →
      ReadyItem (startWhisper p a (setCall p (if a.isSome then .announce else .connected) s)) it :=
    fun it hi c hc => (clipState_startWhisper p a _ c).trans (hb it hi c hc)
  exact ((hcall.trans (storeEvolves_startWhisper ha)).trans (storeEvolves_startNetItem hnet)).trans (storeEvolves_prepareCall ..)

end

/-! ## Streams -/

section
variable (i : StreamIx) (s : State)

theorem storeEvolves_giveUpStream (p : PosIx) (w : PlayerId) : StoreEvolves s (giveUpStream i p w s) :=
  .ite ((storeEvolves_dropLists ..).trans (storeEvolves_endCurrent ..)) (storeEvolves_dropLists ..)

theorem storeEvolves_closeStream : StoreEvolves s (closeStream i s) := by
  have hgiven : StoreEvolves s (streamGiven i s) :=
    foldl_keeps (P := StoreEvolves s) (fun t x ht => ht.trans (storeEvolves_giveUpStream i t x.1 x.2)) _ _ .rfl
  have hleft : StoreEvolves s (streamLeft i s) :=
    foldl_keeps (P := StoreEvolves s) (fun t x ht => .ite (ht.trans (storeEvolves_whisperCheck ..)) ht) _ _ hgiven
  rw [closeStream_eq]
  exact (hleft.trans (storeEvolves_spendDraw _)).trans (.of (.closeRing rfl))

theorem streamRegion_of_ringOf {a b : Stream} (h : ringOf a = ringOf b) : streamRegion a = streamRegion b := by
  simp only [ringOf, Prod.mk.injEq] at h
  obtain ⟨hs, hf, hp⟩ := h
  rw [streamRegion, streamRegion, hs, hf, hp]

/-- A stream whose ring stays in its place. -/
theorem storeEvolves_putStream {r : Stream} (h : streamRegion r = streamRegion (getStream s i)) : StoreEvolves s (putStream s i r) := by
  refine .still ⟨rfl, fun _ => rfl, rfl, fun j => ?_, fun _ _ => rfl⟩
  rw [getStream_putStream]
  split
  · rename_i hj
    rw [h, hj]
  · rfl

theorem storeEvolves_fixOne : StoreEvolves s (fixOne i s) :=
  (storeEvolves_putStream i s (streamRegion_of_ringOf (ringOf_fixStream ..))).trans (storeEvolves_raiseAll ..)

theorem ringOf_withHalf (r : Stream) (h : Fin 2) (x : Half) : ringOf (withHalf r h x) = ringOf r := by
  unfold withHalf
  split
  · rfl
  · rfl

theorem storeEvolves_emptyHalfOf : StoreEvolves s (emptyHalfOf i s) :=
  .ite ((storeEvolves_putStream i s (streamRegion_of_ringOf ((ringOf_enterHalf ..).trans (ringOf_withHalf ..)))).trans
    (storeEvolves_raiseAll ..)) .rfl

end

/-! ## Compaction -/

theorem lowest_mem {l : List (Nat × Holder)} {x : Nat × Holder} (h : lowest l = some x) : x ∈ l := by
  induction l with
  | nil => nomatch h
  | cons y rest ih =>
    rw [lowest] at h
    split at h
    · cases h
      exact List.mem_cons_self
    · rename_i z hz
      split at h
      · exact List.mem_cons_of_mem _ (ih (hz.trans h))
      · cases h
        exact List.mem_cons_self

/-- The clip whose turn is next holds an allocation. -/
theorem state_of_nextHolder {s : State} {page : Nat} {c : ClipIx} (h : nextHolder s = some (page, .clip c)) :
    (getClip s c).state ≠ .free := by
  have hm := (List.mem_filter.mp (lowest_mem h)).1
  obtain hm | hm := List.mem_append.mp hm
  · obtain ⟨d, -, hd⟩ := List.mem_flatMap.mp hm
    split at hd
    · nomatch hd
    · simp only [List.mem_singleton, Prod.mk.injEq, Holder.clip.injEq] at hd
      obtain ⟨-, rfl⟩ := hd
      assumption
  · obtain ⟨d, -, hd⟩ := List.mem_flatMap.mp hm
    split at hd
    · nomatch hd
    · simp at hd

section
variable {s : State}

theorem turnDue_iff (s : State) : turnDue s = true ↔ s.store.compaction.running = true ∧ s.store.compaction.move = none := by
  simp [turnDue]

theorem storeEvolves_takeTurn (hd : turnDue s = true) : StoreEvolves s (takeTurn s) := by
  have hnone := ((turnDue_iff s).mp hd).2
  unfold takeTurn
  split
  · have hidle : StoreEvolves s (putCompaction s compactionIdle) := .of (.turn hd rfl)
    exact (hidle.trans (storeEvolves_raise ..)).trans (storeEvolves_spendDraw _)
  · rename_i x hx
    obtain ⟨page, h⟩ := x
    cases h with
    | ring i => exact .of (.turn hd hnone)
    | clip c =>
      simp only [turnOf]
      split
      · exact .of (.turn hd hnone)
      · rename_i hp
        split
        · exact .of (.turn hd hnone)
        · rename_i dest hdest
          have hc : (getClip s c).state ≠ .free := state_of_nextHolder hx
          exact StoreEvolves.trans (.of (.turn (k := { s.store.compaction with scan := some page }) hd hnone))
            (.of (.begin hd hc (Bool.of_not_eq_true hp) hdest))

theorem storeEvolves_turns (n : Nat) (s : State) : StoreEvolves s (turns n s) := by
  induction n generalizing s with
  | zero => exact .rfl
  | succ n ih =>
    rw [turns]
    split
    · rename_i hd
      exact (storeEvolves_takeTurn hd).trans (ih _)
    · exact .rfl

theorem storeEvolves_finishMove (s : State) : StoreEvolves s (finishMove s) := by
  refine .ite ?_ .rfl
  unfold completeMove
  split
  · exact .rfl
  · rename_i m hm
    exact StoreEvolves.trans (.of (.settle hm)) (storeEvolves_turns 69 _)

theorem storeEvolves_compactPeriod (s : State) : StoreEvolves s (compactPeriod s) :=
  (storeEvolves_turns 69 s).trans (.of .copy)

end

/-! ## The resets of the part (R121, R122, R182, R183) -/

/-- A reset of every unit. -/
theorem storeEvolves_allReset {s t : State} {erase : Bool} (hs : t.store = storeAfterReset erase s.store)
    (hi : t.streams = streamsAtReset) (hp : t.positions = positionsAtReset) : StoreEvolves s t := by
  refine .of (.reset hs (fun i => ?_) fun p w => ?_)
  · have hr : getStream t i = closedStream := by rw [getStream, hi, ← getStream_reset i]; rfl
    rw [hr]
    rfl
  · have hr : getPos t p = positionAtReset p := by rw [getPos, hp, ← getPos_reset p]; rfl
    rw [getPlayer, hr]
    cases w <;> rfl

end Sys2Proof.Machine

/-! # What every command, slice and event does to the store -/

namespace Sys2Proof.Machine

open Relation

/-! ## Commands -/

section
variable {s t : State}

theorem storeEvolves_taken (h : StoreEvolves s t) : StoreEvolves s (taken t).1 := h

theorem storeEvolves_onPosition (src : Nat) {act : PosIx → Answer} (h : ∀ p, StoreEvolves s (act p).1) :
    StoreEvolves s (onPosition s src act).1 := onPosition_keeps (P := StoreEvolves s) src .rfl h

theorem storeEvolves_onDevice (src : Nat) {act : Answer} (h : StoreEvolves s act.1) : StoreEvolves s (onDevice s src act).1 :=
  onDevice_keeps (P := StoreEvolves s) src .rfl h

theorem storeEvolves_onClip (id : Nat) {act : ClipIx → Answer} (h : ∀ c, StoreEvolves s (act c).1) :
    StoreEvolves s (onClip s id act).1 := onClip_keeps (P := StoreEvolves s) id .rfl h

theorem storeEvolves_onStream (id : Nat) {act : StreamIx → Answer} (h : ∀ i, StoreEvolves s (act i).1) :
    StoreEvolves s (onStream s id act).1 := onStream_keeps (P := StoreEvolves s) id .rfl h

end

section
variable (src : Nat) (b : List Byte) (s : State)

theorem storeEvolves_resetCommand : StoreEvolves s (resetCommand src b s).1 := by
  unfold resetCommand
  split
  · exact .rfl
  · split
    · refine storeEvolves_onDevice src ?_
      split
      · exact .rfl
      · exact storeEvolves_taken (storeEvolves_allReset rfl rfl rfl)
    · exact storeEvolves_onPosition src fun p => storeEvolves_resetPosition p s

theorem storeEvolves_getParam : StoreEvolves s (getParamCommand src b s).1 := by
  unfold getParamCommand
  dsimp only
  split
  · exact .rfl
  · split
    · exact .rfl
    · exact .rfl
  · split
    · exact .rfl
    · exact .rfl

theorem storeEvolves_setParam : StoreEvolves s (setParamCommand src b s).1 := by
  unfold setParamCommand
  dsimp only
  split
  · exact .rfl
  · split
    · exact storeEvolves_record rfl rfl
    · exact .rfl
  · split
    · exact .of_eq rfl rfl rfl
    · exact .rfl

theorem storeEvolves_callOffer : StoreEvolves s (callOfferCommand src b s).1 := by
  refine storeEvolves_onPosition src fun p => ?_
  split
  · exact .rfl
  · split
    · exact .rfl
    · split
      · exact .rfl
      · rename_i ha
        split
        · exact .rfl
        · rename_i hb
          exact storeEvolves_takeOffer (readyItem_of_checkOptional ha) (readyItem_of_checkOptional hb) _

theorem storeEvolves_callConnect : StoreEvolves s (callConnectCommand src s).1 := by
  refine storeEvolves_onPosition src fun p => ?_
  have hc := storeEvolves_setCall p .connected s
  split
  · exact storeEvolves_taken ((hc.trans (storeEvolves_clearPlayer ..)).trans (storeEvolves_clearPlayer ..))
  · exact storeEvolves_taken (hc.trans (storeEvolves_clearPlayer ..))
  all_goals exact .rfl

theorem storeEvolves_callHold : StoreEvolves s (callHoldCommand src b s).1 := by
  refine storeEvolves_onPosition src fun p => ?_
  split
  · exact .rfl
  · split
    · exact .rfl
    · rename_i hi
      exact storeEvolves_taken ((storeEvolves_setCall p .held s).trans (storeEvolves_playOnlyItem (readyItem_of_check hi)))

theorem storeEvolves_play : StoreEvolves s (playCommand src b s).1 := by
  refine storeEvolves_onPosition src fun p => ?_
  split
  · split
    · exact .rfl
    · split
      · exact .rfl
      · rename_i hn
        dsimp only
        split
        · exact .rfl
        · exact storeEvolves_playItem _ (readyItem_of_source hn rfl)
  · exact .rfl

theorem storeEvolves_stop : StoreEvolves s (stopCommand src b s).1 := by
  refine storeEvolves_onPosition src fun p => ?_
  split
  · exact (storeEvolves_endCurrent ..).trans (storeEvolves_whisperCheck ..)
  · exact (storeEvolves_clearPlayer ..).trans (storeEvolves_whisperCheck ..)
  · exact .rfl

theorem storeEvolves_search : StoreEvolves s (searchCommand src b s).1 := by
  refine storeEvolves_onPosition src fun p => ?_
  split
  · exact .rfl
  · split
    · exact storeEvolves_placeRequest ..
    · exact .rfl

theorem storeEvolves_toneStart : StoreEvolves s (toneStartCommand src b s).1 := by
  refine storeEvolves_onPosition src fun p => ?_
  split
  · exact .rfl
  · split
    · exact .rfl
    · split
      · exact .rfl
      · exact (storeEvolves_tone p _ s).trans (storeEvolves_spendDraw _)

theorem storeEvolves_portSet : StoreEvolves s (portSetCommand src b s).1 := by
  refine storeEvolves_onDevice src ?_
  split
  · split
    · exact .rfl
    · split
      · exact .rfl
      · exact .of_portless (portless_setPort ..)
  · exact .rfl

theorem storeEvolves_sleep : StoreEvolves s (sleepCommand src s).1 := by
  refine storeEvolves_onDevice src ?_
  split
  · exact .rfl
  · split
    · exact .rfl
    · exact .of_portless (portless_goToSleep s)

theorem storeEvolves_clipAlloc : StoreEvolves s (clipAllocCommand src b s).1 := by
  refine storeEvolves_onDevice src (storeEvolves_onClip _ fun c => ?_)
  split
  · exact .rfl
  · split
    · exact .rfl
    · rename_i hk
      split
      · exact .rfl
      · rename_i hc
        dsimp only
        split
        · exact storeEvolves_spendDraw s
        · rename_i hp
          have hcap : 1 ≤ clampNat (u32At b 2) 1 262144 ∧ clampNat (u32At b 2) 1 262144 ≤ 262144 := by
            unfold clampNat
            omega
          exact .of (.alloc (Bool.of_not_eq_true hk) (not_not.mp hc) hcap.1 hcap.2 hp)

theorem storeEvolves_clipWrite : StoreEvolves s (clipWriteCommand src b s).1 := by
  refine storeEvolves_onDevice src (storeEvolves_onClip _ fun c => ?_)
  dsimp only
  split
  · exact .rfl
  · rename_i hc
    split
    · exact .rfl
    · exact .of (.write (not_not.mp hc) (Nat.min_le_right _ _))

theorem storeEvolves_clipEnd : StoreEvolves s (clipEndCommand src b s).1 := by
  refine storeEvolves_onDevice src (storeEvolves_onClip _ fun c => ?_)
  dsimp only
  split
  · exact .rfl
  · rename_i hc
    exact .of (.finish (not_not.mp hc))

theorem storeEvolves_clipFree : StoreEvolves s (clipFreeCommand src b s).1 := by
  refine storeEvolves_onDevice src (storeEvolves_onClip _ fun c => ?_)
  split
  · exact .rfl
  · exact .rfl
  · rename_i hc
    split
    · exact .rfl
    · exact .of (.free (by simp [hc]) fun _ => by omega)
  · rename_i hc
    exact .of (.free (by simp [hc]) (by simp [hc]))
  · rename_i hc
    exact .of (.free (by simp [hc]) (by simp [hc]))

theorem storeEvolves_storeCompact : StoreEvolves s (storeCompactCommand src s).1 := by
  refine storeEvolves_onDevice src ?_
  split
  · exact .rfl
  · split
    · exact .rfl
    · rename_i hk
      exact .of (.compact (Bool.of_not_eq_true hk))

theorem storeEvolves_expandLoad : StoreEvolves s (expandLoadCommand src b s).1 :=
  storeEvolves_onDevice src (.still ⟨rfl, fun _ => rfl, rfl, fun _ => rfl, fun _ _ => rfl⟩)

theorem storeEvolves_streamOpen : StoreEvolves s (streamOpenCommand src b s).1 := by
  refine storeEvolves_onDevice src (storeEvolves_onStream _ fun i => ?_)
  split
  · exact .rfl
  · split
    · exact .rfl
    · rename_i hk
      split
      · exact .rfl
      · rename_i hi
        dsimp only
        split
        · exact storeEvolves_spendDraw s
        · rename_i hp
          exact .of (.openRing (Bool.of_not_eq_true hk) (not_not.mp hi) hp)

theorem storeEvolves_fillHalf (i : StreamIx) (h : Fin 2) (last : Bool) (data : List Byte) :
    StoreEvolves s (fillHalf i h last data s).1 :=
  (storeEvolves_putStream i s (streamRegion_of_ringOf (ringOf_withHalf ..))).trans (.of .fill)

theorem storeEvolves_streamFill : StoreEvolves s (streamFillCommand src b s).1 := by
  refine storeEvolves_onDevice src (storeEvolves_onStream _ fun i => ?_)
  split
  · exact .rfl
  · dsimp only
    split
    · exact .rfl
    · split
      · exact .rfl
      · split
        · exact .rfl
        · exact .rfl
        · exact storeEvolves_fillHalf ..

theorem streamRegion_startedStream {r : Stream} (h : r.state ≠ .closed) : streamRegion (startedStream r) = streamRegion r := by
  simp [streamRegion, startedStream, h]

theorem streamRegion_haltedStream {r : Stream} (h : r.state ≠ .closed) : streamRegion (haltedStream r) = streamRegion r := by
  unfold haltedStream
  split
  · simp [streamRegion, h]
  · rfl

theorem storeEvolves_streamRun {act : Stream → Stream}
    (ha : ∀ r : Stream, r.state ≠ .closed → streamRegion (act r) = streamRegion r) :
    StoreEvolves s (streamRunCommand act src b s).1 := by
  refine storeEvolves_onDevice src ?_
  split
  · exact .rfl
  · refine storeEvolves_onStream _ fun i => ?_
    split
    · exact .rfl
    · rename_i hi
      exact storeEvolves_putStream i s (ha _ hi)

/-- Every command changes the store, the rings and the players by single changes alone (R177). -/
theorem storeEvolves_perform (c : Command) : StoreEvolves s (perform c src b s).1 := by
  cases c with
  | reset => exact storeEvolves_resetCommand src b s
  | sleep => exact storeEvolves_sleep src s
  | wake => exact storeEvolves_onDevice src (by split; exacts [.of_portless (portless_portsEvent ..), .rfl])
  | portSet => exact storeEvolves_portSet src b s
  | portStatus => exact storeEvolves_onDevice src (by split; exacts [.rfl, storeEvolves_spendDraw s])
  | setParam => exact storeEvolves_setParam src b s
  | getParam => exact storeEvolves_getParam src b s
  | posOpen => exact storeEvolves_onPosition src fun p => by split; exacts [storeEvolves_record rfl rfl, .rfl]
  | posClose => exact storeEvolves_onPosition src fun p => storeEvolves_taken (storeEvolves_closeIfOpen p s)
  | callOffer => exact storeEvolves_callOffer src b s
  | callConnect => exact storeEvolves_callConnect src s
  | callHold => exact storeEvolves_callHold src b s
  | callClear => exact storeEvolves_onPosition src fun p => by split; exacts [storeEvolves_taken (storeEvolves_clearCall p s), .rfl]
  | mute => exact storeEvolves_onPosition src fun p => by split; exacts [.rfl, by split; exacts [.rfl, storeEvolves_record rfl rfl]]
  | posStatus => exact storeEvolves_onPosition src fun p => .rfl
  | ecMode => exact storeEvolves_onPosition src fun p => by split; exacts [.rfl, storeEvolves_taken (storeEvolves_changeMode ..)]
  | ecFreeze => exact storeEvolves_onPosition src fun p => by split; exacts [.rfl, storeEvolves_taken (storeEvolves_putCanceller _)]
  | search => exact storeEvolves_search src b s
  | windowSet => exact storeEvolves_onPosition src fun p => by split; exacts [.rfl, storeEvolves_putCanceller _]
  | ecStatus => exact storeEvolves_onPosition src fun p => .rfl
  | play => exact storeEvolves_play src b s
  | stop => exact storeEvolves_stop src b s
  | playerStatus =>
    exact storeEvolves_onPosition src fun p => (storeEvolves_spendDraw s).trans (storeEvolves_spendDraw (spendDraw s))
  | toneStart => exact storeEvolves_toneStart src b s
  | toneStop => exact storeEvolves_onPosition src fun p => (storeEvolves_tone p _ s).trans (storeEvolves_spendDraw _)
  | clipAlloc => exact storeEvolves_clipAlloc src b s
  | clipWrite => exact storeEvolves_clipWrite src b s
  | clipEnd => exact storeEvolves_clipEnd src b s
  | clipFree => exact storeEvolves_clipFree src b s
  | clipInfo => exact storeEvolves_onDevice src (storeEvolves_onClip _ fun c => storeEvolves_spendDraw s)
  | storeCompact => exact storeEvolves_storeCompact src s
  | expandLoad => exact storeEvolves_expandLoad src b s
  | streamOpen => exact storeEvolves_streamOpen src b s
  | streamFill => exact storeEvolves_streamFill src b s
  | streamStart => exact storeEvolves_streamRun src b s fun _ => streamRegion_startedStream
  | streamStop => exact storeEvolves_streamRun src b s fun _ => streamRegion_haltedStream
  | streamClose =>
    exact storeEvolves_onDevice src (storeEvolves_onStream _ fun i => by
      split; exacts [.rfl, storeEvolves_taken (storeEvolves_closeStream i s)])
  | streamStatus => exact storeEvolves_onDevice src (storeEvolves_onStream _ fun i => .rfl)

end

/-! ## The link (R174 to R177, R180) -/

theorem storeEvolves_putLink (s t : State) (l : Link) (h : StoreEvolves s t) : StoreEvolves s (putLink t l) :=
  h.trans (.of_eq rfl rfl rfl)

theorem storeEvolves_writeFrame (f : Frame) (s : State) : StoreEvolves s (writeFrame f s) :=
  writeFrame_keeps (P := StoreEvolves s) (storeEvolves_putLink s) (fun c src b t ht => ht.trans (storeEvolves_perform src b t c)) f s
    .rfl

theorem storeEvolves_readTransaction (e : ReadEvent) (s : State) : StoreEvolves s (readTransaction e s) :=
  readTransaction_keeps (P := StoreEvolves s) (storeEvolves_putLink s)
    (fun c src b t ht => ht.trans (storeEvolves_perform src b t c)) e s .rfl

theorem storeEvolves_frameFault (s : State) : StoreEvolves s (frameFault s) :=
  linkEvent_keeps (P := StoreEvolves s) (storeEvolves_putLink s) _ _ _ .rfl

/-! ## The slice of a position (R15) -/

section
variable {s : State} {p : PosIx}

/-- The items that completed leave their players (R134). -/
theorem storeEvolves_settleSlice {w : SliceWork} (hn : RunCounts (getPos s p).net w.net) (ha : RunCounts (getPos s p).agent w.agent) :
    StoreEvolves s (settleSlice p w s) := by
  have hworked : StoreEvolves s (putPos s p (workedRecord w (getPos s p))) := storeEvolves_record rfl rfl
  have hnet : StoreEvolves s (settleRun p .net w.net (putPos s p (workedRecord w (getPos s p)))) :=
    hworked.trans (storeEvolves_settleRun (by rw [getPlayer, getPos_putPos_self]; exact hn))
  have hagent := hnet.trans (storeEvolves_settleRun (p := p) (w := .agent) (r := w.agent) (by
    rw [getPlayer_of_bare p .agent (bare_settleRun ..), getPlayer_putPlayer_other _ p .net .agent _ (by simp), getPlayer,
      getPos_putPos_self]
    exact ha))
  have hsent : StoreEvolves s (sendSlice p w.transmit w.earpiece
      (settleRun p .agent w.agent (settleRun p .net w.net (putPos s p (workedRecord w (getPos s p)))))) :=
    hagent.trans (.of_eq rfl rfl rfl)
  unfold settleSlice searchSlice
  dsimp only
  split
  · exact hsent
  · exact hsent.trans (storeEvolves_putEngine _)

theorem storeEvolves_judgedSlice (p : PosIx) (s : State) : StoreEvolves s (judgedSlice p s).1 := by
  have hn : RunCounts (getPos s p).net (stages p s).net := by
    rw [stages_net]
    exact runCounts_playSamples s _ _ (runCounts_beginRun _)
  have ha : RunCounts (getPos s p).agent (stages p s).agent := by
    rw [stages_agent]
    exact runCounts_playSamples s _ _ (runCounts_beginRun _)
  obtain ⟨hp, hs, hi⟩ := judgedSlice_keeps p s
  exact (storeEvolves_settleSlice hn ha).trans (.of_same hp hs hi)

theorem storeEvolves_sliceAct (p : PosIx) (s : State) (x : SliceAct) (t : State) : StoreEvolves t (sliceAct p s x t) := by
  cases x with
  | players => exact (storeEvolves_raiseAll _ t).trans (storeEvolves_whisperCheck ..)
  | level | tone | echo => exact storeEvolves_raiseAll _ t

theorem storeEvolves_positionSlice (p : PosIx) (s : State) : StoreEvolves s (positionSlice p s) := by
  refine .ite ?_ .rfl
  rw [processSlice_eq]
  refine inFreeOrder_keeps (P := StoreEvolves s) _ _ (storeEvolves_judgedSlice p s) ?_ fun t ht => ht.trans (storeEvolves_spendDraw t)
  intro act ha t ht
  obtain ⟨x, -, rfl⟩ := List.mem_map.1 ha
  exact ht.trans (storeEvolves_sliceAct p s x t)

/-! ## The slice period (R24) -/

theorem storeEvolves_finishSlices (s : State) : StoreEvolves s (finishSlices s) :=
  StoreEvolves.trans
    (foldl_keeps (P := StoreEvolves s) (fun t p ht => ht.trans (storeEvolves_positionSlice p t)) (dueOrder s) s .rfl)
    (storeEvolves_spendDraw _)

theorem storeEvolves_endPeriod (s : State) : StoreEvolves s (endPeriod s) := by
  refine .ite ?_ .rfl
  refine inFreeOrder_keeps (P := StoreEvolves s) _ _ (storeEvolves_finishSlices s) ?_ fun t ht => ht.trans (storeEvolves_spendDraw t)
  intro act ha t ht
  simp only [List.mem_cons, List.not_mem_nil, or_false] at ha
  obtain rfl | rfl := ha
  · exact ht.trans (.of_portless (portless_handEarpiece t))
  · exact ht.trans (storeEvolves_finishMove t)

theorem storeEvolves_dueSlices (s : State) : StoreEvolves s (dueSlices s) :=
  .of_same (fun p => by rw [getPos_dueSlices]; rfl) rfl rfl

theorem storeEvolves_beginPeriod (netIn posIn : AudioBlock) (group : Option AudioBlock) (s : State) :
    StoreEvolves s (beginPeriod netIn posIn group s) := by
  have hstarted : StoreEvolves s (putPeriod (putPorts s (clearedOutputs s.ports)) (startedPeriod netIn s.ports)) := .of_eq rfl rfl rfl
  refine inFreeOrder_keeps (P := StoreEvolves s) _ _ (hstarted.trans (storeEvolves_dueSlices _)) ?_ fun t ht =>
    ht.trans (storeEvolves_spendDraw t)
  intro act ha t ht
  have hfix : ∀ i, StoreEvolves s (fixOne i t) := fun i => ht.trans (storeEvolves_fixOne i t)
  simp only [List.mem_cons, List.not_mem_nil, or_false] at ha
  obtain rfl | rfl | rfl | rfl | rfl | rfl := ha
  · exact ht.trans (.of_portless (portless_receiveMic t posIn group))
  · exact hfix 0
  · exact hfix 1
  · exact hfix 2
  · exact hfix 3
  · exact ht.trans (storeEvolves_compactPeriod t)

theorem storeEvolves_slicePeriod (netIn posIn : AudioBlock) (group : Option AudioBlock) (s : State) :
    StoreEvolves s (slicePeriod netIn posIn group s) := by
  have hgroup : StoreEvolves s (groupBefore group s) := .of_portless (portless_groupBefore s group)
  exact .ite .rfl ((hgroup.trans (storeEvolves_endPeriod _)).trans (storeEvolves_beginPeriod ..))

end

/-! ## The events -/

section
variable (p : PosIx) (s : State)

theorem storeEvolves_putSuppressor (x : Suppressor) : StoreEvolves s (putSuppressor s p x) := storeEvolves_record rfl rfl

theorem storeEvolves_cancellerEvent (ev : EchoEvent) (c : Canceller) : StoreEvolves s (cancellerEvent p ev c s) :=
  (storeEvolves_putCanceller c).trans (storeEvolves_raise ..)

theorem storeEvolves_loseErle : StoreEvolves s (loseErle p s) :=
  .ite (.ite ((storeEvolves_putCanceller _).trans (storeEvolves_placeRequest ..)) (storeEvolves_putCanceller _)) .rfl

theorem storeEvolves_expireResearch : StoreEvolves s (expireResearch p s) :=
  .ite ((storeEvolves_putCanceller _).trans (storeEvolves_placeRequest ..)) .rfl

theorem storeEvolves_endInFlight (due : InFlight → Bool) {finish : InFlight → State → State × ReportBody}
    (hf : ∀ f, StoreEvolves s (finish f s).1) : StoreEvolves s (endInFlight due finish s) := by
  unfold endInFlight
  split
  · exact .rfl
  · exact .ite ((hf _).trans (storeEvolves_raise ..)) .rfl

/-- A pass that ends is that of a clip item. -/
theorem clip_of_atLastSample {s : State} {it : Item} (h : atLastSample s it = true) : ∃ c, it.source = .clip c := by
  unfold atLastSample at h
  split at h
  · exact ⟨_, ‹_›⟩
  · nomatch h

theorem storeEvolves_endPass (w : PlayerId) : StoreEvolves s (endPass p w s) := by
  unfold endPass
  split
  · exact .rfl
  · rename_i it hc
    dsimp only
    split
    · rename_i hd
      obtain ⟨c, hs⟩ := clip_of_atLastSample (Bool.and_eq_true_iff.mp hd).2
      have hrun := runCounts_passEnds (r := beginRun (getPlayer s p w)) (runCounts_beginRun _) hc hs
      exact ((storeEvolves_settleRun hrun).trans (storeEvolves_raiseAll ..)).trans (storeEvolves_whisperCheck ..)
    · exact .rfl

theorem storeEvolves_completeBurst : StoreEvolves s (completeBurst p s) :=
  .ite ((storeEvolves_tone p _ s).trans (storeEvolves_raiseAll ..)) .rfl

theorem storeEvolves_beginCycle : StoreEvolves s (beginCycle p s) := .ite (storeEvolves_tone p _ s) .rfl

end

/-! ## Every step -/

theorem storeEvolves_exec (i : Instr) {s t : State} (he : exec i s = .next t) : StoreEvolves s t := by
  cases i with
  | powerOn | resetPin => cases he; exact storeEvolves_allReset (erase := true) rfl rfl rfl
  | frameError len followed => cases he; exact .ite (storeEvolves_frameFault s) .rfl
  | read e => cases he; exact storeEvolves_readTransaction e s
  | frameArrival | linkClear | badKind | resetDevice | resetPosition | sleep | wake | portSet | portStatus | setParam | getParam
  | posOpen | posClose | callOffer | callConnect | callHold | callClear | mute | posStatus | ecMode | ecFreeze | search | windowSet
  | ecStatus | playNow | playInterrupt | playNext | playOnly | stopCurrent | stopAll | playerStatus | toneStart | toneStop | clipAlloc
  | clipWrite | clipEnd | clipFree | clipInfo | storeCompact | expandLoad | streamOpen | streamFill | streamStart | streamStop
  | streamClose | streamStatus => cases he; exact storeEvolves_writeFrame _ s
  | slicePeriod netIn posIn group => cases he; exact storeEvolves_slicePeriod netIn posIn group s
  | positionSlice p => cases he; exact storeEvolves_positionSlice p s
  | floorTrackerRise p which level =>
    cases he
    cases which with
    | microphone => exact .ite (storeEvolves_putSuppressor p s _) .rfl
    | callerPath => exact .ite (storeEvolves_putCanceller _) .rfl
  | vadHangoverExpiry p ratio => cases he; exact .ite (storeEvolves_putSuppressor p s _) .rfl
  | boostRefresh p => cases he; exact .ite ((storeEvolves_putSuppressor p s _).trans (storeEvolves_raiseAll ..)) .rfl
  | doubleTalkHangoverExpiry p ymax xmax => cases he; exact .ite (storeEvolves_putCanceller _) .rfl
  | converged p => cases he; exact .ite (storeEvolves_cancellerEvent ..) .rfl
  | diverged p estimateLevel returnLevel => cases he; exact .ite (storeEvolves_cancellerEvent ..) .rfl
  | lossOfErle p => cases he; exact storeEvolves_loseErle p s
  | researchPeriodExpiry p => cases he; exact storeEvolves_expireResearch p s
  | searchStart => cases he; exact storeEvolves_startHead s
  | searchCompletes => cases he; exact storeEvolves_endInFlight s _ fun f => storeEvolves_endSearch _ _ f s
  | timedOut => cases he; exact storeEvolves_endInFlight s _ fun f => storeEvolves_endSearch _ _ f s
  | passEnd p which => cases he; exact storeEvolves_endPass p s which
  | burstComplete p => cases he; exact storeEvolves_completeBurst p s
  | newCycle p => cases he; exact storeEvolves_beginCycle p s
  | halfEmpty k => cases he; exact storeEvolves_emptyHalfOf k s
  | turn =>
    cases he
    split
    · exact storeEvolves_takeTurn ‹_›
    · exact .rfl
  | moveCompletes => cases he; exact storeEvolves_finishMove s
  | frameSync port distance => cases he; exact .ite (.of_portless (portless_takeSync s port distance)) .rfl
  | missingSync port => cases he; exact .ite (.of_portless (portless_missSync s port)) .rfl
  | positionPortGroup x => cases he; exact .of_portless (portless_completeGroup s x)

/-- A step changes the store, the rings and the players by single changes alone. -/
theorem storeEvolves_step {s t : State} (h : step s = .next t) : StoreEvolves s t := by
  rw [step] at h
  split at h
  · cases h
    exact .rfl
  · rename_i c rest _
    exact StoreEvolves.trans (t := { s with pending := rest }) (.of_eq rfl rfl rfl) (storeEvolves_exec c h)

end Sys2Proof.Machine

/-! # Every step keeps the bytes, the reference counts and the store's space in order (R100 to R122) -/

namespace Sys2Proof.Machine

open Relation

/-! ## The bytes (R100, R104) -/

theorem mem_of_bare {s t : State} (h : bare t = bare s) : t.store.mem = s.store.mem := by
  have hf := congrArg (fun x => x.store.mem) h
  exact hf

theorem compaction_of_bare {s t : State} (h : bare t = bare s) : t.store.compaction = s.store.compaction := by
  have hf := congrArg (fun x => x.store.compaction) h
  exact hf

theorem copiedStore_wf {st : Store} (h : Memory.wf st.mem) : Memory.wf (copiedStore st).mem := by
  unfold copiedStore
  split
  · exact h
  · exact copyBytes_wf _ _ _ h

/-- A single change keeps the canonical form of the bytes (log entry 9). -/
theorem memoryWf_of_change {s t : State} (h : Memory.wf s.store.mem) (hc : StoreChange s t) : Memory.wf t.store.mem := by
  cases hc with
  | still hs => exact hs.mem ▸ h
  | player hp => exact (mem_of_bare hp.frame).trans (show _ = s.store.mem from rfl) ▸ h
  | write => exact writeSamples_wf _ _ _ h
  | copy =>
    rw [copyPages_store]
    exact copiedStore_wf h
  | fill => exact writeBytes_wf _ _ h
  | reset hs =>
    rw [hs]
    exact h
  | _ => exact h

/-- Settles O6: each single change of a step keeps the canonical form. -/
theorem stepKeepsMemoryCanonical : Obligations.StepKeepsMemoryCanonical := by
  unfold Obligations.StepKeepsMemoryCanonical
  intro s t hm hs
  exact keeps_of_chain (P := fun x => Memory.wf x.store.mem) (fun _ _ => memoryWf_of_change) (storeEvolves_step hs) hm

/-! ## The reference counts (R114, R117, R118) -/

/-- The clip of a move in progress is MOVING (R118). -/
def MovedIsMoving (s : State) : Prop := ∀ m, s.store.compaction.move = some m → (getClip s m.clip).state = .moving

/-- What the reference counts rest on: they count the items, and the clip of a move, which is MOVING, has none. -/
def CountsHold (s : State) : Prop := MovedIsMoving s ∧ CountsOk s

section
variable {s t : State}

theorem itemsNaming_congr (h : ∀ p w, getPlayer t p w = getPlayer s p w) (c : ClipIx) : itemsNaming t c = itemsNaming s c := by
  rw [itemsNaming_eq, itemsNaming_eq]
  simp only [h]

/-- A clip's entry changed, and no player. -/
theorem CountsOk.putClip (h : CountsOk s) {c : ClipIx} {e : Clip} (hr : e.refCount = (getClip s c).refCount)
    (hz : e.state ≠ .ready → e.refCount = 0) : CountsOk (putClip s c e) := by
  intro d
  rw [getClip_putClip, itemsNaming_congr (t := Machine.putClip s c e) (s := s) fun _ _ => rfl]
  split
  · rename_i hd
    subst hd
    exact ⟨hr.trans (h c).1, hz⟩
  · exact h d

/-- A clip that is not the moving one changes, and does not begin to move. -/
theorem MovedIsMoving.putClip (h : MovedIsMoving s) {c : ClipIx} {e : Clip} (hc : (getClip s c).state ≠ .moving) :
    MovedIsMoving (putClip s c e) := by
  intro m hm
  have hmoving := h m hm
  rw [getClip_putClip_ne s c m.clip e fun hcm => hc (hcm ▸ hmoving)]
  exact hmoving

theorem CountsHold.putClip (h : CountsHold s) {c : ClipIx} {e : Clip} (hc : (getClip s c).state ≠ .moving)
    (hr : e.refCount = (getClip s c).refCount) (hz : e.state ≠ .ready → e.refCount = 0) : CountsHold (putClip s c e) :=
  ⟨h.1.putClip hc, h.2.putClip hr hz⟩

theorem CountsOk.of_players (h : CountsOk s) (hc : ∀ c, getClip t c = getClip s c) (hp : ∀ p w, getPlayer t p w = getPlayer s p w) :
    CountsOk t := by
  intro c
  rw [hc, itemsNaming_congr hp]
  exact h c

/-- A compaction without a move. -/
theorem CountsHold.idle (h : CountsHold s) {k : Compaction} (hk : k.move = none) : CountsHold (putCompaction s k) :=
  ⟨fun m hm => absurd (hk.symm.trans hm) (by simp), h.2.of_players (fun _ => rfl) fun _ _ => rfl⟩

/-- The items of a player change, and the counts with them (R114). -/
theorem CountsOk.of_playerChange (h : CountsOk s) {p : PosIx} {w : PlayerId} {pl : Player} {lost gained : ClipIx → Nat}
    (hc : PlayerChange s p w pl lost gained t) : CountsOk t := by
  intro c
  obtain ⟨hcount, hzero⟩ := h c
  have hsum := sum_putPlayer (namedBy c) hc.frame
  rw [← itemsNaming_eq, ← itemsNaming_eq] at hsum
  have hle := namedBy_le s p w c
  have hcounts := hc.counts c
  have hitems := hc.items c
  have hheld := hc.held c
  refine ⟨by omega, fun hs => ?_⟩
  rw [clipState_of_bare hc.frame] at hs
  have hgained : gained c = 0 := by_contra fun hg => hs (hc.ready c hg)
  have := hzero hs
  omega

theorem itemsNaming_idle (h : ∀ p w, getPlayer t p w = idlePlayer) (c : ClipIx) : itemsNaming t c = 0 := by
  rw [itemsNaming_eq, List.sum_eq_zero_iff]
  intro n hn
  obtain ⟨x, -, rfl⟩ := List.mem_map.mp hn
  rw [h]
  rfl

/-! ## The samples a CLIP-WRITE appends (R104, R105, R110) -/

/-- A clip's entry after at most `n` appended samples: the samples and the pending one alone are other ones. -/
structure Appended (e : Clip) (n : Nat) (x : Clip) : Prop where
  entry : x = { e with length := x.length, pending := x.pending }
  room : occupied x ≤ occupied e + n
  parity : e.format = .pack12 → x.length % 2 = e.length % 2
  pending : ∀ v ∈ x.pending, v ∈ e.pending ∨ e.format = .pack12 ∧ -2048 ≤ v ∧ v ≤ 2047

theorem pack12_range (v : Int) : -2048 ≤ pack12 v ∧ pack12 v ≤ 2047 := by
  unfold pack12 clampInt
  omega

theorem appended_self (e : Clip) (n : Nat) : Appended e n e := ⟨rfl, Nat.le_add_right _ _, fun _ => rfl, fun _ hv => .inl hv⟩

theorem Appended.format {e x : Clip} {n : Nat} (h : Appended e n x) : x.format = e.format := by rw [h.entry]

theorem Appended.trans {e x y : Clip} {n m : Nat} (h : Appended e n x) (g : Appended x m y) : Appended e (n + m) y := by
  have hf := h.format
  refine ⟨g.entry.trans (by rw [h.entry]), ?_, fun he => ?_, fun v hv => ?_⟩
  · have := h.room
    have := g.room
    omega
  · rw [g.parity (hf.trans he), h.parity he]
  · obtain hx | ⟨hx, hr⟩ := g.pending v hv
    · exact h.pending v hx
    · exact .inr ⟨hf.symm.trans hx, hr⟩

/-- A converted sample fills one place of its clip. -/
theorem appended_packSample (x : Clip × List Host.Cell) (v : Int) (hf : x.1.format = .pack12) :
    Appended x.1 1 (packSample x v).1 := by
  unfold packSample
  split
  · rename_i hp
    refine ⟨rfl, by simp [occupied, hp], fun _ => rfl, fun u hu => .inr ⟨hf, ?_⟩⟩
    cases hu
    exact pack12_range v
  · rename_i a hp
    exact ⟨rfl, by simp [occupied, hp], fun _ => by simp, fun u hu => nomatch hu⟩

theorem appended_packSamples (vs : List Int) : ∀ x : Clip × List Host.Cell, x.1.format = .pack12 →
    Appended x.1 vs.length (vs.foldl packSample x).1 := by
  induction vs with
  | nil => exact fun x _ => appended_self _ _
  | cons v rest ih =>
    intro x hf
    have hone := appended_packSample x v hf
    have hmore := ih (packSample x v) (hone.format.trans hf)
    rw [List.length_cons, Nat.add_comm]
    exact hone.trans hmore

/-- A CLIP-WRITE appends at most the samples that it accepts. -/
theorem appended_writeSamples (n : Nat) (data : List Byte) (e : Clip) (m : List Host.Cell) :
    Appended e n (writeSamples n data e m).1 := by
  have hplain : e.format ≠ .pack12 → Appended e n { e with length := e.length + n } := fun hf =>
    ⟨rfl, by simp only [occupied]; omega, fun he => absurd he hf, fun _ hv => .inl hv⟩
  unfold writeSamples
  split
  · exact hplain (by simp [*])
  · exact hplain (by simp [*])
  · rename_i hf
    have h := appended_packSamples ((samplesOfBytes data).take n) (e, m) hf
    exact ⟨h.entry, h.room.trans (Nat.add_le_add_left (List.length_take_le ..) _), h.parity, h.pending⟩

/-- A single change keeps the counts (R114). -/
theorem countsHold_of_change {s t : State} (h : CountsHold s) (hc : StoreChange s t) : CountsHold t := by
  obtain ⟨hm, hk⟩ := h
  have hzero : ∀ c, (getClip s c).state ≠ .ready → (getClip s c).refCount = 0 := fun c => (hk c).2
  cases hc with
  | still hs => exact ⟨fun m hv => by rw [hs.clips]; exact hm m (hs.compaction ▸ hv), hk.of_players hs.clips hs.players⟩
  | player hp =>
    refine ⟨fun m hv => ?_, hk.of_playerChange hp⟩
    rw [compaction_of_bare hp.frame] at hv
    rw [clipState_of_bare hp.frame]
    exact hm m hv
  | alloc hrun hfree => exact CountsHold.putClip ⟨hm, hk⟩ (by simp [hfree]) (hzero _ (by simp [hfree])).symm fun _ => rfl
  | @write c n data hup hn =>
    obtain ⟨he, -, -, -⟩ := appended_writeSamples n data (getClip s c) s.store.mem
    have hz := hzero c (by simp [hup])
    have hputMem : ∀ {x : State} {m}, CountsHold x → CountsHold (putMem x m) := fun hx =>
      ⟨hx.1, hx.2.of_players (fun _ => rfl) fun _ _ => rfl⟩
    refine hputMem (CountsHold.putClip ⟨hm, hk⟩ (by simp [hup]) ?_ fun _ => ?_) <;> rw [he]
    exact hz
  | finish hup => exact CountsHold.putClip ⟨hm, hk⟩ (by simp [hup]) rfl fun hn => absurd rfl hn
  | @free c hmov hr =>
    have hz : (getClip s c).refCount = 0 := by
      by_cases hs : (getClip s c).state = .ready
      · exact hr hs
      · exact hzero c hs
    exact CountsHold.putClip ⟨hm, hk⟩ hmov hz.symm fun _ => rfl
  | compact hrun => exact CountsHold.idle ⟨hm, hk⟩ rfl
  | turn hd hnone => exact CountsHold.idle ⟨hm, hk⟩ hnone
  | @begin c page hd hfree hp hpage =>
    have hz : (getClip s c).refCount = 0 := by
      by_cases hs : (getClip s c).state = .ready
      · simp [pinned, hs] at hp
        exact hp
      · exact hzero c hs
    refine ⟨fun m hv => ?_, ?_⟩
    · cases hv
      simp [beginMove]
    · have hput : CountsOk (putClip s c { getClip s c with state := .moving, beforeMove := some (getClip s c).state }) :=
        hk.putClip rfl fun _ => hz
      exact hput.of_players (fun _ => rfl) fun _ _ => rfl
  | copy =>
    unfold copyPages
    split
    · exact ⟨hm, hk⟩
    · rename_i m hv
      refine ⟨fun n hn => ?_, hk.of_players (fun _ => rfl) fun _ _ => rfl⟩
      cases hn
      exact hm m hv
  | @settle m hv =>
    have hz : (getClip s m.clip).refCount = 0 := hzero _ (by simp [hm m hv])
    have hput : CountsOk (putClip s m.clip (settledClip m (getClip s m.clip))) := hk.putClip rfl fun _ => hz
    exact ⟨fun n hn => (nomatch hn), hput.of_players (fun _ => rfl) fun _ _ => rfl⟩
  | fill => exact ⟨hm, hk.of_players (fun _ => rfl) fun _ _ => rfl⟩
  | @openRing i r => exact ⟨hm, hk.of_players (fun _ => rfl) fun _ _ => rfl⟩
  | @closeRing i r => exact ⟨hm, hk.of_players (fun _ => rfl) fun _ _ => rfl⟩
  | @reset _ erase hs hi hp =>
    refine ⟨fun m hv => ?_, fun c => ?_⟩
    · rw [hs] at hv
      nomatch hv
    · have hr : (getClip t c).refCount = 0 := by
        rw [getClip, hs]
        cases erase <;> simp [storeAfterReset, freeClip]
      exact ⟨hr.trans (itemsNaming_idle hp c).symm, fun _ => hr⟩

/-- Settles O14: each single change of a step keeps the counts, while the clip of a move is MOVING. -/
theorem stepKeepsTheReferenceCounts : Obligations.StepKeepsTheReferenceCounts := by
  unfold Obligations.StepKeepsTheReferenceCounts
  intro s t hm hc hs
  have hmoving : MovedIsMoving s := fun m hv => by
    obtain ⟨-, -, -, -, -, hstate⟩ := hm.1 m hv
    exact hstate
  exact (keeps_of_chain (P := CountsHold) (fun _ _ => countsHold_of_change) (storeEvolves_step hs) ⟨hmoving, hc⟩).2

end

end Sys2Proof.Machine

/-! # Every step keeps the allocations apart and Table 6-1 (R100 to R105, R116 to R118, R121) -/

namespace Sys2Proof.Machine

open Relation

/-! ## The lowest place with room (R100, R101) -/

theorem runFree_iff (rs : List (Nat × Nat)) (p n : Nat) : runFree rs p n = true ↔ ∀ r ∈ rs, apart (p, n) r := by
  simp [runFree, apart, List.all_eq_true]

theorem firstFit_some {rs : List (Nat × Nat)} {n p : Nat} (h : firstFit rs n = some p) :
    p + n ≤ 2048 ∧ ∀ r ∈ rs, apart (p, n) r := by
  have hr := List.mem_range.mp (List.mem_of_find?_eq_some h)
  exact ⟨by omega, (runFree_iff rs p n).mp (List.find?_some (p := fun q => runFree rs q n) h)⟩

theorem placeBelow_some {s : State} {c : ClipIx} {p : Nat} (h : placeBelow s c = some p) :
    p < (getClip s c).firstPage ∧ ∀ r ∈ otherRegions s c, apart (p, (getClip s c).pageCount) r :=
  ⟨placeBelow_lt h, (runFree_iff ..).mp (List.find?_some (p := fun q => runFree (otherRegions s c) q (getClip s c).pageCount) h)⟩

theorem apart_comm {a b : Nat × Nat} : apart a b ↔ apart b a := or_comm

section
variable {s t : State}

theorem clips_toList (s : State) : s.store.clips.toList = (List.finRange 64).map (getClip s) := by
  refine List.ext_getElem (by simp) fun i hi hj => ?_
  simp [getClip]

/-- The allocated regions are those of the clips, that of the move, and those of the rings. -/
theorem mem_regions {a : Nat × Nat} :
    a ∈ regions s ↔ (∃ c, a ∈ clipRegion (getClip s c)) ∨ a ∈ moveRegion s.store.compaction ∨
      ∃ i, a ∈ streamRegion (getStream s i) := by
  simp [regions, clips_toList, streams_toList]

theorem mem_clipHolds {c : ClipIx} {a : Nat × Nat} :
    a ∈ clipHolds s c ↔
      a ∈ clipRegion (getClip s c) ∨ ∃ m, s.store.compaction.move = some m ∧ m.clip = c ∧ a = (m.dest, m.pages) := by
  unfold clipHolds
  cases s.store.compaction.move with
  | none => simp
  | some m => by_cases hc : m.clip = c <;> simp [hc]

theorem mem_regions_of_clip {c : ClipIx} {a : Nat × Nat} (h : a ∈ clipHolds s c) : a ∈ regions s := by
  rw [mem_regions]
  obtain h | ⟨m, hm, -, rfl⟩ := mem_clipHolds.mp h
  · exact .inl ⟨c, h⟩
  · exact .inr (.inl (by simp [moveRegion, hm]))

theorem mem_regions_of_ring {i : StreamIx} {a : Nat × Nat} (h : a ∈ streamRegion (getStream s i)) : a ∈ regions s :=
  mem_regions.mpr (.inr (.inr ⟨i, h⟩))

theorem mem_otherRegions {c : ClipIx} {a : Nat × Nat} :
    a ∈ otherRegions s c ↔ (∃ d, d ≠ c ∧ a ∈ clipRegion (getClip s d)) ∨ ∃ i, a ∈ streamRegion (getStream s i) := by
  simp [otherRegions, streams_toList]

/-! ## Space (R100) -/

/-- No clip and no ring holds a region that it did not hold. -/
theorem SpaceOk.shrink (h : SpaceOk s) (hc : ∀ c, ∀ a ∈ clipHolds t c, a ∈ clipHolds s c)
    (hi : ∀ i, ∀ a ∈ streamRegion (getStream t i), a ∈ streamRegion (getStream s i)) : SpaceOk t := by
  obtain ⟨hcc, hci, hii, hin, hiin⟩ := h
  exact ⟨fun c d hcd a ha b hb => hcc c d hcd a (hc c a ha) b (hc d b hb), fun c i a ha b hb => hci c i a (hc c a ha) b (hi i b hb),
    fun i j hij a ha b hb => hii i j hij a (hi i a ha) b (hi j b hb), fun c a ha => hin c a (hc c a ha),
    fun i a ha => hiin i a (hi i a ha)⟩

/-- One clip holds one more region, apart from all others and inside the store. -/
theorem SpaceOk.addClip (h : SpaceOk s) {c : ClipIx} {r : Nat × Nat} (hr : r.1 + r.2 ≤ 2048)
    (hnew : ∀ a ∈ clipHolds t c, a ∈ clipHolds s c ∨ a = r) (hc : ∀ d, d ≠ c → ∀ a ∈ clipHolds t d, a ∈ clipHolds s d)
    (hi : ∀ i, ∀ a ∈ streamRegion (getStream t i), a ∈ streamRegion (getStream s i))
    (hclips : ∀ d, d ≠ c → ∀ a ∈ clipHolds s d, apart r a)
    (hrings : ∀ i, ∀ a ∈ streamRegion (getStream s i), apart r a) : SpaceOk t := by
  obtain ⟨hcc, hci, hii, hin, hiin⟩ := h
  refine ⟨fun d e hde a ha b hb => ?_, fun d i a ha b hb => ?_, fun i j hij a ha b hb => hii i j hij a (hi i a ha) b (hi j b hb),
    fun d a ha => ?_, fun i a ha => hiin i a (hi i a ha)⟩
  · by_cases hd : d = c
    · subst hd
      have hb' := hc e (Ne.symm hde) b hb
      obtain ha | rfl := hnew a ha
      · exact hcc d e hde a ha b hb'
      · exact hclips e (Ne.symm hde) b hb'
    · have ha' := hc d hd a ha
      by_cases he : e = c
      · subst he
        obtain hb | rfl := hnew b hb
        · exact hcc d e hde a ha' b hb
        · exact apart_comm.mp (hclips d hd a ha')
      · exact hcc d e hde a ha' b (hc e he b hb)
  · have hb' := hi i b hb
    by_cases hd : d = c
    · subst hd
      obtain ha | rfl := hnew a ha
      · exact hci d i a ha b hb'
      · exact hrings i b hb'
    · exact hci d i a (hc d hd a ha) b hb'
  · by_cases hd : d = c
    · subst hd
      obtain ha | rfl := hnew a ha
      · exact hin d a ha
      · exact hr
    · exact hin d a (hc d hd a ha)

/-- One stream has a new ring, apart from all regions of others and inside the store. -/
theorem SpaceOk.addRing (h : SpaceOk s) {i : StreamIx} {r : Nat × Nat} (hr : r.1 + r.2 ≤ 2048)
    (hc : ∀ c, ∀ a ∈ clipHolds t c, a ∈ clipHolds s c) (hnew : ∀ a ∈ streamRegion (getStream t i), a = r)
    (hi : ∀ j, j ≠ i → ∀ a ∈ streamRegion (getStream t j), a ∈ streamRegion (getStream s j))
    (hclips : ∀ c, ∀ a ∈ clipHolds s c, apart r a)
    (hrings : ∀ j, j ≠ i → ∀ a ∈ streamRegion (getStream s j), apart r a) : SpaceOk t := by
  obtain ⟨hcc, hci, hii, hin, hiin⟩ := h
  refine ⟨fun c d hcd a ha b hb => hcc c d hcd a (hc c a ha) b (hc d b hb), fun c j a ha b hb => ?_, fun j k hjk a ha b hb => ?_,
    fun c a ha => hin c a (hc c a ha), fun j a ha => ?_⟩
  · by_cases hj : j = i
    · subst hj
      rw [hnew b hb]
      exact apart_comm.mp (hclips c a (hc c a ha))
    · exact hci c j a (hc c a ha) b (hi j hj b hb)
  · by_cases hj : j = i
    · subst hj
      rw [hnew a ha]
      exact hrings k (Ne.symm hjk) b (hi k (Ne.symm hjk) b hb)
    · by_cases hk : k = i
      · subst hk
        rw [hnew b hb]
        exact apart_comm.mp (hrings j hj a (hi j hj a ha))
      · exact hii j k hjk a (hi j hj a ha) b (hi k hk b hb)
  · by_cases hj : j = i
    · subst hj
      rw [hnew a ha]
      exact hr
    · exact hiin j a (hi j hj a ha)

/-! ## The entries (R102, R104, R105) -/

theorem clipOk_free : ClipOk freeClip :=
  ⟨fun _ => rfl, fun h => absurd rfl h, fun _ hv => (nomatch hv), fun _ => rfl, fun h => (nomatch h), fun _ => rfl⟩

theorem clipOk_allocated {f : Format} {capacity page : Nat} (h1 : 1 ≤ capacity) (h2 : capacity ≤ 262144) :
    ClipOk (allocatedClip f capacity page) :=
  ⟨fun h => (nomatch h), fun _ => ⟨h1, h2, Nat.zero_le _, rfl⟩, fun _ hv => (nomatch hv), fun _ => rfl, fun h => (nomatch h),
    fun _ => rfl⟩

theorem ClipOk.refCount {e : Clip} (h : ClipOk e) {n : Nat} (hn : e.state = .free → n = 0) : ClipOk { e with refCount := n } := by
  obtain ⟨hf, hrest⟩ := h
  refine ⟨fun hs => ?_, hrest⟩
  have he := hf hs
  rw [hn hs, he]
  rfl

theorem ClipOk.append {e x : Clip} {n : Nat} (h : ClipOk e) (hs : e.state = .uploading) (hn : n ≤ e.capacity - occupied e)
    (ha : Appended e n x) : ClipOk x := by
  obtain ⟨-, hcap, hpend, heven, -, hbefore⟩ := h
  obtain ⟨h1, h2, hocc, hpages⟩ := hcap (by simp [hs])
  obtain ⟨hentry, hroom, hparity, hpending⟩ := ha
  have hstate : x.state = .uploading := by rw [hentry]; exact hs
  have hfmt : x.format = e.format := by rw [hentry]
  have hcapx : x.capacity = e.capacity := by rw [hentry]
  have hbx : x.beforeMove = e.beforeMove := by rw [hentry]
  have hpx : x.pageCount = e.pageCount := by rw [hentry]
  refine ⟨fun hx => ?_, fun _ => ?_, fun v hv => ?_, fun hx => ?_, fun hx => ?_, fun _ => ?_⟩
  · rw [hstate] at hx
    nomatch hx
  · rw [hcapx, hpx, hfmt]
    exact ⟨h1, h2, by omega, hpages⟩
  · obtain hv | ⟨hf, hr⟩ := hpending v hv
    · obtain ⟨-, hf, hr⟩ := hpend v hv
      exact ⟨hstate, hfmt.trans hf, hr⟩
    · exact ⟨hstate, hfmt.trans hf, hr⟩
  · have hf := hfmt.symm.trans hx
    rw [hparity hf]
    exact heven hf
  · rw [hstate] at hx
    nomatch hx
  · rw [hbx]
    exact hbefore (by simp [hs])

theorem ClipOk.finished {e : Clip} (h : ClipOk e) (hs : e.state = .uploading) : ClipOk { e with state := .ready, pending := none } := by
  obtain ⟨-, hcap, -, heven, -, hbefore⟩ := h
  obtain ⟨h1, h2, hocc, hpages⟩ := hcap (by simp [hs])
  refine ⟨fun hx => (nomatch hx), fun _ => ⟨h1, h2, ?_, hpages⟩, fun _ hv => (nomatch hv), heven, fun hx => (nomatch hx), fun _ =>
    hbefore (by simp [hs])⟩
  simp only [occupied] at hocc ⊢
  simp only [Option.isSome_none, Bool.false_eq_true, if_false]
  omega

/-- A clip that is not pinned and not moved begins to move (R118). -/
theorem ClipOk.moved {e : Clip} (h : ClipOk e) (hs : e.state = .ready ∨ e.state = .damaged) :
    ClipOk { e with state := .moving, beforeMove := some e.state } := by
  obtain ⟨-, hcap, hpend, heven, -, -⟩ := h
  have hne : e.state ≠ .free := by rintro hx; simp [hx] at hs
  refine ⟨fun hx => (nomatch hx), fun _ => hcap hne, fun v hv => ?_, heven, fun _ => ?_, fun hx => absurd rfl hx⟩
  · obtain ⟨hu, -⟩ := hpend v hv
    simp [hu] at hs
  · obtain hs | hs := hs
    · exact .inl (congrArg some hs)
    · exact .inr (congrArg some hs)

/-- A MOVING clip comes to rest, at its old or its new place, READY or DAMAGED (R118, R121). -/
theorem ClipOk.rested {e : Clip} (h : ClipOk e) (hs : e.state = .moving) {page : Nat} {st : ClipState}
    (hst : st = .ready ∨ st = .damaged) : ClipOk { e with firstPage := page, state := st, beforeMove := none } := by
  obtain ⟨-, hcap, hpend, heven, -, -⟩ := h
  have hcap' := hcap (by simp [hs])
  refine ⟨fun hx => ?_, fun _ => hcap', fun v hv => ?_, heven, fun hx => ?_, fun _ => rfl⟩
  · have hx : st = .free := hx
    simp [hx] at hst
  · obtain ⟨hu, -⟩ := hpend v hv
    simp [hs] at hu
  · have hx : st = .moving := hx
    simp [hx] at hst

theorem ClipOk.beforeMove_rests {e : Clip} (h : ClipOk e) (hs : e.state = .moving) :
    e.beforeMove.getD .ready = .ready ∨ e.beforeMove.getD .ready = .damaged := by
  obtain ⟨-, -, -, -, hb, -⟩ := h
  obtain hb | hb := hb hs
  · rw [hb]
    exact .inl rfl
  · rw [hb]
    exact .inr rfl

/-! ## What every single change keeps -/

/-- The entries keep Table 6-1, the allocations are apart, and a clip is MOVING exactly while its move is in progress. -/
structure StoreHolds (s : State) : Prop where
  clips : ∀ c, ClipOk (getClip s c)
  space : SpaceOk s
  move : MoveOk s

theorem MoveOk.putClip (h : MoveOk s) {c : ClipIx} {e : Clip} (hc : (getClip s c).state ≠ .moving) (he : e.state ≠ .moving) :
    MoveOk (putClip s c e) := by
  obtain ⟨hm, hmoving⟩ := h
  refine ⟨fun m hv => ?_, fun d hd => ?_⟩
  · obtain ⟨hrun, hsrc, hpages, hlt, hcopied, hstate⟩ := hm m hv
    rw [getClip_putClip_ne s c m.clip e fun hcm => hc (hcm ▸ hstate)]
    exact ⟨hrun, hsrc, hpages, hlt, hcopied, hstate⟩
  · rw [getClip_putClip] at hd
    split at hd
    · exact absurd hd he
    · exact hmoving d hd

/-- An entry that changes neither becomes MOVING nor was it. -/
theorem StoreHolds.putClip (h : StoreHolds s) {c : ClipIx} {e : Clip} (hc : (getClip s c).state ≠ .moving) (he : e.state ≠ .moving)
    (ho : ClipOk e) (hs : SpaceOk (putClip s c e)) : StoreHolds (putClip s c e) := by
  refine ⟨fun d => ?_, hs, h.move.putClip hc he⟩
  rw [getClip_putClip]
  split
  · exact ho
  · exact h.clips d

/-- A new entry of a clip that holds no region the old one did not hold. -/
theorem SpaceOk.putClip (h : SpaceOk s) {c : ClipIx} {e : Clip} (he : ∀ a ∈ clipRegion e, a ∈ clipRegion (getClip s c)) :
    SpaceOk (putClip s c e) := by
  refine h.shrink (fun d a ha => ?_) fun i a ha => ha
  rw [mem_clipHolds, getClip_putClip] at ha
  rw [mem_clipHolds]
  refine ha.imp_left fun ha => ?_
  split at ha
  · rename_i hd
    exact hd ▸ he a ha
  · exact ha

/-- The clips but for their counts, the compaction and the rings are as they were. -/
theorem StoreHolds.congr (h : StoreHolds s) (hc : ∀ c, ∃ n, getClip t c = { getClip s c with refCount := n } ∧
    ((getClip s c).state = .free → n = 0)) (hk : t.store.compaction = s.store.compaction)
    (hi : ∀ i, streamRegion (getStream t i) = streamRegion (getStream s i)) : StoreHolds t := by
  refine ⟨fun c => ?_, ?_, ?_⟩
  · obtain ⟨n, he, hn⟩ := hc c
    rw [he]
    exact (h.clips c).refCount hn
  · refine h.space.shrink (fun c a ha => ?_) fun i a ha => hi i ▸ ha
    obtain ⟨n, he, -⟩ := hc c
    rw [mem_clipHolds, he, hk] at ha
    exact mem_clipHolds.mpr ha
  · obtain ⟨hm, hmoving⟩ := h.move
    refine ⟨fun m hv => ?_, fun c hs => ?_⟩
    · obtain ⟨n, he, -⟩ := hc m.clip
      rw [hk] at hv ⊢
      rw [he]
      exact hm m hv
    · obtain ⟨n, he, -⟩ := hc c
      rw [he] at hs
      rw [hk]
      exact hmoving c hs

theorem StoreHolds.still (h : StoreHolds s) (hc : ∀ c, getClip t c = getClip s c) (hk : t.store.compaction = s.store.compaction)
    (hi : ∀ i, streamRegion (getStream t i) = streamRegion (getStream s i)) : StoreHolds t := by
  refine h.congr (fun c => ⟨(getClip s c).refCount, hc c, fun hf => ?_⟩) hk hi
  rw [(h.clips c).1 hf]
  rfl

/-- Without a move no clip is MOVING. -/
theorem StoreHolds.resting (h : StoreHolds s) (hk : s.store.compaction.move = none) (c : ClipIx) : (getClip s c).state ≠ .moving := by
  intro hs
  obtain ⟨m, hm, -⟩ := h.move.2 c hs
  rw [hk] at hm
  nomatch hm

/-- A compaction record without a move, where there was none (R117, R120). -/
theorem StoreHolds.idle (h : StoreHolds s) {k : Compaction} (hs : s.store.compaction.move = none) (hk : k.move = none) :
    StoreHolds (putCompaction s k) := by
  refine ⟨h.clips, h.space.shrink (fun c a ha => ?_) fun i a ha => ha, fun m hm => absurd (hk.symm.trans hm) (by simp), fun c hc =>
    absurd hc (h.resting hs c)⟩
  obtain ha | ⟨m, hm, -⟩ := mem_clipHolds.mp ha
  · exact mem_clipHolds.mpr (.inl ha)
  · exact absurd (hk.symm.trans hm) (by simp)

theorem StoreHolds.move_none (h : StoreHolds s) (hk : s.store.compaction.running = false) : s.store.compaction.move = none := by
  cases hm : s.store.compaction.move with
  | none => rfl
  | some m =>
    obtain ⟨hrun, -⟩ := h.move.1 m hm
    rw [hk] at hrun
    nomatch hrun

/-- CLIP-ALLOC places a clip where there is room (R101, R109). -/
theorem StoreHolds.alloc (h : StoreHolds s) {c : ClipIx} {f : Format} {capacity page : Nat} (hc : (getClip s c).state = .free)
    (h1 : 1 ≤ capacity) (h2 : capacity ≤ 262144) (hp : firstFit (regions s) (clipPages f capacity) = some page) :
    StoreHolds (Machine.putClip s c (allocatedClip f capacity page)) := by
  obtain ⟨hin, hroom⟩ := firstFit_some hp
  refine h.putClip (by simp [hc]) (by simp [allocatedClip]) (clipOk_allocated h1 h2) ?_
  refine h.space.addClip (c := c) (r := (page, clipPages f capacity)) hin (fun a ha => ?_) (fun d hd a ha => ?_) (fun i a ha => ha)
    (fun d _ a ha => hroom a (mem_regions_of_clip ha)) fun i a ha => hroom a (mem_regions_of_ring ha)
  · rw [mem_clipHolds, getClip_putClip_self] at ha
    refine ha.elim (fun ha => .inr ?_) fun ha => .inl (mem_clipHolds.mpr (.inr ha))
    simpa [clipRegion, allocatedClip] using ha
  · rw [mem_clipHolds, getClip_putClip_ne s c d _ (Ne.symm hd)] at ha
    exact mem_clipHolds.mpr ha

/-- STREAM-OPEN places a ring where there is room (R101, R145). -/
theorem StoreHolds.openRing (h : StoreHolds s) {i : StreamIx} {r : Stream}
    (hp : firstFit (regions s) r.pageCount = some r.firstPage) : StoreHolds (putStream s i r) := by
  obtain ⟨hin, hroom⟩ := firstFit_some hp
  refine ⟨h.clips, ?_, h.move⟩
  refine h.space.addRing (i := i) (r := (r.firstPage, r.pageCount)) hin (fun c a ha => ha) (fun a ha => ?_) (fun j hj a ha => ?_)
    (fun c a ha => hroom a (mem_regions_of_clip ha)) fun j _ a ha => hroom a (mem_regions_of_ring ha)
  · rw [getStream_putStream_self, streamRegion] at ha
    split at ha
    · nomatch ha
    · exact List.mem_singleton.mp ha
  · rwa [getStream_putStream_ne s i j r (Ne.symm hj)] at ha

/-- A clip that is not pinned begins to move, to free pages and its own (R117, R118). -/
theorem StoreHolds.beginMove (h : StoreHolds s) {c : ClipIx} {page : Nat} (hd : turnDue s = true) (hc : (getClip s c).state ≠ .free)
    (hp : pinned s (.clip c) = false) (hpage : placeBelow s c = some page) : StoreHolds (beginMove c page s) := by
  obtain ⟨hrun, hnone⟩ := (turnDue_iff s).mp hd
  obtain ⟨hlt, hroom⟩ := placeBelow_some hpage
  have hmov := h.resting hnone c
  have hstate : (getClip s c).state = .ready ∨ (getClip s c).state = .damaged := by
    cases hs : (getClip s c).state <;> simp_all [pinned]
  have hown : ((getClip s c).firstPage, (getClip s c).pageCount) ∈ clipHolds s c :=
    mem_clipHolds.mpr (.inl (by simp [clipRegion, hc]))
  obtain ⟨-, -, -, hinside, -⟩ := h.space
  have hin := hinside c _ hown
  have hget : ∀ d, getClip (Machine.beginMove c page s) d =
      if c = d then { getClip s c with state := .moving, beforeMove := some (getClip s c).state } else getClip s d := fun d => by
    simp only [Machine.beginMove, getClip_putCompaction, getClip_putClip]
  have hmove : (Machine.beginMove c page s).store.compaction.move =
      some ⟨c, (getClip s c).firstPage, page, (getClip s c).pageCount, 0⟩ := rfl
  have hholds : ∀ d a, a ∈ clipHolds s d → a ∈ clipRegion (getClip s d) := fun d a ha => by
    obtain ha | ⟨m, hm, -⟩ := mem_clipHolds.mp ha
    · exact ha
    · rw [hnone] at hm
      nomatch hm
  refine ⟨fun d => ?_, ?_, fun m hm => ?_, fun d hdm => ?_⟩
  · rw [hget]
    split
    · exact (h.clips c).moved hstate
    · exact h.clips d
  · refine h.space.addClip (c := c) (r := (page, (getClip s c).pageCount)) (by dsimp only at hin ⊢; omega) (fun a ha => ?_)
      (fun d hdc a ha => ?_) (fun i a ha => ha)
      (fun d hdc a ha => hroom a (mem_otherRegions.mpr (.inl ⟨d, hdc, hholds d a ha⟩)))
      fun i a ha => hroom a (mem_otherRegions.mpr (.inr ⟨i, ha⟩))
    · obtain ha | ⟨m, hm, -, rfl⟩ := mem_clipHolds.mp ha
      · rw [hget, if_pos rfl] at ha
        refine .inl (mem_clipHolds.mpr (.inl ?_))
        simpa [clipRegion, hc] using ha
      · cases hmove.symm.trans hm
        exact .inr rfl
    · obtain ha | ⟨m, hm, hmc, -⟩ := mem_clipHolds.mp ha
      · rw [hget, if_neg (Ne.symm hdc)] at ha
        exact mem_clipHolds.mpr (.inl ha)
      · cases hmove.symm.trans hm
        exact absurd hmc (Ne.symm hdc)
  · cases hmove.symm.trans hm
    dsimp only
    rw [hget, if_pos rfl]
    exact ⟨hrun, rfl, rfl, hlt, Nat.zero_le _, rfl⟩
  · rw [hget] at hdm
    split at hdm
    · exact ⟨_, hmove, ‹_›⟩
    · exact absurd hdm (h.resting hnone d)

/-- A period's copying (R118). -/
theorem StoreHolds.copyPages (h : StoreHolds s) : StoreHolds (copyPages s) := by
  unfold Machine.copyPages
  split
  · exact h
  · rename_i m hm
    obtain ⟨hrun, hsrc, hpages, hlt, hcopied, hstate⟩ := h.move.1 m hm
    refine ⟨h.clips, h.space.shrink (fun c a ha => ?_) fun i a ha => ha, fun n hn => ?_, fun c hc => ?_⟩
    · obtain ha | ⟨n, hn, hc, rfl⟩ := mem_clipHolds.mp ha
      · exact mem_clipHolds.mpr (.inl ha)
      · cases hn
        exact mem_clipHolds.mpr (.inr ⟨m, hm, hc, rfl⟩)
    · cases hn
      exact ⟨hrun, hsrc, hpages, hlt, by dsimp only; omega, hstate⟩
    · obtain ⟨n, hn, hnc⟩ := h.move.2 c hc
      cases hm.symm.trans hn
      exact ⟨_, rfl, hnc⟩

/-- A move completes: the clip rests at its new place, in its state before the move (R118). -/
theorem StoreHolds.settle (h : StoreHolds s) {m : Move} (hm : s.store.compaction.move = some m) :
    StoreHolds
      (putCompaction (Machine.putClip s m.clip (settledClip m (getClip s m.clip))) { s.store.compaction with move := none }) := by
  obtain ⟨-, -, hpages, -, -, hstate⟩ := h.move.1 m hm
  have hrest := (h.clips m.clip).beforeMove_rests hstate
  have hok : ClipOk (settledClip m (getClip s m.clip)) := (h.clips m.clip).rested hstate hrest
  refine ⟨fun c => ?_, h.space.shrink (fun c a ha => ?_) fun i a ha => ha, fun n hn => (nomatch hn), fun c hc => ?_⟩
  · rw [getClip_putCompaction, getClip_putClip]
    split
    · exact hok
    · exact h.clips c
  · obtain ha | ⟨n, hn, -⟩ := mem_clipHolds.mp ha
    · rw [getClip_putCompaction, getClip_putClip] at ha
      rw [mem_clipHolds]
      split at ha
      · rename_i hc
        refine .inr ⟨m, hm, hc, ?_⟩
        rw [clipRegion] at ha
        split at ha
        · nomatch ha
        · rw [hpages]
          exact List.mem_singleton.mp ha
      · exact .inl ha
    · nomatch hn
  · rw [getClip_putCompaction, getClip_putClip] at hc
    split at hc
    · have hc : (getClip s m.clip).beforeMove.getD .ready = .moving := hc
      simp [hc] at hrest
    · rename_i hne
      obtain ⟨n, hn, hnc⟩ := h.move.2 c hc
      cases hm.symm.trans hn
      exact absurd hnc hne

/-- The clips of a store after a device reset (R121, R122). -/
theorem clips_storeAfterReset (erase : Bool) (st : Store) (c : ClipIx) :
    (storeAfterReset erase st).clips[c] = if erase then freeClip else { (abandonMove st)[c] with refCount := 0 } := by
  cases erase <;> simp [storeAfterReset]

/-- A clip whose move is abandoned rests, DAMAGED or as before the move (R121). -/
theorem clipOk_abandoned (h : StoreHolds s) {m : Move} (hm : s.store.compaction.move = some m) :
    ClipOk (abandonedClip m (getClip s m.clip)) ∧ (abandonedClip m (getClip s m.clip)).state ≠ .moving := by
  obtain ⟨-, -, -, -, -, hstate⟩ := h.move.1 m hm
  have hrest := (h.clips m.clip).beforeMove_rests hstate
  unfold abandonedClip
  split
  · exact ⟨(h.clips m.clip).rested hstate (.inr rfl), by simp⟩
  · exact ⟨(h.clips m.clip).rested (page := (getClip s m.clip).firstPage) hstate hrest, by
      dsimp only
      obtain hr | hr := hrest <;> simp [hr]⟩

/-- The entries after a move in progress is abandoned are in order, hold no new region, and none is MOVING (R121). -/
theorem abandonMove_holds (h : StoreHolds s) (c : ClipIx) :
    ClipOk (abandonMove s.store)[c] ∧ (abandonMove s.store)[c].state ≠ .moving ∧
      ∀ a ∈ clipRegion (abandonMove s.store)[c], a ∈ clipHolds s c := by
  have hkept : ∀ d, (getClip s d).state ≠ .moving → ClipOk (getClip s d) ∧ (getClip s d).state ≠ .moving ∧
      ∀ a ∈ clipRegion (getClip s d), a ∈ clipHolds s d :=
    fun d hd => ⟨h.clips d, hd, fun a ha => mem_clipHolds.mpr (.inl ha)⟩
  rw [getElem_abandonMove]
  split
  · rename_i hm
    exact hkept c (h.resting hm c)
  · rename_i m hm
    obtain ⟨-, -, hpages, -, -, hstate⟩ := h.move.1 m hm
    split
    · rename_i hc
      subst hc
      obtain ⟨hok, hne⟩ := clipOk_abandoned h hm
      refine ⟨hok, hne, fun a ha => ?_⟩
      have ha : a ∈ clipRegion (abandonedClip m (getClip s m.clip)) := ha
      rw [mem_clipHolds]
      rw [clipRegion] at ha
      split at ha
      · nomatch ha
      · rw [List.mem_singleton.mp ha]
        unfold abandonedClip
        split
        · exact .inr ⟨m, hm, rfl, by rw [hpages]⟩
        · exact .inl (by simp [clipRegion, hstate])
    · rename_i hc
      refine hkept c fun hs => ?_
      obtain ⟨n, hn, hnc⟩ := h.move.2 c hs
      cases hm.symm.trans hn
      exact hc hnc

theorem StoreHolds.reset (h : StoreHolds s) {erase : Bool} (hs : t.store = storeAfterReset erase s.store)
    (hi : ∀ i, (getStream t i).state = .closed) : StoreHolds t := by
  have hmove : t.store.compaction.move = none := by rw [hs]; rfl
  have hclip : ∀ c, getClip t c = if erase then freeClip else { (abandonMove s.store)[c] with refCount := 0 } := fun c => by
    rw [getClip, hs, clips_storeAfterReset]
  refine ⟨fun c => ?_, h.space.shrink (fun c a ha => ?_) fun i a ha => ?_, fun m hm => ?_, fun c hc => ?_⟩
  · obtain ⟨hok, -, -⟩ := abandonMove_holds h c
    rw [hclip]
    split
    · exact clipOk_free
    · exact hok.refCount fun _ => rfl
  · obtain ⟨-, -, hsub⟩ := abandonMove_holds h c
    obtain ha | ⟨m, hm, -⟩ := mem_clipHolds.mp ha
    · rw [hclip] at ha
      split at ha
      · nomatch ha
      · exact hsub a ha
    · rw [hmove] at hm
      nomatch hm
  · simp [streamRegion, hi i] at ha
  · rw [hmove] at hm
    nomatch hm
  · obtain ⟨-, hne, -⟩ := abandonMove_holds h c
    rw [hclip] at hc
    split at hc
    · nomatch hc
    · exact absurd hc hne

/-- A player's items leave the entries but for their counts, and a FREE clip's count at 0 (R114). -/
theorem StoreHolds.player (h : StoreHolds s) {p : PosIx} {w : PlayerId} {pl : Player} {lost gained : ClipIx → Nat}
    (hc : PlayerChange s p w pl lost gained t) : StoreHolds t := by
  refine h.congr (fun c => ⟨(getClip t c).refCount, ?_, fun hf => ?_⟩)
    (compaction_of_bare (s := putPlayer s p w pl) hc.frame) fun i => ?_
  · have he := clip_of_bare hc.frame c
    have hr := congrArg (fun x : Clip => { x with refCount := (getClip t c).refCount }) he
    exact hr
  · have hgained : gained c = 0 := by_contra fun hg => by simp [hc.ready c hg] at hf
    have hzero : (getClip s c).refCount = 0 := by rw [(h.clips c).1 hf]; rfl
    rw [hc.counts, hgained, hzero, Nat.zero_sub]
  · have he := stream_of_bare hc.frame i
    have hr := congrArg streamRegion he
    exact hr

/-- A single change keeps the store in order. -/
theorem storeHolds_of_change (h : StoreHolds s) (hc : StoreChange s t) : StoreHolds t := by
  cases hc with
  | still hs => exact h.still hs.clips hs.compaction hs.rings
  | player hp => exact h.player hp
  | alloc hrun hfree h1 h2 hp => exact h.alloc hfree h1 h2 hp
  | @write c n data hup hn =>
    have ha := appended_writeSamples n data (getClip s c) s.store.mem
    have hs : (writeSamples n data (getClip s c) s.store.mem).1.state = .uploading := by rw [ha.entry]; exact hup
    have hput := h.putClip (c := c) (by simp [hup]) (by simp [hs]) ((h.clips c).append hup hn ha)
      (h.space.putClip fun a hr => by rw [ha.entry] at hr; exact hr)
    exact hput.still (fun _ => rfl) rfl fun _ => rfl
  | @finish c hup =>
    exact h.putClip (by simp [hup]) (by simp) ((h.clips c).finished hup) (h.space.putClip fun a hr => by
      simpa [clipRegion, hup] using hr)
  | free hm _ => exact h.putClip hm (by simp [freeClip]) clipOk_free (h.space.putClip fun a hr => nomatch hr)
  | compact hrun => exact h.idle (h.move_none hrun) rfl
  | turn hd hk => exact h.idle ((turnDue_iff s).mp hd).2 hk
  | begin hd hfree hp hpage => exact h.beginMove hd hfree hp hpage
  | copy => exact h.copyPages
  | settle hm => exact h.settle hm
  | fill => exact h.still (fun _ => rfl) rfl fun _ => rfl
  | openRing _ _ hp => exact h.openRing hp
  | @closeRing i r hr =>
    refine ⟨h.clips, h.space.shrink (fun c a ha => ha) fun j a ha => ?_, h.move⟩
    rw [getStream_putStream] at ha
    split at ha
    · simp [streamRegion, hr] at ha
    · exact ha
  | reset hs hi _ => exact h.reset hs hi

/-- Settles O16: each single change of a step keeps the store in order. -/
theorem stepKeepsTheStore : Obligations.StepKeepsTheStore := by
  unfold Obligations.StepKeepsTheStore
  intro s t hc hs hm hstep
  obtain ⟨hclips, hspace, hmove⟩ :=
    keeps_of_chain (P := StoreHolds) (fun _ _ => storeHolds_of_change) (storeEvolves_step hstep) ⟨hc, hs, hm⟩
  exact ⟨hclips, hspace, hmove⟩

end

end Sys2Proof.Machine

/-! # The state after reset (R100, R114, R123, R135, R143, R156, R164, R178) -/

namespace Sys2Proof.Machine

theorem getPlayer_reset (p : PosIx) (w : PlayerId) : getPlayer State.reset p w = idlePlayer := by
  rw [getPlayer, getPos_reset]
  cases w <;> rfl

theorem clipHolds_reset (c : ClipIx) : clipHolds State.reset c = [] := by
  unfold clipHolds
  rw [getClip_reset]
  rfl

theorem streamRegion_reset (i : StreamIx) : streamRegion (getStream State.reset i) = [] := by
  rw [getStream_reset]
  rfl

theorem linkOk_powerOn : LinkOk linkAtPowerOn := by
  simp [LinkOk, linkAtPowerOn, repliesWaiting, reportsOf, repeatsInRange]

theorem playersOk_reset (p : PosIx) : PlayersOk (positionAtReset p) := ⟨playerOk_idle, playerOk_idle, fun _ => rfl, fun _ => rfl⟩

theorem toneOk_reset (p : PosIx) : ToneOk (positionAtReset p) := by
  simp [ToneOk, positionAtReset, toneAtReset]

theorem engineOk_reset : EngineOk State.reset :=
  have h : SearchesHold State.reset := searchesHold_allReset rfl rfl
  (engineOk_iff _).2 ⟨h.holds, h.starts⟩

theorem countsOk_reset : CountsOk State.reset := fun c => by
  rw [getClip_reset, itemsNaming_idle getPlayer_reset]
  exact ⟨rfl, fun _ => rfl⟩

theorem listenersOk_reset : ListenersOk State.reset := fun i => by
  simp [getStream_reset, closedStream, listenersOf, allItems, getPlayer_reset, heldItems, idlePlayer]

theorem spaceOk_reset : SpaceOk State.reset := by
  simp [SpaceOk, clipHolds_reset, streamRegion_reset]

theorem moveOk_reset : MoveOk State.reset :=
  ⟨fun _ hm => (nomatch hm), fun c hc => by simp [getClip_reset, freeClip] at hc⟩

theorem streamOk_closed : StreamOk closedStream := by
  have hhalf : ∀ h, halfOf closedStream h = emptyHalf := fun h => by unfold halfOf; split <;> rfl
  have hquiet : ∀ h, (halfOf closedStream h).state ≠ .playing := fun h => by simp [hhalf, emptyHalf]
  refine ⟨fun _ => rfl, fun h => absurd rfl h, fun h hp => absurd hp (hquiet h), fun h => ?_, fun h _ => ?_,
    fun hp => absurd hp (hquiet _), fun _ => rfl, List.length_replicate⟩
  all_goals rw [hhalf]
  · exact ⟨Nat.le_refl 0, Nat.le_refl 0⟩
  · exact ⟨rfl, rfl⟩

theorem portsOk_powerOn : PortsOk portsAtPowerOn := by
  have hmap : identityMap.toList.Nodup := by decide
  simp [PortsOk, PortOk, portsAtPowerOn, startedPorts, startPort, startState, zeroSlips, hmap, buffering, groupsToBegin]

/-- Settles O5: unit by unit, from the record that each unit has after power-on. -/
theorem resetMeetsTheInvariants : Obligations.ResetMeetsTheInvariants := by
  unfold Obligations.ResetMeetsTheInvariants
  have hpositions : ∀ p, PlayersOk (positionAtReset p) ∧ ToneOk (positionAtReset p) ∧ CancellerOk (positionAtReset p) ∧
      SuppressorOk (positionAtReset p).suppressor ∧ ParamsOk (positionAtReset p).params := fun p =>
    ⟨playersOk_reset p, toneOk_reset p, (cancellerFits_reset p).2, suppressorOk_reset, paramsOk_default⟩
  exact ⟨reset_mem_wf, linkOk_powerOn, fun p => getPos_reset p ▸ hpositions p, deviceOk_default, engineOk_reset, countsOk_reset,
    listenersOk_reset, fun c => getClip_reset c ▸ clipOk_free, spaceOk_reset, moveOk_reset, fun i => getStream_reset i ▸ streamOk_closed,
    portsOk_powerOn, fun h => nomatch h⟩

end Sys2Proof.Machine

/-! # The commands of the Prompt Store and of the Hold Streams (R100 to R116, R142 to R145) -/

namespace Sys2Proof.Machine

section
variable {s : State}

/-! ## First-fit (R101) -/

theorem runFree_and_fits_iff (p n : Nat) : (runFree (regions s) p n = true ∧ p < 2049 - n) ↔ RoomAt s p n := by
  rw [runFree_iff, RoomAt, and_comm]
  exact and_congr_left fun _ => by omega

/-- First-fit is the lowest page with room (R101). -/
theorem firstFit_eq_some_iff {p n : Nat} : firstFit (regions s) n = some p ↔ FirstRoom s p n := by
  rw [firstFit, List.find?_range_eq_some, List.mem_range, ← and_assoc, runFree_and_fits_iff]
  refine and_congr_right fun hroom => forall₂_congr fun q hq => ?_
  obtain ⟨-, hp⟩ := (runFree_and_fits_iff p n).mpr hroom
  rw [← runFree_and_fits_iff]
  simp [show q < 2049 - n by omega]

theorem firstFit_eq_none_iff {n : Nat} : firstFit (regions s) n = none ↔ ∀ p, ¬RoomAt s p n := by
  simp only [firstFit, List.find?_range_eq_none, ← runFree_and_fits_iff, not_and']
  simp

/-! ## Clip and stream ids, codes (R108, R144) -/

theorem onClip_bad {id : Nat} (h : 64 ≤ id) (act : ClipIx → Answer) : onClip s id act = refuse s .badValue := by
  simp [onClip, Nat.not_lt.2 h]

theorem formatOfCode_formatCode (f : Format) : formatOfCode (BitVec.ofNat 8 (formatCode f)).toNat = some f := by cases f <;> rfl

theorem formatOfCode_bad {code : Nat} (h : 2 < code) : formatOfCode code = none := by
  obtain ⟨k, rfl⟩ := Nat.exists_eq_add_of_le' h
  rfl

theorem streamFormatOfCode_formatCode {f : Format} (h : f ≠ .pack12) :
    streamFormatOfCode (BitVec.ofNat 8 (formatCode f)).toNat = some f := by
  cases f with
  | lin16 => rfl
  | pack12 => exact absurd rfl h
  | log8 => rfl

theorem streamFormatOfCode_bad {code : Byte} (h : code = 1 ∨ 2 < code.toNat) : streamFormatOfCode code.toNat = none := by
  obtain rfl | h := h
  · rfl
  · obtain ⟨k, hk⟩ := Nat.exists_eq_add_of_le' h
    rw [hk]
    rfl

theorem u32At_clipAlloc (clip format : Byte) (v : BitVec 32) : u32At (clip :: format :: bytes32 v) 2 = v.toNat := by
  simp [u32At, u16At, byteAt, bytes32]

theorem u16At_streamOpen (stream format : Byte) (v : BitVec 16) : u16At (stream :: format :: bytes16 v) 2 = v.toNat := by
  simp [u16At, byteAt, bytes16]

/-! ## CLIP-END and CLIP-FREE (R111, R112) -/

/-- Settles O47: the two commands read the clip's state alone. -/
theorem clipEndAndFree : Obligations.ClipEndAndFree := by
  unfold Obligations.ClipEndAndFree
  refine ⟨fun s tag clip ha hclip => ?_, fun s tag c ha => ?_⟩
  · rw [exec_clipEnd ha, exec_clipFree ha]
    simp only [perform, clipEndCommand, clipFreeCommand, onDevice_device, byteAt_cons_zero, onClip_bad hclip, answered_refuse]
    trivial
  · simp only [exec_clipEnd ha, exec_clipFree ha, perform, clipEndCommand, clipFreeCommand, onDevice_device, byteAt_cons_zero, onClip_clipByte]
    refine ⟨fun h => ?_, fun h => ?_, fun h => ?_, fun h => ?_, fun h hr => ?_, ?_⟩
    · simp [h, answered]
    · simp [h]
    · simp [h]
    · simp [h]
    · simp [h, hr]
    · rintro (h | h | ⟨h, hr⟩)
      · simp [h, freeClip]
      · simp [h, freeClip]
      · simp [h, hr, freeClip]

/-! ## CLIP-ALLOC (R109) -/

/-- Settles O45: the refusals in their order; then first-fit answers by whether a page has room. -/
theorem clipAllocPlacesFirstFit : Obligations.ClipAllocPlacesFirstFit := by
  unfold Obligations.ClipAllocPlacesFirstFit
  refine fun s tag capacity ha => ⟨fun clip format hbad => ?_, fun c f => ?_⟩
  · simp only [exec_clipAlloc ha, perform, clipAllocCommand, onDevice_device, byteAt_cons_zero, byteAt_cons_succ]
    obtain hclip | hformat := hbad
    · rw [onClip_bad hclip, answered_refuse]
    · rw [formatOfCode_bad hformat]
      unfold onClip
      split <;> rfl
  · simp only [exec_clipAlloc ha, perform, clipAllocCommand, onDevice_device, byteAt_cons_zero, byteAt_cons_succ, onClip_clipByte,
      formatOfCode_formatCode, u32At_clipAlloc]
    refine ⟨fun hrun => ?_, fun hrun hstate => ?_, fun hrun hstate => ⟨fun page hroom => ?_, fun hroom => ?_⟩⟩
    · simp [hrun]
    · simp [hrun, hstate]
    · have hfit : firstFit (regions s) (clipPages f (clampNat capacity.toNat 1 262144)) = some page := firstFit_eq_some_iff.mpr hroom
      simp only [hrun, hstate, hfit, okOrClamped_ne, Bool.false_eq_true, if_false, ne_eq, not_true, answered]
      rfl
    · have hfit : firstFit (regions s) (clipPages f (clampNat capacity.toNat 1 262144)) = none := firstFit_eq_none_iff.mpr hroom
      simp only [hrun, hstate, hfit, Bool.false_eq_true, if_false, ne_eq, not_true, answered]
      rfl

/-! ## STREAM-OPEN (R145) -/

theorem ringPages_eq {f : Format} (h : f ≠ .pack12) (n : Nat) :
    ringPages f n = 2 * (((if f = .log8 then n else 2 * n) + 255) / 256) := by
  cases f with
  | lin16 => rfl
  | pack12 => exact absurd rfl h
  | log8 => simp [ringPages, halfPages, pagesFor, sampleSize]

/-- Settles O49: the refusals in their order; then first-fit answers by whether a page has room. -/
theorem streamOpenPlacesTheRing : Obligations.StreamOpenPlacesTheRing := by
  unfold Obligations.StreamOpenPlacesTheRing
  refine fun s tag halfSize ha => ⟨fun stream format hbad => ?_, fun i f hf => ?_⟩
  · simp only [exec_streamOpen ha, perform, streamOpenCommand, onDevice_device, byteAt_cons_zero, byteAt_cons_succ]
    obtain hstream | hformat := hbad
    · rw [onStream_bad s hstream, answered_refuse]
    · rw [streamFormatOfCode_bad hformat]
      unfold onStream
      split <;> rfl
  · simp only [exec_streamOpen ha, perform, streamOpenCommand, onDevice_device, byteAt_cons_zero, byteAt_cons_succ,
      onStream_streamByte, streamFormatOfCode_formatCode hf, u16At_streamOpen, ← ringPages_eq hf]
    refine ⟨fun hrun => ?_, fun hrun hstate => ?_, fun hrun hstate => ⟨fun page hroom => ?_, fun hroom => ?_⟩⟩
    · simp [hrun]
    · simp [hrun, hstate]
    · have hfit : firstFit (regions s) (ringPages f (clampNat halfSize.toNat 256 16384)) = some page := firstFit_eq_some_iff.mpr hroom
      simp only [hrun, hstate, hfit, okOrClamped_ne, Bool.false_eq_true, if_false, ne_eq, not_true, answered]
      rfl
    · have hfit : firstFit (regions s) (ringPages f (clampNat halfSize.toNat 256 16384)) = none := firstFit_eq_none_iff.mpr hroom
      simp only [hrun, hstate, hfit, Bool.false_eq_true, if_false, ne_eq, not_true, answered]
      rfl

/-! ## STORE-COMPACT and EXPAND-LOAD (R107, R116) -/

theorem samplesOfBytes_bytes16 (entries : List (BitVec 16)) :
    samplesOfBytes (entries.flatMap bytes16) = entries.map BitVec.toInt := by
  induction entries with
  | nil => rfl
  | cons v rest ih =>
    simp only [List.flatMap_cons, bytes16, List.cons_append, List.nil_append, samplesOfBytes, ih, List.map_cons]
    simp [sampleOfWord]

theorem loadExpansion_getD (start i : Nat) (entries table : List Int) (hi : i < table.length) :
    (loadExpansion start entries table).getD i 0 =
      if start ≤ i ∧ i < start + entries.length then entries.getD (i - start) 0 else table.getD i 0 := by
  by_cases hs : start ≤ i
  · by_cases he : i < start + entries.length
    · simp [loadExpansion, hi, hs, he, show i - start < entries.length by omega]
    · simp [loadExpansion, hi, hs, he, show ¬i - start < entries.length by omega]
  · simp [loadExpansion, hi, hs]

/-- Settles O48: the refusals of STORE-COMPACT in their order; the expansion table entry by entry. -/
theorem storeCompactAndExpandLoad : Obligations.StoreCompactAndExpandLoad := by
  unfold Obligations.StoreCompactAndExpandLoad
  refine fun s tag ha => ⟨?_, fun start entries h1 hl => ?_⟩
  · simp only [exec_storeCompact ha, perform, storeCompactCommand, onDevice_device]
    refine ⟨fun hs => ?_, fun hs hr => ?_, fun hs hr => ?_⟩
    · simp [hs]
    · simp [hs, hr]
    · simp [hs, hr, answered, compactionIdle]
  · refine ⟨loadExpansion start.toNat (entries.map BitVec.toInt) s.store.expansion, ?_, by simp [loadExpansion], fun i hi => ?_⟩
    · simp only [exec_expandLoad ha _ _ _ _ h1 hl, perform, expandLoadCommand, onDevice_device, byteAt_cons_zero, List.drop_succ_cons,
        List.drop_zero, samplesOfBytes_bytes16, List.length_map, answered, okOrClamped, decide_eq_true_eq]
    · rw [loadExpansion_getD _ _ _ _ hi, List.length_map]
      simp only [List.getD_eq_getElem?_getD, List.getElem?_map]
      split
      · rename_i h
        simp [List.getElem?_eq_getElem (show i - start.toNat < entries.length by omega)]
      · rfl

end

end Sys2Proof.Machine

/-! # The checks of PLAY (R115, R125) -/

namespace Sys2Proof.Machine

section
variable {s : State} {p : PosIx}

theorem modeOfCode_bad {code : Nat} (h : 3 < code) : modeOfCode code = none := by
  obtain ⟨k, rfl⟩ := Nat.exists_eq_add_of_le' h
  rfl

/-- The four rows of PLAY are one command, each with a mode byte of its own (R125). -/
theorem exec_play_row {play : Byte → Byte → Byte → ItemSpec → Instr} (h : Accepts s)
    (hplay : play = .playNow ∨ play = .playInterrupt ∨ play = .playNext ∨ play = .playOnly) (src tag player : Byte) (i : ItemSpec) :
    ∃ code mode, modeOfCode (BitVec.toNat (code : Byte)) = some mode ∧ exec (play src tag player i) s =
      .next (answered 0xA0 src tag (playCommand src.toNat (player :: code :: itemBytes i) s)) := by
  obtain rfl | rfl | rfl | rfl := hplay
  · exact ⟨0, .now, rfl, exec_playNow h src tag player i⟩
  · exact ⟨1, .interrupt, rfl, exec_playInterrupt h src tag player i⟩
  · exact ⟨2, .next, rfl, exec_playNext h src tag player i⟩
  · exact ⟨3, .only, rfl, exec_playOnly h src tag player i⟩

/-- A player, a mode or an item out of range (check 3 of R125). -/
theorem playCommand_bad (hs : s.ports.standby = false) {player code : Byte} {i : ItemSpec}
    (h : playerOfCode player.toNat = none ∨ modeOfCode code.toNat = none ∨ itemSource (itemFields i) = none) :
    playCommand (sourceByte p).toNat (player :: code :: itemBytes i) s = refuse s .badValue := by
  rw [playCommand, onPosition_awake hs, byteAt_cons_zero, byteAt_cons_succ, byteAt_cons_zero, itemAt_play]
  split
  · rename_i hw hm hi
    simp [hw, hm, hi] at h
  · rfl

section
variable {w : PlayerId} {code : Byte} {mode : PlayMode} {i : ItemSpec} {src : Source}

/-- A call state that forbids the player (check 4 of R125). -/
theorem playCommand_forbidden (hs : s.ports.standby = false) (hm : modeOfCode code.toNat = some mode)
    (hi : itemSource (itemFields i) = some src) (hcall : mayPlay (getPos s p).call w = false) :
    playCommand (sourceByte p).toNat (playerByte w :: code :: itemBytes i) s = refuse s .badState := by
  rw [playCommand, onPosition_awake hs, byteAt_cons_zero, byteAt_cons_succ, byteAt_cons_zero, itemAt_play, playerByte_code, hm, hi]
  exact if_pos hcall

/-- A source that is not playable (checks 5 and 6 of R125). -/
theorem playCommand_unplayable (hs : s.ports.standby = false) (hm : modeOfCode code.toNat = some mode)
    (hi : itemSource (itemFields i) = some src) (hcall : mayPlay (getPos s p).call w = true) {r : Result}
    (hr : sourceRefusal s i.startOffset.toNat src = some r) :
    playCommand (sourceByte p).toNat (playerByte w :: code :: itemBytes i) s = refuse s r := by
  have hr' : sourceRefusal s (itemFields i).startOffset src = some r := hr
  rw [playCommand, onPosition_awake hs, byteAt_cons_zero, byteAt_cons_succ, byteAt_cons_zero, itemAt_play, playerByte_code, hm, hi]
  simp only [hcall, hr', Bool.true_eq_false, if_false]

end
end

/-- Settles O42: PLAY makes its checks in one order for every mode, each on the first that fails. -/
theorem playChecksItsItem : Obligations.PlayChecksItsItem := by
  unfold Obligations.PlayChecksItsItem
  intro s p tag player i play ha hplay
  obtain ⟨code, mode, hm, hexec⟩ := exec_play_row ha.1 hplay (sourceByte p) tag player i
  simp only [hexec]
  refine ⟨fun bad hbad => ?_, fun hbad => ?_, ?_⟩
  · rw [exec_frameArrival ha.1 .play (by simp) rfl rfl]
    simp only [perform, playCommand_bad ha.2 (.inr (.inl (modeOfCode_bad hbad))), answered_refuse]
    rfl
  · obtain hplayer | hitem := hbad
    · rw [playCommand_bad ha.2 (.inl (playerOfCode_none hplayer)), answered_refuse]
    · rw [playCommand_bad ha.2 (.inr (.inr (itemSource_bad hitem))), answered_refuse]
  · rintro w src rfl hl hn
    have hi := itemSource_names hl hn
    refine ⟨fun hcall => by rw [playCommand_forbidden ha.2 hm hi hcall, answered_refuse], fun hcall => ?_⟩
    have hrefuse : ∀ r, sourceRefusal s i.startOffset.toNat src = some r →
        Host.Outcome.next (answered 0xA0 (sourceByte p) tag
          (playCommand (sourceByte p).toNat (playerByte w :: code :: itemBytes i) s)) =
        (.next (sendReply ⟨0xA0, sourceByte p, tag, r, []⟩ s) : Host.Outcome State Fault Refusal) := fun r hr => by
      rw [playCommand_unplayable ha.2 hm hi hcall hr, answered_refuse]
    cases src with
    | stream k => exact fun hc => hrefuse _ (by simp [sourceRefusal, hc])
    | clip c =>
      refine ⟨?_, fun h => hrefuse _ ?_, fun h => hrefuse _ ?_, fun h h0 => hrefuse _ ?_, fun h h0 hlen => hrefuse _ ?_⟩
      · rintro (h | h)
        · exact hrefuse _ (by simp [sourceRefusal, h])
        · exact hrefuse _ (by simp [sourceRefusal, h])
      · simp [sourceRefusal, h]
      · simp [sourceRefusal, h]
      · simp [sourceRefusal, h, h0]
      · simp [sourceRefusal, h, hlen, Nat.pos_iff_ne_zero.1 h0]

end Sys2Proof.Machine

/-! # CLIP-WRITE (R104, R105, R110) -/

namespace Sys2Proof.Machine

/-! ## Runs of bytes (R104; log entry 9) -/

theorem bytesWritten_writeBytes {m : List Host.Cell} (a : Nat) (bs : List Byte) (h : Memory.wf m) :
    BytesWritten m (writeBytes m a bs) a bs := by
  induction bs generalizing m a with
  | nil => exact fun x => (if_neg (by simp only [List.length_nil]; omega)).symm
  | cons v rest ih =>
    intro x
    rw [writeBytes, ih (a + 1) (writeByte_wf a v h) x, readByte_writeByte a x v h, List.length_cons]
    by_cases hx : x = a
    · subst hx
      rw [if_neg (by omega)]
      by_cases hs : x < storeBytes
      · rw [if_pos ⟨rfl, hs⟩, if_pos ⟨le_rfl, by omega, hs⟩, Nat.sub_self]
        rfl
      · rw [if_neg (by omega), if_neg (by omega)]
    · by_cases hin : a + 1 ≤ x ∧ x < a + 1 + rest.length ∧ x < storeBytes
      · rw [if_pos hin, if_pos (by omega), show x - a = x - (a + 1) + 1 by omega, List.getD_cons_succ]
      · rw [if_neg hin, if_neg (fun hc => hx hc.1), if_neg (by omega)]

/-- A run that ends within the store reads back. -/
theorem readByte_writeBytes_inside {m : List Host.Cell} {a i : Nat} {bs : List Byte} (h : Memory.wf m) (hi : i < bs.length)
    (hs : a + bs.length ≤ storeBytes) : readByte (writeBytes m a bs) (a + i) = bs.getD i 0 := by
  rw [bytesWritten_writeBytes a bs h, if_pos (by omega), Nat.add_sub_cancel_left]

/-! ## One pair (R105) -/

theorem ofInt12_toInt {v : Int} (h1 : -2048 ≤ v) (h2 : v ≤ 2047) : (BitVec.ofInt 12 v).toInt = v := by
  rw [BitVec.toInt_ofInt, Int.bmod_eq_of_le] <;> omega

theorem readByte_writePair_outside {m : List Host.Cell} {i j : Nat} {a b : Int} (h : Memory.wf m) (hj : j < i ∨ i + 3 ≤ j) :
    readByte (writeBytes m i (pairBytes a b)) j = readByte m j := readByte_writeBytes_outside i j (pairBytes a b) h hj

/-- The three bytes of a pair hold its two values, the first in the higher bits (R105). -/
theorem pairBytes_value (a b : Int) :
    ((pairBytes a b).getD 0 0).toNat * 65536 + ((pairBytes a b).getD 1 0).toNat * 256 + ((pairBytes a b).getD 2 0).toNat =
      (BitVec.ofInt 12 a).toNat * 4096 + (BitVec.ofInt 12 b).toNat := by
  have ha := (BitVec.ofInt 12 a).isLt
  have hb := (BitVec.ofInt 12 b).isLt
  simp only [pairBytes, numberBytes, List.range_succ, List.range_zero, List.nil_append, List.map_cons, List.map_nil,
    List.cons_append, List.getD_cons_zero, List.getD_cons_succ, BitVec.toNat_ofNat]
  omega

/-- A pair written after an even number of samples reads back as its two values (R105). -/
theorem readPack12_writePair {m : List Host.Cell} {base i : Nat} {a b : Int} (h : Memory.wf m) (hi : i % 2 = 0)
    (hs : base + 3 * (i / 2) + 3 ≤ storeBytes) (ha : -2048 ≤ a ∧ a ≤ 2047) (hb : -2048 ≤ b ∧ b ≤ 2047) :
    readPack12 (writeBytes m (base + 3 * (i / 2)) (pairBytes a b)) base i = a ∧
      readPack12 (writeBytes m (base + 3 * (i / 2)) (pairBytes a b)) base (i + 1) = b := by
  have hread : ∀ k, k < 3 → readByte (writeBytes m (base + 3 * (i / 2)) (pairBytes a b)) (base + 3 * (i / 2) + k) =
      (pairBytes a b).getD k 0 := fun k hk => readByte_writeBytes_inside h hk hs
  have hhalf : (i + 1) / 2 = i / 2 := by omega
  have hlt := (BitVec.ofInt 12 b).isLt
  have hvalue := pairBytes_value a b
  rw [← hread 0 (by omega), ← hread 1 (by omega), ← hread 2 (by omega)] at hvalue
  simp only [readPack12, hhalf, hi, if_pos, show (i + 1) % 2 ≠ 0 by omega, if_false, Nat.add_zero] at hvalue ⊢
  rw [hvalue]
  constructor
  · rw [show ((BitVec.ofInt 12 a).toNat * 4096 + (BitVec.ofInt 12 b).toNat) / 4096 = (BitVec.ofInt 12 a).toNat by omega,
      BitVec.ofNat_toNat, BitVec.setWidth_eq, ofInt12_toInt ha.1 ha.2]
  · have hlow : BitVec.ofNat 12 ((BitVec.ofInt 12 a).toNat * 4096 + (BitVec.ofInt 12 b).toNat) = BitVec.ofInt 12 b :=
      BitVec.eq_of_toNat_eq (by rw [BitVec.toNat_ofNat]; omega)
    rw [hlow, ofInt12_toInt hb.1 hb.2]

theorem readPack12_congr {m n : List Host.Cell} {base i : Nat}
    (h : ∀ k, k < 3 → readByte n (base + 3 * (i / 2) + k) = readByte m (base + 3 * (i / 2) + k)) :
    readPack12 n base i = readPack12 m base i := by
  have h0 : readByte n (base + 3 * (i / 2)) = readByte m (base + 3 * (i / 2)) := h 0 (by omega)
  simp only [readPack12, h0, h 1 (by omega), h 2 (by omega)]

/-! ## A run of PACK12 samples (R105, R110) -/

/-- A PACK12 clip and the store's bytes after values, the pending sample first among them: the pairs they complete are stored after
the clip's samples, and a value without a partner waits. -/
structure Packed (e : Clip) (m : List Host.Cell) (xs : List Int) (x : Clip × List Host.Cell) : Prop where
  clip : x.1 = { e with pending := if xs.length % 2 = 1 then xs.getLast? else none, length := e.length + 2 * (xs.length / 2) }
  samples : ∀ k, k < 2 * (xs.length / 2) → readPack12 x.2 (e.firstPage * 256) (e.length + k) = xs.getD k 0
  others : ∀ a, a < e.firstPage * 256 + 3 * (e.length / 2) ∨ e.firstPage * 256 + 3 * (e.length / 2 + xs.length / 2) ≤ a →
    readByte x.2 a = readByte m a

theorem packed_pending (e : Clip) (m : List Host.Cell) : Packed e m e.pending.toList (e, m) := by
  obtain ⟨st, f, cap, len, page, pages, pending, refs, before⟩ := e
  cases pending with
  | none => exact ⟨by simp, by simp, fun _ _ => rfl⟩
  | some a => exact ⟨by simp, by simp, fun _ _ => rfl⟩

theorem pair_fits {base i n size : Nat} (h : base + 3 * (i + (n + 1 + 1) / 2) ≤ size) : base + 3 * i + 3 ≤ size := by omega

/-- A pair stored, and what follows it. -/
theorem Packed.pair {e : Clip} {m : List Host.Cell} {a b : Int} {xs : List Int} {x : Clip × List Host.Cell} (h : Memory.wf m)
    (he : e.length % 2 = 0) (ha : -2048 ≤ a ∧ a ≤ 2047) (hb : -2048 ≤ b ∧ b ≤ 2047)
    (hs : e.firstPage * 256 + 3 * (e.length / 2) + 3 ≤ storeBytes)
    (hx : Packed { e with pending := none, length := e.length + 2 }
      (writeBytes m (e.firstPage * 256 + 3 * (e.length / 2)) (pairBytes a b)) xs x) : Packed e m (a :: b :: xs) x := by
  obtain ⟨hfirst, hsecond⟩ := readPack12_writePair (base := e.firstPage * 256) h he hs ha hb
  obtain ⟨hclip, hsamples, hothers⟩ := hx
  dsimp only at hclip hsamples hothers
  have hlen : (a :: b :: xs).length = xs.length + 2 := rfl
  have hhalf : (e.length + 2) / 2 = e.length / 2 + 1 := by omega
  refine ⟨?_, fun k hk => ?_, fun i hi => ?_⟩
  · rw [hclip, hlen, show (xs.length + 2) / 2 = xs.length / 2 + 1 by omega, Nat.add_mod_right]
    have hlast : (if xs.length % 2 = 1 then xs.getLast? else none) = if xs.length % 2 = 1 then (a :: b :: xs).getLast? else none := by
      cases xs with
      | nil => rfl
      | cons v rest => rfl
    rw [hlast]
    congr 1
    omega
  · have hkept : ∀ j, j < 2 → readPack12 x.2 (e.firstPage * 256) (e.length + j) =
        readPack12 (writeBytes m (e.firstPage * 256 + 3 * (e.length / 2)) (pairBytes a b)) (e.firstPage * 256) (e.length + j) :=
      fun j hj => readPack12_congr fun d hd => hothers _ (.inl (by omega))
    match k with
    | 0 => exact (hkept 0 (by omega)).trans hfirst
    | 1 => exact (hkept 1 (by omega)).trans hsecond
    | k + 2 =>
      rw [hlen] at hk
      have hk' := hsamples k (by omega)
      rw [List.getD_cons_succ, List.getD_cons_succ, ← hk']
      congr 1
      omega
  · rw [hlen] at hi
    exact (hothers i (by omega)).trans (readByte_writePair_outside h (hi.imp_right pair_fits))

theorem packSample_first {e : Clip} (h : e.pending = none) (m : List Host.Cell) (v : Int) :
    packSample (e, m) v = ({ e with pending := some (pack12 v) }, m) := by simp [packSample, h]

theorem packSample_second {e : Clip} {a : Int} (h : e.pending = some a) (m : List Host.Cell) (v : Int) :
    packSample (e, m) v = ({ e with pending := none, length := e.length + 2 },
      writeBytes m (e.firstPage * 256 + 3 * (e.length / 2)) (pairBytes a (pack12 v))) := by simp [packSample, h]

/-- The samples of a CLIP-WRITE are packed pair by pair (R105, R110). -/
theorem packed_foldl (vs : List Int) {e : Clip} {m : List Host.Cell} (h : Memory.wf m) (he : e.length % 2 = 0)
    (ha : ∀ a, e.pending = some a → -2048 ≤ a ∧ a ≤ 2047)
    (hs : e.firstPage * 256 + 3 * (e.length / 2 + (e.pending.toList ++ vs.map pack12).length / 2) ≤ storeBytes) :
    Packed e m (e.pending.toList ++ vs.map pack12) (vs.foldl packSample (e, m)) := by
  induction vs generalizing e m with
  | nil => simpa using packed_pending e m
  | cons v rest ih =>
    rw [List.foldl_cons]
    cases hp : e.pending with
    | none =>
      rw [hp] at hs
      rw [packSample_first hp]
      have hmore := ih (e := { e with pending := some (pack12 v) }) h he (fun a hv => by cases hv; exact pack12_range v) hs
      exact ⟨hmore.clip, hmore.samples, hmore.others⟩
    | some a =>
      rw [hp] at hs
      rw [packSample_second hp]
      simp only [Option.toList_some, List.map_cons, List.cons_append, List.nil_append, List.length_cons] at hs
      refine .pair h he (ha a hp) (pack12_range v) (pair_fits hs) ?_
      refine ih (e := { e with pending := none, length := e.length + 2 }) (writeBytes_wf _ _ h) ?_ (fun a hv => nomatch hv) ?_
      · exact (Nat.add_mod_right ..).trans he
      · simp only [Option.toList_none, List.nil_append]
        omega

/-! ## The answer of CLIP-WRITE (R110) -/

section
variable {s : State} {c : ClipIx} {data : List Byte}

theorem sampleSize_eq (f : Format) : sampleSize f = if f = .log8 then 1 else 2 := by cases f <;> rfl

/-- The samples of a body, one by one (R110). -/
theorem samplesOfBytes_eq (data : List Byte) :
    samplesOfBytes data =
      (List.range (data.length / 2)).map fun j => sampleOfWord ((data.getD (2 * j) 0).toNat * 256 + (data.getD (2 * j + 1) 0).toNat) := by
  induction data using samplesOfBytes.induct with
  | case1 a b rest ih =>
    rw [samplesOfBytes, ih, List.length_cons, List.length_cons, show (rest.length + 1 + 1) / 2 = rest.length / 2 + 1 by omega,
      List.range_succ_eq_map, List.map_cons, List.map_map]
    rfl
  | case2 data h =>
    match data with
    | [] => rfl
    | [_] => simp [samplesOfBytes]
    | a :: b :: rest => exact absurd rfl (h a b rest)

/-- The converted samples that a CLIP-WRITE accepts (R105, R110). -/
theorem accepted_samples {n : Nat} (h : n ≤ data.length / 2) :
    ((samplesOfBytes data).take n).map pack12 =
      (List.range n).map fun j => pack12 (sampleOfWord ((data.getD (2 * j) 0).toNat * 256 + (data.getD (2 * j + 1) 0).toNat)) := by
  rw [samplesOfBytes_eq, ← List.map_take, List.take_range, Nat.min_eq_left h, List.map_map]
  rfl

/-- A clip in another state (R110). -/
theorem clipWriteCommand_refused (h : (getClip s c).state ≠ .uploading) :
    clipWriteCommand (0xFF : Byte).toNat (clipByte c :: data) s = refuse s .badState := by
  rw [clipWriteCommand, onDevice_device, byteAt_cons_zero, onClip_clipByte]
  exact if_pos h

/-- A body that ends within a sample (R110). -/
theorem clipWriteCommand_odd (h : (getClip s c).state = .uploading) (hl : data.length % sampleSize (getClip s c).format ≠ 0) :
    clipWriteCommand (0xFF : Byte).toNat (clipByte c :: data) s = refuse s .badLength := by
  rw [clipWriteCommand, onDevice_device, byteAt_cons_zero, onClip_clipByte]
  exact (if_neg (not_not.mpr h)).trans (if_pos hl)

/-- The samples that a clip with room for them accepts (R110). -/
def acceptedSamples (e : Clip) (data : List Byte) : Nat := min (data.length / sampleSize e.format) (e.capacity - occupied e)

/-- A clip that is UPLOADING takes what it has room for (R110). -/
theorem clipWriteCommand_taken (h : (getClip s c).state = .uploading) (hl : data.length % sampleSize (getClip s c).format = 0)
    {x : Clip × List Host.Cell} (hx : writeSamples (acceptedSamples (getClip s c) data) data (getClip s c) s.store.mem = x) :
    clipWriteCommand (0xFF : Byte).toNat (clipByte c :: data) s =
      (putMem (putClip s c x.1) x.2,
        if acceptedSamples (getClip s c) data < data.length / sampleSize (getClip s c).format then .clamped else .ok,
        [byteField (acceptedSamples (getClip s c) data), .num 3 x.1.length, byteField (flagCode x.1.pending.isSome)]) := by
  subst hx
  rw [clipWriteCommand, onDevice_device, byteAt_cons_zero, onClip_clipByte]
  refine (if_neg (not_not.mpr h)).trans ((if_neg (not_not.mpr hl)).trans ?_)
  simp only [okOrClamped, decide_eq_true_eq]
  rfl

/-! ## LIN16 and LOG8 -/

/-- The plain formats store each sample as the bytes of the body (R104). -/
theorem writeSamples_plain {e : Clip} (hf : e.format ≠ .pack12) (n : Nat) (data : List Byte) (m : List Host.Cell) :
    writeSamples n data e m =
      ({ e with length := e.length + n },
        writeBytes m (e.firstPage * 256 + sampleSize e.format * e.length) (data.take (sampleSize e.format * n))) := by
  unfold writeSamples
  split
  · rename_i h
    simp [h, sampleSize]
  · rename_i h
    simp [h, sampleSize]
  · exact absurd ‹_› hf

/-! ## PACK12 -/

theorem writeSamples_pack12 {e : Clip} (hf : e.format = .pack12) (n : Nat) (data : List Byte) (m : List Host.Cell) :
    writeSamples n data e m = ((samplesOfBytes data).take n).foldl packSample (e, m) := by
  unfold writeSamples
  rw [hf]

/-- The values of a clip after `n` accepted samples: the pending sample, then the converted ones (R105, R110). -/
def packedValues (e : Clip) (data : List Byte) (n : Nat) : List Int :=
  e.pending.toList ++ (List.range n).map fun j =>
    pack12 (sampleOfWord ((data.getD (2 * j) 0).toNat * 256 + (data.getD (2 * j + 1) 0).toNat))

theorem packed_writeSamples {e : Clip} {m : List Host.Cell} {n : Nat} (hf : e.format = .pack12) (h : Memory.wf m)
    (he : e.length % 2 = 0) (ha : ∀ a, e.pending = some a → -2048 ≤ a ∧ a ≤ 2047) (hn : n ≤ data.length / 2)
    (hs : e.firstPage * 256 + 3 * (e.length / 2 + (packedValues e data n).length / 2) ≤ storeBytes) :
    Packed e m (packedValues e data n) (writeSamples n data e m) := by
  rw [writeSamples_pack12 hf]
  rw [packedValues, ← accepted_samples hn] at hs ⊢
  exact packed_foldl _ h he ha hs

theorem putClip_getClip (s : State) (c : ClipIx) : putClip s c (getClip s c) = s := by
  simp [putClip, getClip]

/-- One sample, where the clip has room for it. -/
theorem clipWriteCommand_pair {hi lo : Byte} (h : (getClip s c).state = .uploading) (hf : (getClip s c).format = .pack12)
    (hroom : occupied (getClip s c) < (getClip s c).capacity) {x : Clip × List Host.Cell}
    (hx : packSample (getClip s c, s.store.mem) (sampleOfWord (hi.toNat * 256 + lo.toNat)) = x) :
    clipWriteCommand (0xFF : Byte).toNat [clipByte c, hi, lo] s =
      (putMem (putClip s c x.1) x.2, .ok, [byteField 1, .num 3 x.1.length, byteField (flagCode x.1.pending.isSome)]) := by
  have hsize : sampleSize (getClip s c).format = 2 := by rw [hf]; rfl
  have hacc : acceptedSamples (getClip s c) [hi, lo] = 1 := by
    simp only [acceptedSamples, hsize, List.length_cons, List.length_nil]
    omega
  have hwrite : writeSamples 1 [hi, lo] (getClip s c) s.store.mem = x := (writeSamples_pack12 hf ..).trans hx
  rw [clipWriteCommand_taken h (by simp [hsize]) (hacc ▸ hwrite), hacc, hsize]
  simp

/-- One sample, where the clip has no room. -/
theorem clipWriteCommand_full {hi lo : Byte} (h : (getClip s c).state = .uploading) (hf : (getClip s c).format = .pack12)
    (hfull : (getClip s c).capacity ≤ occupied (getClip s c)) :
    clipWriteCommand (0xFF : Byte).toNat [clipByte c, hi, lo] s =
      (s, .clamped, [byteField 0, .num 3 (getClip s c).length, byteField (flagCode (getClip s c).pending.isSome)]) := by
  have hsize : sampleSize (getClip s c).format = 2 := by rw [hf]; rfl
  have hacc : acceptedSamples (getClip s c) [hi, lo] = 0 := by
    rw [acceptedSamples, Nat.sub_eq_zero_of_le hfull, Nat.min_zero]
  have hwrite : writeSamples 0 [hi, lo] (getClip s c) s.store.mem = (getClip s c, s.store.mem) := writeSamples_pack12 hf ..
  have hkept : putMem (putClip s c (getClip s c)) s.store.mem = s := by rw [putClip_getClip]; rfl
  rw [clipWriteCommand_taken h (by simp [hsize]) (hacc ▸ hwrite), hacc, hsize, hkept]
  simp

theorem flagCode_getLast (xs : List Int) :
    flagCode (if xs.length % 2 = 1 then xs.getLast? else none).isSome = if xs.length % 2 = 1 then 1 else 0 := by
  split
  · rename_i h
    have hne : xs ≠ [] := fun hnil => by simp [hnil] at h
    simp [flagCode, hne]
  · rfl

end

/-- Settles O46: the plain formats write the body's bytes; PACK12 packs the pairs one by one. -/
theorem clipWriteStoresSamples : Obligations.ClipWriteStoresSamples := by
  unfold Obligations.ClipWriteStoresSamples
  refine ⟨fun s tag clip data ha hl hclip => ?_, fun s tag c data ha hl => ?_⟩
  · rw [exec_clipWrite ha _ _ _ _ hl, perform, clipWriteCommand, onDevice_device, byteAt_cons_zero, onClip_bad hclip, answered_refuse]
  simp only [exec_clipWrite ha _ _ _ _ hl, perform]
  refine ⟨fun h => ?_, fun h hf hodd => ?_, fun h hf hwf heven => ?_, fun h hf hwf heven hpairs hpend hroom => ?_, fun h hf hi lo hd hwf => ?_⟩
  · rw [clipWriteCommand_refused h, answered_refuse]
  · rw [clipWriteCommand_odd h (by rw [sampleSize_eq, if_neg hf]; omega), answered_refuse]
  · rw [← sampleSize_eq] at heven ⊢
    refine ⟨_, ?_, bytesWritten_writeBytes _ _ hwf⟩
    rw [clipWriteCommand_taken h heven (writeSamples_plain hf _ data s.store.mem)]
    rfl
  · have hsize : sampleSize (getClip s c).format = 2 := by rw [hf]; rfl
    have hpacked := packed_writeSamples (data := data) (n := acceptedSamples (getClip s c) data) hf hwf hpairs hpend
      (by rw [acceptedSamples, hsize]; exact min_le_left _ _) (by rw [acceptedSamples, hsize]; exact hroom)
    have hacc : acceptedSamples (getClip s c) data = min (data.length / 2) ((getClip s c).capacity - occupied (getClip s c)) := by
      rw [acceptedSamples, hsize]
    have htaken := clipWriteCommand_taken (data := data) h (by rw [hsize]; exact heven) rfl
    rw [htaken, hpacked.clip, hsize, flagCode_getLast, hacc]
    rw [hacc] at hpacked
    exact ⟨_, rfl, hpacked.samples, hpacked.others⟩
  · subst hd
    refine ⟨fun hp hcap => ?_, fun a hp h1 h2 hcap hpairs hroom => ?_, fun hfull => ?_⟩
    · rw [clipWriteCommand_pair h hf (by simpa [occupied, hp] using hcap) (packSample_first hp ..)]
      rfl
    · rw [clipWriteCommand_pair h hf (by simpa [occupied, hp] using hcap) (packSample_second hp ..)]
      obtain ⟨hfirst, hsecond⟩ := readPack12_writePair (base := (getClip s c).firstPage * 256) hwf hpairs hroom ⟨h1, h2⟩ (pack12_range _)
      exact ⟨_, rfl, hfirst, hsecond, fun x hx => readByte_writePair_outside hwf hx⟩
    · rw [clipWriteCommand_full h hf hfull]
      rfl

end Sys2Proof.Machine

/-! # The events inside the units' work (R117, R118, R120, R133, R149, R150, R153, R159, R161; log entry 3) -/

namespace Sys2Proof.Machine

/-! ## The end of a clip item's pass (R133, R7) -/

section
variable {s u : State} {p : PosIx} {w : PlayerId} {it : Item} {c : ClipIx}

theorem endPass_not_due (hc : (getPlayer s p w).current = some it) (hd : ¬(processes s p = true ∧ atLastSample s it = true)) :
    endPass p w s = s := by
  simp only [endPass, hc]
  rw [if_neg (by simpa using hd)]

theorem endPass_due (hc : (getPlayer s p w).current = some it) (hp : processes s p = true) (ha : atLastSample s it = true) :
    endPass p w s = whisperCheck p (getPos s p).agent.current.isSome
      (raiseAll (runReports p w (passEnds it (beginRun (getPlayer s p w))))
        (settleRun p w (passEnds it (beginRun (getPlayer s p w))) s)) := by
  simp only [endPass, hc]
  rw [if_pos (by simp [hp, ha])]

/-- A pass that is not the last one begins anew (R133). -/
theorem passEnds_again (h : it.passes ≠ 1) (pl : Player) :
    passEnds it (beginRun pl) = beginRun { pl with current := some { it with readOffset := 0, passes := it.passes - 1 } } := by
  unfold passEnds
  by_cases h0 : it.passes = 0
  · have hsame : { it with readOffset := 0, passes := it.passes - 1 } = { it with readOffset := 0 } := by simp [h0]
    rw [if_pos h0, hsame]
    rfl
  · rw [if_neg h0, if_pos (by omega)]
    rfl

/-- The item completes with its last pass (R133). -/
theorem passEnds_last (h : it.passes = 1) (pl : Player) :
    (passEnds it (beginRun pl)).player = succession pl ∧
      (passEnds it (beginRun pl)).completed = [(it.source, itemReport .itemEnd .completed it 0 (succession pl))] := by
  unfold passEnds
  rw [if_neg (by omega), if_neg (by omega)]
  exact ⟨rfl, rfl⟩

/-- A whisper done follows a change of a player where it left the AGENT player of a position in ANNOUNCE IDLE (R7). -/
theorem whisper_of_player {pl : Player} (hb : bare u = bare (putPlayer s p w pl)) (hwas : (getPos s p).agent.current.isSome = true)
    (hcall : (getPos u p).call = .announce) (hidle : (getPos u p).agent.current = none) :
    w = .agent ∧ (getPos s p).call = .announce ∧ pl.current = none := by
  have hrec : getPos u p = withPlayer (getPos s p) w pl := by
    rw [getPos_of_bare hb, putPlayer, getPos_putPos, if_pos rfl]
  rw [hrec] at hcall hidle
  cases w with
  | net => exact absurd hwas (by simp [show (getPos s p).agent.current = none from hidle])
  | agent => exact ⟨rfl, hcall, hidle⟩

/-- A pass that is not the last one (R133). -/
theorem endPass_again (hc : (getPlayer s p w).current = some it) (hp : processes s p = true) (ha : atLastSample s it = true)
    (h : it.passes ≠ 1) :
    endPass p w s = putPlayer s p w
      { getPlayer s p w with current := some { it with readOffset := 0, passes := it.passes - 1 } } := by
  rw [endPass_due hc hp ha, passEnds_again h]
  refine whisperCheck_neg fun ⟨hwas, hcall, hidle⟩ => ?_
  obtain ⟨-, -, hnone⟩ := whisper_of_player rfl hwas hcall hidle
  nomatch hnone

/-- The state of a completed item before a whisper done: its player with the successor, its report waiting (R133, R134, R139). -/
def passCompleted (p : PosIx) (w : PlayerId) (it : Item) (s : State) : State :=
  raiseAll (runReports p w (passEnds it (beginRun (getPlayer s p w)))) (settleRun p w (passEnds it (beginRun (getPlayer s p w))) s)

theorem bare_passCompleted (h : it.passes = 1) :
    bare (passCompleted p w it s) = bare (putPlayer s p w (succession (getPlayer s p w))) := by
  rw [passCompleted, bare_raiseAll, bare_settleRun, (passEnds_last h _).1]

theorem waiting_passCompleted (h : it.passes = 1) : ∃ n, min 1 255 ≤ n ∧ waiting (playerKey p w) (passCompleted p w it s) =
    some (.player p w (itemReport .itemEnd .completed it 0 (succession (getPlayer s p w))), n) := by
  rw [passCompleted, runReports, (passEnds_last h _).2, List.map_cons, List.map_nil, raiseAll_cons, raiseAll_nil,
    waiting_raise_same (sameReport_playerKey ..)]
  exact ⟨_, by omega, rfl⟩

theorem succession_idle {pl : Player} (h : (succession pl).current = none) : succession pl = ⟨none, [], []⟩ := by
  obtain ⟨current, stack, queue⟩ := pl
  cases queue with
  | cons it rest => nomatch h
  | nil =>
    cases stack with
    | cons it rest => nomatch h
    | nil => rfl

/-- An item that completes, without a whisper done (R133). -/
theorem endPass_completes (hc : (getPlayer s p w).current = some it) (hp : processes s p = true) (ha : atLastSample s it = true)
    (h : it.passes = 1) (hw : ¬(w = .agent ∧ (getPos s p).call = .announce ∧ (succession (getPlayer s p w)).current = none)) :
    endPass p w s = passCompleted p w it s := by
  rw [endPass_due hc hp ha]
  exact whisperCheck_neg fun ⟨hwas, hcall, hidle⟩ => hw (whisper_of_player (bare_passCompleted h) hwas hcall hidle)

/-- The record that a whisper's last item leaves before its whisper done. -/
theorem getPos_passCompleted (h : it.passes = 1) (hidle : (succession (getPlayer s p .agent)).current = none) :
    getPos (passCompleted p .agent it s) p = { getPos s p with agent := ⟨none, [], []⟩ } := by
  rw [getPos_of_bare (bare_passCompleted h), putPlayer, getPos_putPos, if_pos rfl, succession_idle hidle]
  rfl

/-- The last item of a whisper that completes: whisper done follows (R7, R133). -/
theorem endPass_whispers (hc : (getPlayer s p .agent).current = some it) (hp : processes s p = true) (ha : atLastSample s it = true)
    (h : it.passes = 1) (hcall : (getPos s p).call = .announce) (hidle : (succession (getPlayer s p .agent)).current = none) :
    endPass p .agent s = whisperDone p (passCompleted p .agent it s) := by
  have hrec := getPos_passCompleted (s := s) (p := p) h hidle
  rw [endPass_due hc hp ha]
  refine whisperCheck_pos ?_ (hrec ▸ hcall) (hrec ▸ rfl)
  exact Option.isSome_iff_exists.mpr ⟨it, hc⟩

end

/-! ## The halves of a stream (R149, R150) -/

section
variable {r : Stream} {n : Nat} {x : FixRun}

theorem otherHalf_ne (h : Fin 2) : otherHalf h ≠ h := by fin_cases h <;> decide

theorem otherHalf_otherHalf (h : Fin 2) : otherHalf (otherHalf h) = h := by fin_cases h <;> rfl

theorem leaveHalf_eq (x : FixRun) : leaveHalf x = ⟨leftHalf x.stream, x.events ++ [(.halfEmpty, x.stream.readHalf)]⟩ := rfl

theorem enterHalf_enters (hs : (halfOf x.stream x.stream.readHalf).state = .full) (hv : 0 < (halfOf x.stream x.stream.readHalf).valid) :
    enterHalf (n + 1) x =
      { stream := { withHalf x.stream x.stream.readHalf { halfOf x.stream x.stream.readHalf with state := .playing } with
          readOffset := 0, underrun := false }
        events := if x.stream.underrun then x.events ++ [(.resumed, x.stream.readHalf)] else x.events } := by
  rw [enterHalf]
  simp only [hs, if_pos hv]

theorem enterHalf_passes (hs : (halfOf x.stream x.stream.readHalf).state = .full) (hv : (halfOf x.stream x.stream.readHalf).valid = 0) :
    enterHalf (n + 1) x = enterHalf n (leaveHalf x) := by
  rw [enterHalf]
  simp only [hs, hv, lt_irrefl, if_false]

theorem enterHalf_waits
    (hs : (halfOf x.stream x.stream.readHalf).state = .empty ∨ (halfOf x.stream x.stream.readHalf).state = .filling) :
    enterHalf (n + 1) x =
      { stream := { x.stream with readOffset := 0, underrun := true }
        events := if x.stream.underrun then x.events else x.events ++ [(.underrun, x.stream.readHalf)] } := by
  rw [enterHalf]
  obtain hs | hs := hs
  · simp only [hs]
  · simp only [hs]

/-- The half that is next is as it was. -/
theorem halfOf_leftHalf_next (r : Stream) : halfOf (leftHalf r) (leftHalf r).readHalf = halfOf r (otherHalf r.readHalf) := by
  rw [show (leftHalf r).readHalf = otherHalf r.readHalf from rfl, halfOf_leftHalf, if_neg (otherHalf_ne _)]

theorem underrun_leftHalf (r : Stream) : (leftHalf r).underrun = r.underrun := by
  unfold leftHalf withHalf
  split <;> rfl

/-- A half replaced, and the read position of the stream moved. -/
theorem withHalf_moved (r : Stream) (h i : Fin 2) (y : Half) (offset : Nat) :
    withHalf { r with readHalf := i, readOffset := offset } h y = { withHalf r h y with readHalf := i, readOffset := offset } := by
  unfold withHalf
  split <;> rfl

/-- Both halves left, the read position is where it was. -/
theorem leftHalf_leftHalf (r : Stream) :
    leftHalf (leftHalf r) =
      { withHalf (withHalf r r.readHalf ⟨.empty, 0, 0⟩) (otherHalf r.readHalf) ⟨.empty, 0, 0⟩ with
        readHalf := r.readHalf, readOffset := 0 } := by
  have hleft : leftHalf (leftHalf r) = { withHalf (leftHalf r) (otherHalf r.readHalf) ⟨.empty, 0, 0⟩ with
      readHalf := otherHalf (otherHalf r.readHalf), readOffset := 0 } := rfl
  rw [hleft, otherHalf_otherHalf, leftHalf, withHalf_moved]

/-- The run of a half that is played out (R150). -/
def emptiedRun (r : Stream) : FixRun := enterHalf 3 (leaveHalf ⟨{ r with readOffset := r.readOffset + 1 }, []⟩)

theorem emptiedRun_eq (r : Stream) : emptiedRun r = enterHalf 3 ⟨leftHalf r, [(.halfEmpty, r.readHalf)]⟩ := by
  rw [emptiedRun, leaveHalf_eq, leftHalf_offset]
  rfl

/-- The other half is entered (R149). -/
theorem emptiedRun_enters (hs : (halfOf r (otherHalf r.readHalf)).state = .full) (hv : 0 < (halfOf r (otherHalf r.readHalf)).valid) :
    emptiedRun r =
      ⟨{ withHalf (withHalf r r.readHalf ⟨.empty, 0, 0⟩) (otherHalf r.readHalf)
          { halfOf r (otherHalf r.readHalf) with state := .playing } with
          readHalf := otherHalf r.readHalf, readOffset := 0, underrun := false },
        if r.underrun then [(.halfEmpty, r.readHalf), (.resumed, otherHalf r.readHalf)] else [(.halfEmpty, r.readHalf)]⟩ := by
  rw [← halfOf_leftHalf_next] at hs hv ⊢
  rw [emptiedRun_eq, enterHalf_enters hs hv]
  simp only [underrun_leftHalf, List.cons_append, List.nil_append]
  rw [show (leftHalf r).readHalf = otherHalf r.readHalf from rfl, leftHalf, withHalf_moved]

/-- The other half is passed through, and the one left is waited for (R149). -/
theorem emptiedRun_passes (hs : (halfOf r (otherHalf r.readHalf)).state = .full) (hv : (halfOf r (otherHalf r.readHalf)).valid = 0) :
    emptiedRun r =
      ⟨{ withHalf (withHalf r r.readHalf ⟨.empty, 0, 0⟩) (otherHalf r.readHalf) ⟨.empty, 0, 0⟩ with
          readHalf := r.readHalf, readOffset := 0, underrun := true },
        if r.underrun then [(.halfEmpty, r.readHalf), (.halfEmpty, otherHalf r.readHalf)]
        else [(.halfEmpty, r.readHalf), (.halfEmpty, otherHalf r.readHalf)] ++ [(.underrun, r.readHalf)]⟩ := by
  rw [← halfOf_leftHalf_next] at hs hv
  have hback : (leftHalf (leftHalf r)).readHalf = r.readHalf := otherHalf_otherHalf _
  have hempty : halfOf (leftHalf (leftHalf r)) (leftHalf (leftHalf r)).readHalf = ⟨.empty, 0, 0⟩ := by
    rw [halfOf_leftHalf_next, show otherHalf (leftHalf r).readHalf = r.readHalf from hback, halfOf_leftHalf, if_pos rfl]
  rw [emptiedRun_eq, enterHalf_passes hs hv, leaveHalf_eq, enterHalf_waits (.inl (by rw [hempty]))]
  simp only [underrun_leftHalf, hback, List.cons_append, List.nil_append]
  rw [leftHalf_leftHalf]
  rfl

/-- The other half is waited for (R149). -/
theorem emptiedRun_waits
    (hs : (halfOf r (otherHalf r.readHalf)).state = .empty ∨ (halfOf r (otherHalf r.readHalf)).state = .filling) :
    emptiedRun r =
      ⟨{ withHalf r r.readHalf ⟨.empty, 0, 0⟩ with readHalf := otherHalf r.readHalf, readOffset := 0, underrun := true },
        if r.underrun then [(.halfEmpty, r.readHalf)]
        else [(.halfEmpty, r.readHalf), (.underrun, otherHalf r.readHalf)]⟩ := by
  rw [← halfOf_leftHalf_next] at hs
  rw [emptiedRun_eq, enterHalf_waits hs]
  simp only [underrun_leftHalf, List.cons_append, List.nil_append]
  rfl

end

section
variable {s : State} {i : StreamIx} {p : PosIx}

theorem emptyHalfOf_due
    (hd : s.ports.standby = false ∧ (getStream s i).state = .running ∧
      (halfOf (getStream s i) (getStream s i).readHalf).state = .playing ∧
      (halfOf (getStream s i) (getStream s i).readHalf).valid ≤ (getStream s i).readOffset + 1) :
    emptyHalfOf i s =
      raiseAll (fixReports i (emptiedRun (getStream s i))) (putStream s i (emptiedRun (getStream s i)).stream) := if_pos hd

/-! ## The burst of a tone (R159, R161) -/

/-- The last burst stops the unit (R159). -/
theorem burstCompletes_running {t : Tone} (hr : t.running = true) :
    burstCompletes t =
      if 0 < t.bursts ∧ min (t.burstCount + 1) 255 = t.bursts then
        ({ t with running := false, cycle := t.cycle + 1, burstCount := min (t.burstCount + 1) 255 }, true)
      else ({ t with running := true, cycle := t.cycle + 1, burstCount := min (t.burstCount + 1) 255 }, false) := by
  obtain ⟨running, rest⟩ := t
  subst hr
  rfl

theorem completeBurst_due (hp : processes s p = true) (hr : (getPos s p).tone.running = true)
    (ho : (getPos s p).tone.cycle + 1 = (getPos s p).tone.onTime) :
    completeBurst p s =
      raiseAll (if (burstCompletes (getPos s p).tone).2 then [toneReport p .completed (burstCompletes (getPos s p).tone).1] else [])
        (putTone s p (burstCompletes (getPos s p).tone).1) := if_pos ⟨hp, hr, ho⟩

end

/-! ## Turns of compaction (R117, R120) -/

section
variable {s : State}

theorem placeBelow_eq_some_iff {c : ClipIx} {p : Nat} :
    placeBelow s c = some p ↔
      (p < (getClip s c).firstPage ∧ ∀ a ∈ otherRegions s c, apart (p, (getClip s c).pageCount) a) ∧
        ∀ q, q < p → ¬(q < (getClip s c).firstPage ∧ ∀ a ∈ otherRegions s c, apart (q, (getClip s c).pageCount) a) := by
  rw [placeBelow, List.find?_range_eq_some, List.mem_range, runFree_iff, ← and_assoc, and_comm (b := p < _)]
  refine and_congr_right fun ⟨hp, _⟩ => forall₂_congr fun q hq => ?_
  rw [← runFree_iff, Bool.not_eq_true', ← Bool.not_eq_true]
  exact ⟨fun h hq' => h hq'.2, fun h hr => h ⟨hq.trans hp, hr⟩⟩

theorem placeBelow_eq_none_iff {c : ClipIx} :
    placeBelow s c = none ↔
      ∀ p, ¬(p < (getClip s c).firstPage ∧ ∀ a ∈ otherRegions s c, apart (p, (getClip s c).pageCount) a) := by
  simp only [placeBelow, List.find?_range_eq_none, ← runFree_iff, not_and]
  simp

theorem exec_turn_due (hr : s.store.compaction.running = true) (hm : s.store.compaction.move = none) :
    exec .turn s = .next (takeTurn s) := by
  have hd : turnDue s = true := (turnDue_iff s).mpr ⟨hr, hm⟩
  show Host.Outcome.next (if turnDue s then takeTurn s else s) = _
  rw [if_pos hd]

/-- The turn of an allocation that is pinned (R117). -/
theorem takeTurn_pinned {page : Nat} {h : Holder} (hn : nextHolder s = some (page, h)) (hp : pinned s h = true) :
    takeTurn s = putCompaction s { s.store.compaction with scan := some page, skipped := s.store.compaction.skipped + 1 } := by
  rw [takeTurn, hn]
  cases h with
  | ring i => rfl
  | clip c => exact if_pos hp

/-- The turn of a clip that is not pinned (R117). -/
theorem takeTurn_clip {page : Nat} {c : ClipIx} (hn : nextHolder s = some (page, .clip c)) (hp : pinned s (.clip c) = false) :
    (placeBelow s c = none → takeTurn s =
      putCompaction s { s.store.compaction with scan := some page, stayed := s.store.compaction.stayed + 1 }) ∧
    ∀ p, placeBelow s c = some p →
      takeTurn s = beginMove c p (putCompaction s { s.store.compaction with scan := some page }) := by
  simp only [takeTurn, hn, turnOf, hp, Bool.false_eq_true, if_false]
  exact ⟨fun h => by rw [h], fun p h => by rw [h]⟩

/-- The end of compaction, where no allocation is left (R120). -/
theorem takeTurn_ends (hn : nextHolder s = none) : takeTurn s = endCompaction s := by rw [takeTurn, hn]

theorem endCompaction_report (s : State) :
    ∃ n g, Message.report (.store s.store.compaction.moved s.store.compaction.stayed s.store.compaction.skipped g) n ∈
      (endCompaction s).link.outbound := by
  obtain ⟨n, hn⟩ := raise_mem (storeReport s) (putCompaction s compactionIdle)
  exact ⟨n, _, hn⟩

theorem bare_endCompaction (s : State) : bare (endCompaction s) = bare (putCompaction s compactionIdle) :=
  show bare (raise (storeReport s) (putCompaction s compactionIdle)) = _ from bare_raise ..

theorem moveDone_iff {m : Move} (hm : s.store.compaction.move = some m) : moveDone s = true ↔ m.pages ≤ m.copied := by
  rw [moveDone, hm]
  exact decide_eq_true_iff

end

/-- Settles O59: each end where it is due, unit by unit; every other state is left as it is. -/
theorem unitEvents : Obligations.UnitEvents := by
  unfold Obligations.UnitEvents
  have hpass : ∀ p w s, exec (.passEnd p w) s = .next (endPass p w s) := fun _ _ _ => rfl
  have hhalf : ∀ i s, exec (.halfEmpty i) s = .next (emptyHalfOf i s) := fun _ _ => rfl
  have hburst : ∀ p s, exec (.burstComplete p) s = .next (completeBurst p s) := fun _ _ => rfl
  have hturn : ∀ s, exec .turn s = .next (if turnDue s then takeTurn s else s) := fun _ => rfl
  have hmove : ∀ s, exec .moveCompletes s = .next (finishMove s) := fun _ => rfl
  refine ⟨fun s p w hno => ?_, fun s p w it c hc hsrc => ?_, fun s p => ?_, fun s i => ?_, fun s => ?_⟩
  · rw [hpass]
    cases hc : (getPlayer s p w).current with
    | none => simp [endPass, hc]
    | some it =>
      rw [endPass_not_due hc]
      rintro ⟨-, ha⟩
      unfold atLastSample at ha
      split at ha
      · exact absurd ‹_› (hno it _ hc)
      · nomatch ha
  · have hat : atLastSample s it = true ↔ (getClip s c).length ≤ it.readOffset + 1 := by
      rw [atLastSample, hsrc]
      exact decide_eq_true_iff
    simp only [hpass, ← hat]
    refine ⟨fun hd => by rw [endPass_not_due hc hd], fun hp ha => ⟨fun h => ?_, fun h hw => ?_, ?_⟩⟩
    · rw [endPass_again hc hp ha h]
    · obtain ⟨n, hn, hwait⟩ := waiting_passCompleted (s := s) (p := p) (w := w) h
      refine ⟨passCompleted p w it s, by rw [endPass_completes hc hp ha h hw], bare_passCompleted h, ?_⟩
      exact itemLeft_of_waiting p w .completed hwait hn
    · rintro h rfl hcall hidle hplayers
      obtain ⟨n, hn, hwait⟩ := waiting_passCompleted (s := s) (p := p) (w := .agent) h
      have hrec := getPos_passCompleted (s := s) (p := p) h hidle
      have hnet : PlayerOk (getPos (passCompleted p .agent it s) p).net := hrec ▸ hplayers.1
      rw [succession_idle hidle] at hwait
      refine ⟨_, by rw [endPass_whispers hc hp ha h hcall hidle], ?_, ?_, ?_, ?_⟩
      · rw [bare_whisperDone (bare_passCompleted h) hnet, putPlayer, getPos_putPos_self, putPos_putPos, succession_idle hidle]
        rfl
      · exact itemLeft_of_waiting p .agent .completed ((waiting_whisperDone (by simp) (by simp)).trans hwait) hn
      · have hrep := (whisperWaits_whisperDone p _ hnet).report
        rw [hrec] at hrep
        exact hrep
      · have hcl := (clearedWaits_whisperDone p (passCompleted p .agent it s)).report
        rw [hrec] at hcl
        exact hcl
  · refine ⟨fun hp hr ho => ?_, fun hd => ?_, rfl⟩
    · rw [hburst, completeBurst_due hp hr ho]
      dsimp only
      by_cases hended : 0 < (getPos s p).tone.bursts ∧ min ((getPos s p).tone.burstCount + 1) 255 = (getPos s p).tone.bursts
      · rw [burstCompletes_running hr, if_pos hended, if_pos hended, if_pos hended]
        rfl
      · rw [burstCompletes_running hr, if_neg hended, if_neg hended, if_neg hended]
        rfl
    · rw [hburst, completeBurst, if_neg hd]
  · refine ⟨fun hd => ?_, fun hd hs hv => ?_, fun hd hs hv => ?_, fun hd hs => ?_⟩
    · rw [hhalf, emptyHalfOf, if_neg hd]
    · rw [hhalf, emptyHalfOf_due hd, emptiedRun_enters hs hv]
      rfl
    · rw [hhalf, emptyHalfOf_due hd, emptiedRun_passes hs hv]
      rfl
    · rw [hhalf, emptyHalfOf_due hd, emptiedRun_waits hs]
      rfl
  · refine ⟨fun hd => ?_, fun hr hm => ⟨fun hn => ?_, fun page h hn hp => ?_, fun page c hn hp => ⟨fun hno => ?_, fun p hfit hlow => ?_⟩⟩,
      fun hno => ?_, fun m hm hdone => ?_⟩
    · have hd' : turnDue s = false := by rw [← Bool.not_eq_true, turnDue_iff]; exact hd
      rw [hturn, hd']
      rfl
    · rw [exec_turn_due hr hm, takeTurn_ends hn]
      exact ⟨_, rfl, bare_endCompaction s, endCompaction_report s⟩
    · rw [exec_turn_due hr hm, takeTurn_pinned hn hp]
    · rw [exec_turn_due hr hm, (takeTurn_clip hn hp).1 (placeBelow_eq_none_iff.mpr hno)]
    · rw [exec_turn_due hr hm, (takeTurn_clip hn hp).2 p (placeBelow_eq_some_iff.mpr ⟨hfit, hlow⟩)]
      rfl
    · have hd : moveDone s = false := by
        cases hm : s.store.compaction.move with
        | none => rw [moveDone, hm]
        | some m => rw [← Bool.not_eq_true, moveDone_iff hm]; exact Nat.not_le.mpr (hno m hm)
      rw [hmove, finishMove, hd]
      rfl
    · refine ⟨_, hmove s, ?_⟩
      rw [execAll_turns, finishMove, if_pos ((moveDone_iff hm).mpr hdone), completeMove, hm]
      rfl

end Sys2Proof.Machine

/-! # PLAY in its four modes (R124 to R130, R139) -/

namespace Sys2Proof.Machine

/-! ## What each mode leaves and reports -/

section
variable {s : State} {p : PosIx} {w : PlayerId} {it old : Item}

/-- On an IDLE player modes NOW, INTERRUPT and NEXT make the item current, and nothing more. -/
theorem playItem_idle {m : PlayMode} (hm : m ≠ .only) (h : (getPlayer s p w).current = none) :
    playItem p w m it s = becomeCurrent p w it s := by
  cases m with
  | now => rw [playItem, playNowItem, h]
  | interrupt => rw [playItem, playInterruptItem, h]
  | next => rw [playItem, playNextItem, h]
  | only => exact absurd rfl hm

/-- Mode ONLY on an IDLE and empty player makes the item current, and nothing more. -/
theorem playOnlyItem_idle (h : getPlayer s p w = ⟨none, [], []⟩) : playOnlyItem p w it s = becomeCurrent p w it s := by
  have hflushed : dropLists p w .flushed (fun _ => true) s = s := by simp [dropLists, dropQueued, dropStacked, h]
  rw [playOnlyItem, hflushed, playNowItem, h]

/-- The report of a replaced item waits, with the new item current (R127; log entry 36). -/
theorem waiting_playNowItem (h : (getPlayer s p w).current = some old) :
    ∃ n, waiting (playerKey p w) (playNowItem p w it s) =
      some (.player p w (itemReport .itemEnd .replaced old old.readOffset { getPlayer s p w with current := some it }), n) := by
  obtain ⟨t, ht, -, -, hp⟩ := playNowItem_replaces p w it s h
  exact ⟨_, by rw [ht, waiting_reportItem, hp]⟩

/-- The state in which the drop of a full stack's bottom item is reported (R128; log entry 14). -/
theorem dropBottom_drops (h : (getPlayer s p w).stack.getLast? = some it) :
    ∃ t, dropBottom p w s = reportItem p w .itemDropped .stackOverflow it it.readOffset t ∧ t.link = s.link ∧ t.draws = s.draws ∧
      getPlayer t p w = { getPlayer s p w with stack := (getPlayer s p w).stack.dropLast } := by
  refine ⟨_, by rw [dropBottom, h], ?_, ?_, ?_⟩ <;> simp

theorem dropBottom_draws (p : PosIx) (w : PlayerId) (s : State) : (dropBottom p w s).draws = s.draws := by
  cases h : (getPlayer s p w).stack.getLast? with
  | none => rw [dropBottom, h]
  | some bottom =>
    obtain ⟨t, ht, -, hd, -⟩ := dropBottom_drops h
    rw [ht, reportItem, raise_draws, hd]

/-- An interruption leaves the link and the free values as the drop of a full stack's bottom item leaves them (R128). -/
theorem playInterruptItem_playing (h : (getPlayer s p w).current = some old) :
    (playInterruptItem p w it s).link = (if 2 ≤ (getPlayer s p w).stack.length then dropBottom p w s else s).link ∧
      (playInterruptItem p w it s).draws = s.draws := by
  have hroomy : (if 2 ≤ (getPlayer s p w).stack.length then dropBottom p w s else s).draws = s.draws := by
    split
    · exact dropBottom_draws p w s
    · rfl
  rw [playInterruptItem, h]
  exact ⟨by simp, by simpa using hroomy⟩

/-- The player that an interruption leaves, its stack being within its bound (R123, R128). -/
theorem bare_playInterruptItem_playing (h : (getPlayer s p w).current = some old) (hs : (getPlayer s p w).stack.length ≤ 2) :
    bare (playInterruptItem p w it s) = bare (putPlayer s p w
      { getPlayer s p w with current := some it, stack := old :: (getPlayer s p w).stack.take 1 }) := by
  have hkept : (if 2 ≤ (getPlayer s p w).stack.length then (getPlayer s p w).stack.dropLast else (getPlayer s p w).stack) =
      (getPlayer s p w).stack.take 1 := by
    split
    · rw [List.dropLast_eq_take, show (getPlayer s p w).stack.length - 1 = 1 by omega]
    · rw [List.take_of_length_le (by omega)]
  rw [bare_playInterruptItem, h, ← hkept]

/-- The report of a full stack's bottom item waits after an interruption, with the player before the push (R128; log entry 14). -/
theorem waiting_playInterruptItem {bottom : Item} (h : (getPlayer s p w).current = some old)
    (hb : (getPlayer s p w).stack.getLast? = some bottom) (hs : (getPlayer s p w).stack.length = 2) :
    ∃ n, waiting (playerKey p w) (playInterruptItem p w it s) =
      some (.player p w (itemReport .itemDropped .stackOverflow bottom bottom.readOffset
        { getPlayer s p w with stack := (getPlayer s p w).stack.dropLast }), n) := by
  obtain ⟨hlink, -⟩ := playInterruptItem_playing (it := it) h
  rw [if_pos (by omega)] at hlink
  obtain ⟨t, ht, -, -, hp⟩ := dropBottom_drops hb
  exact ⟨_, (waiting_of_outbound (congrArg Link.outbound hlink) _).trans (by rw [ht, waiting_reportItem, hp])⟩

/-- A queued item changes neither the link nor the free values (R129). -/
theorem playNextItem_playing (h : (getPlayer s p w).current = some old) :
    (playNextItem p w it s).link = s.link ∧ (playNextItem p w it s).draws = s.draws := by
  rw [playNextItem, h]
  exact ⟨by simp, by simp⟩

end

/-! ## The rows of PLAY with a playable item (R125, R126) -/

/-- The row of each mode. -/
def playRow : PlayMode → Byte → Byte → Byte → ItemSpec → Instr
  | .now => .playNow
  | .interrupt => .playInterrupt
  | .next => .playNext
  | .only => .playOnly

/-- The mode byte of each row. -/
def modeByte : PlayMode → Byte
  | .now => 0
  | .interrupt => 1
  | .next => 2
  | .only => 3

theorem modeOfCode_modeByte (m : PlayMode) : modeOfCode (modeByte m).toNat = some m := by cases m <;> rfl

theorem exec_playRow {s : State} (h : Accepts s) (m : PlayMode) (src tag player : Byte) (i : ItemSpec) :
    exec (playRow m src tag player i) s =
      .next (answered 0xA0 src tag (playCommand src.toNat (player :: modeByte m :: itemBytes i) s)) := by
  cases m with
  | now => exact exec_playNow h src tag player i
  | interrupt => exact exec_playInterrupt h src tag player i
  | next => exact exec_playNext h src tag player i
  | only => exact exec_playOnly h src tag player i

/-- A PLAY joins the queue: it has mode NEXT, and its player plays (R126, R129). -/
def joinsQueue (m : PlayMode) (pl : Player) : Bool := decide (m = .next) && pl.current.isSome

section
variable {s : State} {p : PosIx} {w : PlayerId} {i : ItemSpec} {src : Source}

theorem sourceRefusal_playable (h : Playable s i src) : sourceRefusal s i.startOffset.toNat src = none := by
  cases src with
  | clip c =>
    obtain ⟨hs, ho⟩ := h
    have hlength : (getClip s c).length ≠ 0 := by omega
    simp [sourceRefusal, hs, hlength, Nat.not_le.2 ho]
  | stream k =>
    have hopen : (getStream s k).state ≠ .closed := h
    simp [sourceRefusal, hopen]

/-- A playable item in a call state that allows the player is played by its mode, where the queue has room for it. -/
theorem playCommand_playable (hs : s.ports.standby = false) (hcall : mayPlay (getPos s p).call w = true) (hi : CanPlay s i src)
    (m : PlayMode) :
    playCommand (sourceByte p).toNat (playerByte w :: modeByte m :: itemBytes i) s =
      if joinsQueue m (getPlayer s p w) = true ∧ 4 ≤ (getPlayer s p w).queue.length then refuse s .full
      else (playItem p w m (heldItem i src) s, .ok,
        playFields (joinsQueue m (getPlayer s p w)) (getPlayer (playItem p w m (heldItem i src) s) p w)) := by
  obtain ⟨hlevel, hnames, hplayable⟩ := hi
  have hnone : sourceRefusal s (itemFields i).startOffset src = none := sourceRefusal_playable hplayable
  rw [playCommand, onPosition_awake hs, byteAt_cons_zero, byteAt_cons_succ, byteAt_cons_zero, itemAt_play, playerByte_code,
    modeOfCode_modeByte, itemSource_names hlevel hnames]
  simp only [hcall, hnone, itemOf_itemFields, Bool.true_eq_false, if_false]
  rfl

/-- A PLAY that is taken: its reply shows the player that it leaves (R126). -/
theorem exec_playRow_taken (h : Awake s) (hcall : mayPlay (getPos s p).call w = true) (hi : CanPlay s i src) {m : PlayMode}
    (hroom : joinsQueue m (getPlayer s p w) = true → (getPlayer s p w).queue.length < 4) {pl : Player}
    (hb : bare (playItem p w m (heldItem i src) s) = bare (putPlayer s p w pl)) (tag : Byte) :
    exec (playRow m (sourceByte p) tag (playerByte w) i) s =
      .next (sendReply ⟨0xA0, sourceByte p, tag, .ok, playFields (joinsQueue m (getPlayer s p w)) pl⟩
        (playItem p w m (heldItem i src) s)) := by
  rw [exec_playRow h.1, playCommand_playable h.2 hcall hi, if_neg fun hf => absurd (hroom hf.1) (Nat.not_lt.2 hf.2),
    getPlayer_of_bare p w hb, getPlayer_putPlayer_self]
  rfl

/-- A PLAY that would join a full queue is refused (R129). -/
theorem exec_playRow_full (h : Awake s) (hcall : mayPlay (getPos s p).call w = true) (hi : CanPlay s i src) {m : PlayMode}
    (hjoins : joinsQueue m (getPlayer s p w) = true) (hfull : 4 ≤ (getPlayer s p w).queue.length) (tag : Byte) :
    exec (playRow m (sourceByte p) tag (playerByte w) i) s = .next (sendReply ⟨0xA0, sourceByte p, tag, .full, []⟩ s) := by
  rw [exec_playRow h.1, playCommand_playable h.2 hcall hi, if_pos ⟨hjoins, hfull⟩, answered_refuse]

/-- A PLAY with another mode than ONLY on an IDLE player (R127 to R129). -/
theorem exec_playRow_idle (h : Awake s) (hcall : mayPlay (getPos s p).call w = true) (hi : CanPlay s i src) {m : PlayMode}
    (hm : m ≠ .only) (hidle : (getPlayer s p w).current = none) (tag : Byte) :
    ∃ u, exec (playRow m (sourceByte p) tag (playerByte w) i) s =
        .next (sendReply ⟨0xA0, sourceByte p, tag, .ok,
          playFields false { getPlayer s p w with current := some (heldItem i src) }⟩ u) ∧
      bare u = bare (putPlayer s p w { getPlayer s p w with current := some (heldItem i src) }) ∧ u.link = s.link ∧
      u.draws = s.draws := by
  have hjoins : joinsQueue m (getPlayer s p w) = false := by simp [joinsQueue, hidle]
  have hplays := playItem_idle (it := heldItem i src) hm hidle
  have hb := bare_becomeCurrent p w (heldItem i src) s
  rw [← hplays] at hb
  refine ⟨_, ?_, hb, by rw [hplays, becomeCurrent_link], by rw [hplays, becomeCurrent_draws]⟩
  rw [exec_playRow_taken h hcall hi (fun hj => by simp [hjoins] at hj) hb, hjoins]

end

/-- Settles O40: mode NOW on an IDLE player raises nothing, on another it reports the replaced item; mode ONLY reports as the
flush and the replacement do. -/
theorem playNowAndOnly : Obligations.PlayNowAndOnly := by
  unfold Obligations.PlayNowAndOnly
  intro s p w tag i src h hcall hi
  dsimp only
  constructor
  · have hb := bare_playNowItem p w (heldItem i src) s
    refine ⟨playNowItem p w (heldItem i src) s, exec_playRow_taken (m := .now) h hcall hi (fun hj => nomatch hj) hb tag, hb,
      fun hidle => ?_, fun old hold => ?_, (raisesOnly_playNowItem ..).1⟩
    · exact (congrArg State.link (playItem_idle (m := .now) (by simp) hidle)).trans (becomeCurrent_link ..)
    · obtain ⟨n, hn⟩ := waiting_playNowItem (it := heldItem i src) hold
      exact ⟨n, waiting_mem hn⟩
  · have hb := bare_playOnlyItem p w (heldItem i src) s
    refine ⟨playOnlyItem p w (heldItem i src) s, exec_playRow_taken (m := .only) h hcall hi (fun hj => nomatch hj) hb tag, hb,
      fun hidle => ?_, (replacedWaits_playOnlyItem p w (heldItem i src) s).report, (raisesOnly_playOnlyItem ..).1⟩
    rw [playOnlyItem_idle hidle, becomeCurrent_link]

/-- Settles O41: on an IDLE player both modes make the item current; an interruption of a full stack reports the item that it drops,
and a full queue refuses. -/
theorem playInterruptAndNext : Obligations.PlayInterruptAndNext := by
  unfold Obligations.PlayInterruptAndNext
  intro s p w tag i src h hcall hi
  dsimp only
  refine ⟨fun hidle => ?_, fun old hold hs => ?_, fun hidle _ => ?_, fun hplays hroom => ?_, fun hplays hfull => ?_⟩
  · exact exec_playRow_idle (m := .interrupt) h hcall hi (by simp) hidle tag
  · have hb := bare_playInterruptItem_playing (it := heldItem i src) hold hs
    obtain ⟨hlink, hdraws⟩ := playInterruptItem_playing (it := heldItem i src) hold
    refine ⟨playInterruptItem p w (heldItem i src) s,
      exec_playRow_taken (m := .interrupt) h hcall hi (fun hj => nomatch hj) hb tag, hb, fun hfew => ?_, fun bottom hbot hlen => ?_,
      hdraws⟩
    · rw [hlink, if_neg (by omega)]
    · obtain ⟨n, hn⟩ := waiting_playInterruptItem (it := heldItem i src) hold hbot hlen
      refine ⟨n, ?_⟩
      simpa [itemReport, hold, hlen] using waiting_mem hn
  · exact exec_playRow_idle (m := .next) h hcall hi (by simp) hidle tag
  · obtain ⟨old, hold⟩ := Option.ne_none_iff_exists'.mp hplays
    have hjoins : joinsQueue .next (getPlayer s p w) = true := by simp [joinsQueue, hold]
    obtain ⟨hlink, hdraws⟩ := playNextItem_playing (it := heldItem i src) hold
    have hb := bare_playNextItem p w (heldItem i src) s
    rw [if_pos (by simp [hold])] at hb
    refine ⟨playNextItem p w (heldItem i src) s, ?_, hb, hlink, hdraws⟩
    refine (exec_playRow_taken (m := .next) h hcall hi (fun _ => hroom) hb tag).trans ?_
    simp only [hjoins, playFields, hold]
    rfl
  · exact exec_playRow_full (m := .next) h hcall hi (by simpa [joinsQueue, Option.isSome_iff_ne_none] using hplays) hfull tag

end Sys2Proof.Machine

/-! # What the operations keep of the listener counts (R135, R138, R152)

The counts follow the current items, and an item names a stream that is not CLOSED: it was checked when it entered, and leaves with the
close. -/

namespace Sys2Proof.Machine

/-- From `s` to `t` the listener counts stay right, if they were. -/
structure KeepsListeners (s t : State) : Prop where
  ok : ListenersOk s → ListenersOk t

/-- An item that names no CLOSED stream (R125). -/
def OpenItem (s : State) (it : Item) : Prop := ∀ i, it.source = .stream i → (getStream s i).state ≠ .closed

/-- From `s` to `t` no item entered a player. -/
structure ItemsFrom (s t : State) : Prop where
  mem : ∀ it ∈ allItems t, it ∈ allItems s

/-- No item names a stream. -/
def Unnamed (i : StreamIx) (s : State) : Prop := ∀ it ∈ allItems s, namesStream i it = false

/-! ## The invariant, by the counts and by the items -/

section
variable {s t u : State} {p : PosIx} {w : PlayerId} {pl : Player} {i : StreamIx} {it : Item}

theorem namesStream_iff : namesStream i it = true ↔ it.source = .stream i := by simp [namesStream]

theorem mem_heldItems_iff : it ∈ heldItems pl ↔ pl.current = some it ∨ it ∈ pl.stack ∨ it ∈ pl.queue := by simp [heldItems]

theorem listenersOk_iff (s : State) :
    ListenersOk s ↔ (∀ i, (getStream s i).listeners = listenersOf s i) ∧ ∀ it ∈ allItems s, OpenItem s it := by
  constructor
  · intro h
    refine ⟨fun i => (h i).1, fun it hit i hi hc => ?_⟩
    exact List.any_eq_false.mp ((h i).2 hc) it hit (namesStream_iff.mpr hi)
  · rintro ⟨hcount, hopen⟩ i
    exact ⟨hcount i, fun hc => List.any_eq_false.mpr fun it hit hn => hopen it hit i (namesStream_iff.mp hn) hc⟩

theorem hears_le_listeners (h : ListenersOk s) (p : PosIx) (w : PlayerId) (i : StreamIx) :
    hears i (getPlayer s p w) ≤ (getStream s i).listeners := (hears_le s p w i).trans (h i).1.ge

/-- No player hears a stream that no item names. -/
theorem listenersOf_unnamed (h : Unnamed i s) : listenersOf s i = 0 := by
  refine List.countP_eq_zero.mpr fun x _ hx => ?_
  obtain ⟨it, hcur, hn⟩ := (Option.any_eq_true _ _).mp hx
  have hheld : it ∈ heldItems (getPlayer s x.1 x.2) := mem_heldItems_iff.mpr (.inl hcur)
  exact Bool.false_ne_true ((h it ((mem_allItems s it).mpr ⟨_, _, hheld⟩)).symm.trans hn)

theorem unnamed_of_closed (h : ListenersOk s) (hc : (getStream s i).state = .closed) : Unnamed i s := fun it hit =>
  Bool.of_not_eq_true (List.any_eq_false.mp ((h i).2 hc) it hit)

theorem OpenItem.congr (h : OpenItem s it) (hs : ∀ i, (getStream t i).state = (getStream s i).state) : OpenItem t it :=
  fun i hi => hs i ▸ h i hi

/-- States of one bare form have their streams in the same states. -/
theorem streamState_of_bare (h : bare t = bare s) (i : StreamIx) : (getStream t i).state = (getStream s i).state :=
  (congrArg Stream.state (stream_of_bare h i)).trans rfl

/-- An operation on a player leaves the streams in their states. -/
theorem OpenItem.of_player (h : OpenItem s it) (hb : bare t = bare (putPlayer s p w pl)) : OpenItem t it :=
  h.congr (t := t) (s := putPlayer s p w pl) (streamState_of_bare hb)

/-- The items after a change of one player. -/
theorem mem_allItems_player (hb : bare t = bare (putPlayer s p w pl)) (h : it ∈ allItems t) :
    it ∈ heldItems pl ∨ it ∈ allItems s := by
  obtain ⟨q, v, hm⟩ := (mem_allItems t it).mp h
  rw [getPlayer_of_bare q v hb] at hm
  by_cases he : (q, v) = (p, w)
  · cases he
    rw [getPlayer_putPlayer_self] at hm
    exact .inl hm
  · have hne : getPlayer (putPlayer s p w pl) q v = getPlayer s q v := getPlayer_putPlayer_of_ne s pl (x := (q, v)) he
    rw [hne] at hm
    exact .inr ((mem_allItems s it).mpr ⟨q, v, hm⟩)

theorem mem_allItems_of_held (h : it ∈ heldItems (getPlayer s p w)) : it ∈ allItems s := (mem_allItems s it).mpr ⟨p, w, h⟩

/-- A player's items change, and the listener counts with its current item; what enters names no CLOSED stream (R125, R135). -/
theorem ListenersOk.replace (h : ListenersOk s) (hb : bare t = bare (putPlayer s p w pl))
    (hl : ∀ i, (getStream t i).listeners + hears i (getPlayer s p w) = (getStream s i).listeners + hears i pl)
    (hnew : ∀ it ∈ heldItems pl, it ∈ heldItems (getPlayer s p w) ∨ OpenItem s it) : ListenersOk t := by
  obtain ⟨hcount, hopen⟩ := (listenersOk_iff s).mp h
  refine (listenersOk_iff t).mpr ⟨fun i => ?_, fun it hit => ?_⟩
  · have hsum := sum_putPlayer (hears i) hb
    rw [← listenersOf_eq, ← listenersOf_eq] at hsum
    have := hl i
    have := hcount i
    omega
  · refine OpenItem.of_player ?_ hb
    obtain hheld | hit := mem_allItems_player hb hit
    · obtain hold | hopened := hnew it hheld
      · exact hopen it (mem_allItems_of_held hold)
      · exact hopened
    · exact hopen it hit

/-! ## What leaves the counts -/

theorem KeepsListeners.rfl : KeepsListeners s s := ⟨id⟩

theorem KeepsListeners.trans (h : KeepsListeners s t) (g : KeepsListeners t u) : KeepsListeners s u := ⟨fun hs => g.ok (h.ok hs)⟩

theorem KeepsListeners.ite {c : Prop} [Decidable c] (h : KeepsListeners s t) (g : KeepsListeners s u) :
    KeepsListeners s (if c then t else u) := by
  split
  · exact h
  · exact g

theorem KeepsListeners.of_same (hp : SamePlayers s t) (hi : t.streams = s.streams) : KeepsListeners s t :=
  ⟨(listenersOk_congr hi (getPlayer_of_samePlayers hp)).mpr⟩

/-- Neither a position nor a stream has changed. -/
theorem KeepsListeners.of_eq (hp : t.positions = s.positions) (hi : t.streams = s.streams) : KeepsListeners s t :=
  .of_same (samePlayers_of_positions hp) hi

theorem KeepsListeners.of_portless (h : portless t = portless s) : KeepsListeners s t :=
  .of_eq (positions_of_portless h) (streams_of_portless h)

/-- A position's record changes, and not its players. -/
theorem keepsListeners_putPos {r : Position} (hn : r.net = (getPos s p).net) (ha : r.agent = (getPos s p).agent) :
    KeepsListeners s (putPos s p r) := by
  refine ⟨(listenersOk_congr (s := s) (t := putPos s p r) (Eq.refl _) fun q v => ?_).mpr⟩
  rw [getPlayer, getPlayer, getPos_putPos]
  split
  · rename_i hq
    subst hq
    cases v
    · exact hn
    · exact ha
  · exact Eq.refl _

/-- A stream's record changes, and neither its state nor its count. -/
theorem keepsListeners_putStream {r : Stream} (hs : r.state = .closed → (getStream s i).state = .closed)
    (hl : r.listeners = (getStream s i).listeners) : KeepsListeners s (putStream s i r) := by
  refine ⟨fun h j => ?_⟩
  rw [getStream_putStream]
  split
  · rename_i hj
    subst hj
    exact ⟨hl.trans (h i).1, fun hc => (h i).2 (hs hc)⟩
  · exact h j

/-- A new record of a stream that no item names: it is opened or closed (R145, R152). -/
theorem ListenersOk.putStream_unnamed (h : ListenersOk s) (hu : Unnamed i s) {r : Stream} (hr : r.listeners = 0) :
    ListenersOk (putStream s i r) := by
  intro j
  rw [getStream_putStream]
  split
  · rename_i hj
    subst hj
    exact ⟨hr.trans (listenersOf_unnamed hu).symm, fun _ => List.any_eq_false.mpr fun it hit => Bool.eq_false_iff.mp (hu it hit)⟩
  · exact h j

theorem keepsListeners_raise (b : ReportBody) (s : State) : KeepsListeners s (raise b s) := .of_eq (by simp) (by simp)

theorem keepsListeners_raiseAll (bs : List ReportBody) (s : State) : KeepsListeners s (raiseAll bs s) := .of_eq (by simp) (by simp)

theorem keepsListeners_spendDraw (s : State) : KeepsListeners s (spendDraw s) := .of_eq (Eq.refl _) (Eq.refl _)

theorem keepsListeners_setCall (p : PosIx) (c : CallState) (s : State) : KeepsListeners s (setCall p c s) :=
  keepsListeners_putPos (Eq.refl _) (Eq.refl _)

theorem keepsListeners_putCanceller (p : PosIx) (c : Canceller) (s : State) : KeepsListeners s (putCanceller s p c) :=
  keepsListeners_putPos (Eq.refl _) (Eq.refl _)

theorem keepsListeners_tone (p : PosIx) (x : Tone) (s : State) : KeepsListeners s (putPos s p { getPos s p with tone := x }) :=
  keepsListeners_putPos (Eq.refl _) (Eq.refl _)

theorem keepsListeners_placeRequest (p : PosIx) (q : SearchRequest) (s : State) : KeepsListeners s (placeRequest p q s).1 := by
  rw [placeRequest_eq]
  exact .of_eq (Eq.refl _) (Eq.refl _)

theorem keepsListeners_startHead (s : State) : KeepsListeners s (startHead s) := by
  rw [startHead_eq]
  exact .of_eq (Eq.refl _) (Eq.refl _)

theorem keepsListeners_endSearch (o : SearchOutcome) (lag : Option Nat) (f : InFlight) (s : State) :
    KeepsListeners s (endSearch o lag f s).1 := .of_same (samePlayers_endSearch o lag f s) (by rw [endSearch_eq]; rfl)

theorem keepsListeners_cancelSearches (p : PosIx) (s : State) : KeepsListeners s (cancelSearches p s) := by
  unfold cancelSearches
  split
  · exact .rfl
  · have hdrop : KeepsListeners s (dropSearches p s) := by
      rw [dropSearches_eq]
      exact .of_eq (Eq.refl _) (Eq.refl _)
    have hkept : ∀ f x, KeepsListeners x (keepOutcome p f x) := fun f x => keepsListeners_putPos (Eq.refl _) (Eq.refl _)
    exact ((hdrop.trans (hkept _ _)).trans (keepsListeners_raise ..)).trans (keepsListeners_startHead _)

theorem keepsListeners_changeMode (m : CancellerMode) (p : PosIx) (s : State) : KeepsListeners s (changeMode m p s) :=
  .ite .rfl (.ite ((keepsListeners_putCanceller ..).trans (keepsListeners_cancelSearches ..)) (keepsListeners_putCanceller ..))

theorem keepsListeners_clearTone (p : PosIx) (s : State) : KeepsListeners s (clearTone p s) :=
  .ite ((keepsListeners_tone p _ s).trans (keepsListeners_raise ..)) .rfl

theorem keepsListeners_clearCallTone (p : PosIx) (s : State) : KeepsListeners s (clearCallTone p s) :=
  .ite (keepsListeners_clearTone ..) .rfl

end

/-! ## Items that leave (R133, R136 to R138) -/

section
variable {s t u : State}

theorem ItemsFrom.rfl : ItemsFrom s s := ⟨fun _ h => h⟩

theorem ItemsFrom.trans (h : ItemsFrom s t) (g : ItemsFrom t u) : ItemsFrom s u := ⟨fun it hit => h.mem it (g.mem it hit)⟩

theorem ItemsFrom.of_players (h : ∀ p w, getPlayer t p w = getPlayer s p w) : ItemsFrom s t := by
  refine ⟨fun it hit => ?_⟩
  obtain ⟨p, w, hm⟩ := (mem_allItems t it).mp hit
  exact mem_allItems_of_held (h p w ▸ hm)

theorem Unnamed.mono {i : StreamIx} (h : Unnamed i s) (hf : ItemsFrom s t) : Unnamed i t := fun it hit => h it (hf.mem it hit)

variable (p : PosIx) (w : PlayerId) (reason : LeaveReason) (sel : Item → Bool)

/-- A player that keeps some of its items. -/
theorem itemsFrom_player {pl : Player} (hb : bare t = bare (putPlayer s p w pl))
    (hheld : ∀ it ∈ heldItems pl, it ∈ heldItems (getPlayer s p w)) : ItemsFrom s t :=
  ⟨fun it hit => (mem_allItems_player hb hit).elim (fun h => mem_allItems_of_held (hheld it h)) id⟩

theorem held_dropLists (s : State) :
    ∀ it ∈ heldItems (getPlayer (dropLists p w reason sel s) p w), it ∈ heldItems (getPlayer s p w) := by
  intro it hit
  rw [getPlayer_dropLists, mem_heldItems_iff] at hit
  simp only [List.mem_filter] at hit
  rw [mem_heldItems_iff]
  tauto

theorem bare_dropLists_getPlayer (s : State) : bare (dropLists p w reason sel s) =
    bare (putPlayer s p w (getPlayer (dropLists p w reason sel s) p w)) := by
  rw [getPlayer_dropLists]
  exact bare_dropLists p w reason sel s

theorem getStream_dropLists (i : StreamIx) (s : State) : getStream (dropLists p w reason sel s) i = getStream s i := by
  rw [dropLists, getStream_dropStacked, getStream_dropQueued]

theorem itemsFrom_dropLists (s : State) : ItemsFrom s (dropLists p w reason sel s) :=
  itemsFrom_player p w (bare_dropLists_getPlayer p w reason sel s) (held_dropLists p w reason sel s)

theorem keepsListeners_dropLists (s : State) : KeepsListeners s (dropLists p w reason sel s) := by
  refine ⟨fun h => h.replace (bare_dropLists_getPlayer p w reason sel s) (fun i => ?_) fun it hit =>
    .inl (held_dropLists p w reason sel s it hit)⟩
  rw [getStream_dropLists, getPlayer_dropLists]
  rfl

/-- The current item's leaving by a command, where the player plays. -/
theorem bare_endCurrent_playing {it : Item} (hc : (getPlayer s p w).current = some it) :
    bare (endCurrent p w reason s) = bare (putPlayer s p w (succession (getPlayer s p w))) := by
  rw [bare_endCurrent, hc]
  rfl

theorem itemsFrom_endCurrent (s : State) : ItemsFrom s (endCurrent p w reason s) := by
  cases hc : (getPlayer s p w).current with
  | none =>
    rw [endCurrent_idle p w reason s hc]
    exact .rfl
  | some it => exact itemsFrom_player p w (bare_endCurrent_playing p w reason hc) fun _ => held_succession

theorem keepsListeners_endCurrent (s : State) : KeepsListeners s (endCurrent p w reason s) := by
  cases hc : (getPlayer s p w).current with
  | none =>
    rw [endCurrent_idle p w reason s hc]
    exact .rfl
  | some it =>
    refine ⟨fun h => h.replace (bare_endCurrent_playing p w reason hc) (fun i => ?_) fun _ hit => .inl (held_succession hit)⟩
    have := hears_le_listeners h p w i
    rw [listeners_endCurrent p w reason i s hc]
    omega

theorem itemsFrom_clearPlayer (s : State) : ItemsFrom s (clearPlayer p w reason s) :=
  (itemsFrom_dropLists ..).trans (itemsFrom_endCurrent ..)

theorem keepsListeners_clearPlayer (s : State) : KeepsListeners s (clearPlayer p w reason s) :=
  (keepsListeners_dropLists ..).trans (keepsListeners_endCurrent ..)

end

/-! ## Items that enter (R125, R127 to R130) -/

section
variable {s : State} {p : PosIx} {w : PlayerId} {it : Item}

@[simp] theorem getStream_clipEnters (src : Source) (s : State) (i : StreamIx) : getStream (clipEnters src s) i = getStream s i := by
  cases src <;> rfl

theorem listeners_becomeCurrent (i : StreamIx) (s : State) :
    (getStream (becomeCurrent p w it s) i).listeners = (getStream s i).listeners + if it.source == .stream i then 1 else 0 := by
  rw [becomeCurrent, listeners_listens, getStream_clipEnters]
  rfl

theorem hears_current (i : StreamIx) (it : Item) (stack queue : List Item) :
    hears i ⟨some it, stack, queue⟩ = if it.source == .stream i then 1 else 0 := rfl

/-- The items of a player with a new current one. -/
theorem held_newCurrent (ho : OpenItem s it) (pl : Player) (x : Item) (hx : x ∈ heldItems { pl with current := some it }) :
    x ∈ heldItems pl ∨ OpenItem s x := by
  rw [mem_heldItems_iff] at hx ⊢
  obtain hcur | hx := hx
  · cases hcur
    exact .inr ho
  · exact .inl (.inr hx)

theorem keepsListeners_becomeCurrent (ho : OpenItem s it) (hc : (getPlayer s p w).current = none) :
    KeepsListeners s (becomeCurrent p w it s) := by
  refine ⟨fun h => h.replace (bare_becomeCurrent p w it s) (fun i => ?_) (held_newCurrent ho _)⟩
  rw [listeners_becomeCurrent, hears_none i hc, hears_current]
  rfl

theorem keepsListeners_playNowItem (ho : OpenItem s it) : KeepsListeners s (playNowItem p w it s) := by
  cases hc : (getPlayer s p w).current with
  | none =>
    rw [playNowItem, hc]
    exact keepsListeners_becomeCurrent ho hc
  | some old =>
    refine ⟨fun h => h.replace (bare_playNowItem p w it s) (fun i => ?_) (held_newCurrent ho _)⟩
    have hle := hears_le_listeners h p w i
    rw [hears_some i hc] at hle ⊢
    rw [playNowItem, hc, hears_current]
    dsimp only
    rw [reportItem, getStream_raise, listeners_becomeCurrent, getStream_clipLeaves, listeners_unlistens]
    omega

/-- The bottom item of a full stack leaves (R128). -/
theorem keepsListeners_dropBottom (p : PosIx) (w : PlayerId) (s : State) : KeepsListeners s (dropBottom p w s) := by
  unfold dropBottom
  split
  · exact .rfl
  · refine ⟨fun h => h.replace (p := p) (w := w)
      (pl := { getPlayer s p w with stack := (getPlayer s p w).stack.dropLast }) (by simp) (fun i => ?_) fun x hx => ?_⟩
    · rw [reportItem, getStream_raise, getStream_clipLeaves]
      rfl
    · rw [mem_heldItems_iff] at hx ⊢
      exact .inl (hx.imp_right (Or.imp_left List.mem_of_mem_dropLast))

/-- An item interrupts another, which goes on the stack (R128). -/
theorem keepsListeners_interrupt {old : Item} (ho : OpenItem s it) (hc : (getPlayer s p w).current = some old) :
    KeepsListeners s (becomeCurrent p w it (unlistens old.source
      (putPlayer s p w { getPlayer s p w with stack := old :: (getPlayer s p w).stack }))) := by
  refine ⟨fun h => h.replace (p := p) (w := w) (pl := ⟨some it, old :: (getPlayer s p w).stack, (getPlayer s p w).queue⟩) ?_
    (fun i => ?_) fun x hx => ?_⟩
  · rw [bare_becomeCurrent, bare_putPlayer p w (bare_unlistens ..), getPlayer_unlistens, getPlayer_putPlayer_self,
      putPlayer_putPlayer]
  · have hle := hears_le_listeners h p w i
    have hput : ∀ pl, getStream (putPlayer s p w pl) i = getStream s i := fun _ => rfl
    rw [hears_some i hc] at hle ⊢
    rw [listeners_becomeCurrent, listeners_unlistens, hears_current, hput]
    omega
  · rw [mem_heldItems_iff, hc]
    obtain hcur | hst | hqu := mem_heldItems_iff.mp hx
    · cases hcur
      exact .inr ho
    · exact .inl ((List.mem_cons.mp hst).imp (fun e => by rw [e]) .inl)
    · exact .inl (.inr (.inr hqu))

theorem keepsListeners_playInterruptItem (ho : OpenItem s it) : KeepsListeners s (playInterruptItem p w it s) := by
  unfold playInterruptItem
  split
  · rename_i hc
    exact keepsListeners_becomeCurrent ho hc
  · rename_i old hc
    dsimp only
    split
    · obtain ⟨stack, hb⟩ := bare_dropBottom p w s
      refine (keepsListeners_dropBottom p w s).trans (keepsListeners_interrupt (ho.of_player hb) ?_)
      rw [getPlayer_of_bare p w hb, getPlayer_putPlayer_self, hc]
    · exact keepsListeners_interrupt ho hc

theorem keepsListeners_playNextItem (ho : OpenItem s it) : KeepsListeners s (playNextItem p w it s) := by
  cases hc : (getPlayer s p w).current with
  | none =>
    rw [playNextItem, hc]
    exact keepsListeners_becomeCurrent ho hc
  | some old =>
    have hb := bare_playNextItem p w it s
    rw [if_pos (by simp [hc])] at hb
    refine ⟨fun h => h.replace hb (fun i => ?_) fun x hx => ?_⟩
    · rw [playNextItem, hc]
      dsimp only
      rw [getStream_clipEnters]
      rfl
    · rw [mem_heldItems_iff] at hx ⊢
      obtain hcur | hst | hqu := hx
      · exact .inl (.inl hcur)
      · exact .inl (.inr (.inl hst))
      · obtain hqu | hqu := List.mem_append.mp hqu
        · exact .inl (.inr (.inr hqu))
        · exact .inr (List.mem_singleton.mp hqu ▸ ho)

theorem keepsListeners_playOnlyItem (ho : OpenItem s it) : KeepsListeners s (playOnlyItem p w it s) :=
  (keepsListeners_dropLists ..).trans (keepsListeners_playNowItem (ho.of_player (bare_dropLists ..)))

theorem keepsListeners_playItem (m : PlayMode) (ho : OpenItem s it) : KeepsListeners s (playItem p w m it s) := by
  cases m with
  | now => exact keepsListeners_playNowItem ho
  | interrupt => exact keepsListeners_playInterruptItem ho
  | next => exact keepsListeners_playNextItem ho
  | only => exact keepsListeners_playOnlyItem ho

/-- The items that became current in a slice listen (R134, R135). -/
theorem keepsListeners_settleRun {r : PlayRun} (hr : RunCounts (getPlayer s p w) r) : KeepsListeners s (settleRun p w r s) :=
  ⟨fun h => listenersOk_settleRun h hr⟩

end

/-! ## The checks of an item (R115, R125) -/

section
variable {s : State} {it : Item}

theorem openItem_of_source {offset : Nat} {src : Source} (h : sourceRefusal s offset src = none) (hi : it.source = src) :
    OpenItem s it := by
  intro i hs hc
  rw [hs] at hi
  subst hi
  simp [sourceRefusal, hc] at h

theorem openItem_of_check {f : ItemFields} (h : checkItem s f = .ok it) : OpenItem s it := by
  unfold checkItem at h
  split at h
  · nomatch h
  · split at h
    · nomatch h
    · rename_i hn
      cases h
      exact openItem_of_source hn rfl

theorem openItem_of_checkOptional {f : Option ItemFields} {x : Option Item} (h : checkOptional s f = .ok x) :
    ∀ it, x = some it → OpenItem s it := by
  rintro it rfl
  unfold checkOptional at h
  split at h
  · nomatch h
  · split at h
    · nomatch h
    · rename_i hi
      cases h
      exact openItem_of_check hi

end

end Sys2Proof.Machine

/-! # What calls, streams, commands, slices and events keep of the listener counts (R135, R138, R152) -/

namespace Sys2Proof.Machine

/-! ## Calls and whispers (R5 to R11) -/

section
variable {s t : State} {p : PosIx}

theorem keepsListeners_whisperCheck (p : PosIx) (was : Bool) (s : State) : KeepsListeners s (whisperCheck p was s) :=
  .ite (((keepsListeners_setCall p .connected s).trans (keepsListeners_clearPlayer ..)).trans (keepsListeners_raise ..)) .rfl

/-- A whisper done lets items leave alone (R7). -/
theorem itemsFrom_whisperCheck (p : PosIx) (was : Bool) (s : State) : ItemsFrom s (whisperCheck p was s) := by
  unfold whisperCheck
  split
  · have hcall : ItemsFrom s (setCall p .connected s) := .of_players fun q w => getPlayer_setCall p q .connected w s
    have hcleared : ItemsFrom s (whisperCleared p s) := hcall.trans (itemsFrom_clearPlayer p .net .cleared _)
    rw [whisperDone_eq]
    exact hcleared.trans (.of_players fun q w => getPlayer_raise ..)
  · exact .rfl

theorem keepsListeners_playersCleared (p : PosIx) (s : State) : KeepsListeners s (playersCleared p s) :=
  ((keepsListeners_setCall p .ready s).trans (keepsListeners_clearPlayer ..)).trans (keepsListeners_clearPlayer ..)

theorem keepsListeners_clearCall (p : PosIx) (s : State) : KeepsListeners s (clearCall p s) := by
  have hquiet := (keepsListeners_playersCleared p s).trans (keepsListeners_clearCallTone p _)
  have hending : KeepsListeners s (callEnding p s) := hquiet.trans (keepsListeners_putCanceller ..)
  rw [clearCall_eq]
  exact hending.trans (keepsListeners_cancelSearches ..)

theorem keepsListeners_closedRecord (p : PosIx) (s : State) : KeepsListeners s (putPos s p (closedRecord (getPos s p))) :=
  keepsListeners_putPos rfl rfl

theorem keepsListeners_closePosition (p : PosIx) (s : State) : KeepsListeners s (closePosition p s) := by
  have hended : KeepsListeners s (endIfCalled p s) := .ite (keepsListeners_clearCall ..) .rfl
  have hvacant := hended.trans (keepsListeners_setCall p .vacant _)
  have hquiet := (hvacant.trans (keepsListeners_clearPlayer p .agent .cleared _)).trans (keepsListeners_clearTone p _)
  rw [closePosition_eq]
  exact hquiet.trans (keepsListeners_closedRecord p _)

theorem keepsListeners_closeIfOpen (p : PosIx) (s : State) : KeepsListeners s (closeIfOpen p s) :=
  .ite .rfl (keepsListeners_closePosition p s)

theorem keepsListeners_resetPosition (p : PosIx) (s : State) : KeepsListeners s (resetPosition p s) :=
  ((keepsListeners_putCanceller ..).trans (keepsListeners_closeIfOpen ..)).trans (keepsListeners_putPos rfl rfl)

theorem keepsListeners_prepareCall (p : PosIx) (hint : Option Nat) (s : State) : KeepsListeners s (prepareCall p hint s) :=
  .ite ((keepsListeners_putCanceller ..).trans (keepsListeners_placeRequest ..)) (keepsListeners_putCanceller ..)

/-- A whisper item is played, and the streams stay in their states. -/
theorem keepsListeners_startWhisper {x : Option Item} (h : ∀ it, x = some it → OpenItem s it) :
    KeepsListeners s (startWhisper p x s) ∧ ∀ it, OpenItem s it → OpenItem (startWhisper p x s) it := by
  cases x with
  | none => exact ⟨.rfl, fun _ => id⟩
  | some it =>
    have ht : KeepsListeners s (putPos s p { getPos s p with announceTag := it.tag }) := keepsListeners_putPos rfl rfl
    have hs := streamState_of_bare (bare_playOnlyItem p .agent it (putPos s p { getPos s p with announceTag := it.tag }))
    exact ⟨ht.trans (keepsListeners_playOnlyItem (h it rfl)), fun jt hj => OpenItem.congr hj hs⟩

theorem keepsListeners_startNetItem {x : Option Item} (h : ∀ it, x = some it → OpenItem s it) :
    KeepsListeners s (startNetItem p x s) := by
  cases x with
  | none => exact .rfl
  | some it => exact keepsListeners_playOnlyItem (h it rfl)

theorem keepsListeners_takeOffer {a b : Option Item} (ha : ∀ it, a = some it → OpenItem s it)
    (hb : ∀ it, b = some it → OpenItem s it) (hint : Option Nat) : KeepsListeners s (takeOffer p a b hint s) := by
  have hcall := keepsListeners_setCall p (if a.isSome then .announce else .connected) s
  obtain ⟨hwhisper, hopen⟩ := keepsListeners_startWhisper (s := setCall p (if a.isSome then .announce else .connected) s) (p := p) ha
  exact ((hcall.trans hwhisper).trans (keepsListeners_startNetItem fun it hi => hopen it (hb it hi))).trans
    (keepsListeners_prepareCall ..)

end

/-! ## The close of a stream (R138, R152) -/

section
variable (i : StreamIx) (s : State)

theorem keepsListeners_giveUpStream (p : PosIx) (w : PlayerId) : KeepsListeners s (giveUpStream i p w s) :=
  .ite ((keepsListeners_dropLists ..).trans (keepsListeners_endCurrent ..)) (keepsListeners_dropLists ..)

/-- Everything up to the close of the record: the give-ups, then the whispers that are due. -/
theorem keepsListeners_streamLeft : KeepsListeners s (streamLeft i s) := by
  have hgiven : KeepsListeners s (streamGiven i s) :=
    foldl_keeps (P := KeepsListeners s) (fun t x ht => ht.trans (keepsListeners_giveUpStream i t x.1 x.2)) _ _ .rfl
  exact foldl_keeps (P := KeepsListeners s) (fun t x ht => .ite (ht.trans (keepsListeners_whisperCheck ..)) ht) _ _ hgiven

theorem held_succession_lists {pl : Player} {it : Item} (h : it ∈ heldItems (succession pl)) : it ∈ pl.stack ∨ it ∈ pl.queue := by
  unfold succession at h
  split at h
  · rename_i q rest hqueue
    simp only [mem_heldItems_iff, Option.some.injEq] at h
    rw [hqueue, List.mem_cons, eq_comm]
    tauto
  · rename_i x rest hqueue hstack
    simp only [mem_heldItems_iff, Option.some.injEq] at h
    rw [hstack, List.mem_cons, eq_comm]
    tauto
  · rw [mem_heldItems_iff] at h
    exact h.resolve_left nofun

/-- A player that gave up a stream holds no item that names it. -/
theorem held_givenUp {pl : Player} {it : Item} (h : it ∈ heldItems (givenUp i pl)) : namesStream i it = false := by
  have hlists : it ∈ (listsGiven i pl).stack ∨ it ∈ (listsGiven i pl).queue → namesStream i it = false := by
    rintro (hm | hm)
    · simpa using (List.mem_filter.mp hm).2
    · simpa using (List.mem_filter.mp hm).2
  rw [givenUp_eq] at h
  split at h
  · exact hlists (held_succession_lists h)
  · rename_i hcur
    obtain hc | hm := mem_heldItems_iff.mp h
    · have hc : pl.current = some it := hc
      simpa [hc] using hcur
    · exact hlists hm

theorem unnamed_streamGiven : Unnamed i (streamGiven i s) := by
  intro it hit
  obtain ⟨p, w, hm⟩ := (mem_allItems _ it).mp hit
  rw [(gaveUp_streamGiven i s).getPlayer, givenIn_holders] at hm
  exact held_givenUp i hm

theorem unnamed_streamLeft : Unnamed i (streamLeft i s) := by
  refine foldl_keeps (P := Unnamed i) (fun t x ht => ?_) _ _ (unnamed_streamGiven i s)
  split
  · exact ht.mono (itemsFrom_whisperCheck ..)
  · exact ht

theorem keepsListeners_closeStream : KeepsListeners s (closeStream i s) := by
  refine ⟨fun h => ?_⟩
  have hleft := (keepsListeners_streamLeft i s).ok h
  rw [closeStream_eq]
  exact ListenersOk.putStream_unnamed ((keepsListeners_spendDraw _).ok hleft) (unnamed_streamLeft i s) rfl

/-! ## The other operations of a stream (R145 to R151) -/

@[simp] theorem withHalf_state (r : Stream) (h : Fin 2) (x : Half) : (withHalf r h x).state = r.state := by
  unfold withHalf; split <;> rfl
@[simp] theorem withHalf_listeners (r : Stream) (h : Fin 2) (x : Half) : (withHalf r h x).listeners = r.listeners := by
  unfold withHalf; split <;> rfl

theorem listeners_enterHalf (n : Nat) (x : FixRun) : (enterHalf n x).stream.listeners = x.stream.listeners := by
  induction n generalizing x with
  | zero => rfl
  | succ n ih =>
    rw [enterHalf]
    dsimp only
    split
    · split
      · exact withHalf_listeners ..
      · exact (ih _).trans (withHalf_listeners ..)
    · rfl
    · rfl

theorem listeners_fixSample (m : List Host.Cell) (x : FixRun) : (fixSample m x).2.stream.listeners = x.stream.listeners := by
  unfold fixSample
  dsimp only
  split
  · split
    · exact (listeners_enterHalf ..).trans (withHalf_listeners ..)
    · rfl
  · rfl

theorem listeners_fixSamples (m : List Host.Cell) (n : Nat) (x : FixRun) :
    (fixSamples m n x).2.stream.listeners = x.stream.listeners := by
  induction n generalizing x with
  | zero => rfl
  | succ n ih => exact (ih _).trans (listeners_fixSample m x)

theorem listeners_beginFixing (r : Stream) : (beginFixing r).stream.listeners = r.listeners := by
  unfold beginFixing
  split
  · rfl
  · exact listeners_enterHalf ..

theorem listeners_fixStream (m : List Host.Cell) (r : Stream) : (fixStream m r).stream.listeners = r.listeners := by
  unfold fixStream
  split
  · have h := (listeners_fixSamples m 64 (beginFixing r)).trans (listeners_beginFixing r)
    dsimp only
    generalize fixSamples m 64 (beginFixing r) = y at h ⊢
    exact h
  · rfl

theorem keepsListeners_fixOne : KeepsListeners s (fixOne i s) := by
  have hstate : ∀ m r, (fixStream m r).stream.state = r.state := fun m r => congrArg Prod.fst (ringOf_fixStream m r)
  exact (keepsListeners_putStream (fun hc => (hstate ..).symm.trans hc) (listeners_fixStream ..)).trans (keepsListeners_raiseAll ..)

theorem keepsListeners_emptyHalfOf : KeepsListeners s (emptyHalfOf i s) := by
  have hstate : ∀ n x, (enterHalf n x).stream.state = x.stream.state := fun n x => congrArg Prod.fst (ringOf_enterHalf n x)
  refine .ite ((keepsListeners_putStream (fun hc => ?_) ?_).trans (keepsListeners_raiseAll ..)) .rfl
  · rwa [hstate, leaveHalf, withHalf_state] at hc
  · exact (listeners_enterHalf ..).trans (withHalf_listeners ..)

theorem keepsListeners_fillHalf (h : Fin 2) (last : Bool) (data : List Byte) : KeepsListeners s (fillHalf i h last data s).1 := by
  have hput : ∀ y, KeepsListeners s (putStream s i (withHalf (getStream s i) h y)) := fun y =>
    keepsListeners_putStream (fun hc => (withHalf_state ..).symm.trans hc) (withHalf_listeners ..)
  exact (hput _).trans (.of_eq rfl rfl)

/-! ## Compaction (R117, R118) -/

theorem keepsListeners_of_storeless {t : State} (h : storeless t = storeless s) (hi : t.streams = s.streams) : KeepsListeners s t :=
  .of_eq (positions_of_storeless h) hi

theorem keepsListeners_compactPeriod : KeepsListeners s (compactPeriod s) :=
  keepsListeners_of_storeless s (storeless_compactPeriod s) (by simp [compactPeriod, allTurns])

theorem keepsListeners_finishMove : KeepsListeners s (finishMove s) :=
  keepsListeners_of_storeless s (storeless_finishMove s) (finishMove_streams s)

end

/-! ## Commands -/

/-- Every player is IDLE, and every stream CLOSED: no count is left (R182, R183). -/
theorem keepsListeners_allReset {s t : State} (hi : t.streams = streamsAtReset) (hp : t.positions = positionsAtReset) :
    KeepsListeners s t := by
  have hreset : KeepsListeners State.reset t := .of_eq hp hi
  exact ⟨fun _ => hreset.ok listenersOk_reset⟩

section
variable (src : Nat) (b : List Byte) (s : State)

theorem keepsListeners_onPosition {act : PosIx → Answer} (h : ∀ p, KeepsListeners s (act p).1) :
    KeepsListeners s (onPosition s src act).1 := onPosition_keeps (P := KeepsListeners s) src .rfl h

theorem keepsListeners_onDevice {act : Answer} (h : KeepsListeners s act.1) : KeepsListeners s (onDevice s src act).1 :=
  onDevice_keeps (P := KeepsListeners s) src .rfl h

theorem keepsListeners_onClip (id : Nat) {act : ClipIx → Answer} (h : ∀ c, KeepsListeners s (act c).1) :
    KeepsListeners s (onDevice s src (onClip s id act)).1 :=
  keepsListeners_onDevice src s (onClip_keeps (P := KeepsListeners s) id .rfl h)

theorem keepsListeners_onStream (id : Nat) {act : StreamIx → Answer} (h : ∀ i, KeepsListeners s (act i).1) :
    KeepsListeners s (onStream s id act).1 := onStream_keeps (P := KeepsListeners s) id .rfl h

theorem keepsListeners_taken {t : State} (h : KeepsListeners s t) : KeepsListeners s (taken t).1 := h

theorem keepsListeners_resetCommand : KeepsListeners s (resetCommand src b s).1 := by
  unfold resetCommand
  split
  · exact .rfl
  · split
    · refine keepsListeners_onDevice src s ?_
      split
      · exact .rfl
      · exact keepsListeners_taken s (keepsListeners_allReset rfl rfl)
    · exact keepsListeners_onPosition src s fun p => keepsListeners_resetPosition p s

theorem keepsListeners_params : KeepsListeners s (getParamCommand src b s).1 ∧ KeepsListeners s (setParamCommand src b s).1 := by
  unfold getParamCommand setParamCommand
  dsimp only
  split
  · exact ⟨.rfl, .rfl⟩
  · split
    · exact ⟨.rfl, keepsListeners_putPos rfl rfl⟩
    · exact ⟨.rfl, .rfl⟩
  · split
    · exact ⟨.rfl, .of_eq rfl rfl⟩
    · exact ⟨.rfl, .rfl⟩

theorem keepsListeners_callOffer : KeepsListeners s (callOfferCommand src b s).1 := by
  refine keepsListeners_onPosition src s fun p => ?_
  split
  · exact .rfl
  · split
    · exact .rfl
    · split
      · exact .rfl
      · rename_i ha
        split
        · exact .rfl
        · rename_i hb
          exact keepsListeners_takeOffer (openItem_of_checkOptional ha) (openItem_of_checkOptional hb) _

theorem keepsListeners_callConnect : KeepsListeners s (callConnectCommand src s).1 := by
  refine keepsListeners_onPosition src s fun p => ?_
  have hc := keepsListeners_setCall p .connected s
  split
  · exact keepsListeners_taken s ((hc.trans (keepsListeners_clearPlayer ..)).trans (keepsListeners_clearPlayer ..))
  · exact keepsListeners_taken s (hc.trans (keepsListeners_clearPlayer ..))
  all_goals exact .rfl

theorem keepsListeners_callHold : KeepsListeners s (callHoldCommand src b s).1 := by
  refine keepsListeners_onPosition src s fun p => ?_
  split
  · exact .rfl
  · split
    · exact .rfl
    · rename_i hi
      exact keepsListeners_taken s ((keepsListeners_setCall p .held s).trans (keepsListeners_playOnlyItem (openItem_of_check hi)))

theorem keepsListeners_play : KeepsListeners s (playCommand src b s).1 := by
  refine keepsListeners_onPosition src s fun p => ?_
  split
  · split
    · exact .rfl
    · split
      · exact .rfl
      · rename_i hn
        dsimp only
        split
        · exact .rfl
        · exact keepsListeners_playItem _ (openItem_of_source hn rfl)
  · exact .rfl

theorem keepsListeners_stop : KeepsListeners s (stopCommand src b s).1 := by
  refine keepsListeners_onPosition src s fun p => ?_
  split
  · exact (keepsListeners_endCurrent ..).trans (keepsListeners_whisperCheck ..)
  · exact (keepsListeners_clearPlayer ..).trans (keepsListeners_whisperCheck ..)
  · exact .rfl

theorem keepsListeners_search : KeepsListeners s (searchCommand src b s).1 := by
  refine keepsListeners_onPosition src s fun p => ?_
  split
  · exact .rfl
  · split
    · exact keepsListeners_placeRequest ..
    · exact .rfl

theorem keepsListeners_toneStart : KeepsListeners s (toneStartCommand src b s).1 := by
  refine keepsListeners_onPosition src s fun p => ?_
  split
  · exact .rfl
  · split
    · exact .rfl
    · split
      · exact .rfl
      · exact (keepsListeners_tone p _ s).trans (keepsListeners_spendDraw _)

theorem keepsListeners_portSet : KeepsListeners s (portSetCommand src b s).1 := by
  refine keepsListeners_onDevice src s ?_
  split
  · split
    · exact .rfl
    · split
      · exact .rfl
      · exact .of_portless (portless_setPort ..)
  · exact .rfl

theorem keepsListeners_sleep : KeepsListeners s (sleepCommand src s).1 := by
  refine keepsListeners_onDevice src s ?_
  split
  · exact .rfl
  · split
    · exact .rfl
    · exact .of_portless (portless_goToSleep s)

/-- The commands of the clips leave the players and the streams, in every branch (R108 to R113). -/
theorem keepsListeners_clipCommands :
    KeepsListeners s (clipAllocCommand src b s).1 ∧ KeepsListeners s (clipWriteCommand src b s).1 ∧
      KeepsListeners s (clipEndCommand src b s).1 ∧ KeepsListeners s (clipFreeCommand src b s).1 ∧
      KeepsListeners s (clipInfoCommand src b s).1 := by
  refine ⟨?_, ?_, ?_, ?_, ?_⟩ <;> refine keepsListeners_onClip src s _ fun c => ?_
  · dsimp only
    (repeat' split) <;> exact .of_eq rfl rfl
  · dsimp only
    (repeat' split) <;> exact .of_eq rfl rfl
  · dsimp only
    split <;> exact .of_eq rfl rfl
  · (repeat' split) <;> exact .of_eq rfl rfl
  · exact .of_eq rfl rfl

theorem keepsListeners_storeCompact : KeepsListeners s (storeCompactCommand src s).1 :=
  keepsListeners_onDevice src s (by (repeat' split) <;> exact .of_eq rfl rfl)

/-- No item names the CLOSED stream that is opened (R145). -/
theorem keepsListeners_streamOpen : KeepsListeners s (streamOpenCommand src b s).1 := by
  refine keepsListeners_onDevice src s (keepsListeners_onStream s _ fun i => ?_)
  split
  · exact .rfl
  · split
    · exact .rfl
    · split
      · exact .rfl
      · rename_i hi
        dsimp only
        split
        · exact keepsListeners_spendDraw s
        · exact ⟨fun h => h.putStream_unnamed (unnamed_of_closed h (not_not.mp hi)) rfl⟩

theorem keepsListeners_streamFill : KeepsListeners s (streamFillCommand src b s).1 := by
  refine keepsListeners_onDevice src s (keepsListeners_onStream s _ fun i => ?_)
  split
  · exact .rfl
  · dsimp only
    split
    · exact .rfl
    · split
      · exact .rfl
      · split
        · exact .rfl
        · exact .rfl
        · exact keepsListeners_fillHalf ..

theorem keepsListeners_streamRun {act : Stream → Stream} (hs : ∀ r : Stream, r.state ≠ .closed → (act r).state ≠ .closed)
    (hl : ∀ r, (act r).listeners = r.listeners) : KeepsListeners s (streamRunCommand act src b s).1 := by
  refine keepsListeners_onDevice src s ?_
  split
  · exact .rfl
  · refine keepsListeners_onStream s _ fun i => ?_
    split
    · exact .rfl
    · rename_i hi
      exact keepsListeners_putStream (fun hc => absurd hc (hs _ hi)) (hl _)

theorem haltedStream_state {r : Stream} (h : r.state ≠ .closed) : (haltedStream r).state ≠ .closed := by
  unfold haltedStream
  split
  · simp
  · exact h

theorem haltedStream_listeners (r : Stream) : (haltedStream r).listeners = r.listeners := by
  unfold haltedStream
  split <;> rfl

theorem keepsListeners_streamClose : KeepsListeners s (streamCloseCommand src b s).1 := by
  refine keepsListeners_onDevice src s (keepsListeners_onStream s _ fun i => ?_)
  split
  · exact .rfl
  · exact keepsListeners_taken s (keepsListeners_closeStream i s)

/-- Every command keeps the listener counts (R177). -/
theorem keepsListeners_perform (c : Command) : KeepsListeners s (perform c src b s).1 := by
  obtain ⟨hget, hset⟩ := keepsListeners_params src b s
  obtain ⟨halloc, hwrite, hend, hfree, hinfo⟩ := keepsListeners_clipCommands src b s
  cases c with
  | reset => exact keepsListeners_resetCommand src b s
  | sleep => exact keepsListeners_sleep src s
  | wake => exact keepsListeners_onDevice src s (by split; exacts [.of_portless (portless_portsEvent ..), .rfl])
  | portSet => exact keepsListeners_portSet src b s
  | portStatus => exact keepsListeners_onDevice src s (by split; exacts [.rfl, keepsListeners_spendDraw s])
  | setParam => exact hset
  | getParam => exact hget
  | posOpen => exact keepsListeners_onPosition src s fun p => by split; exacts [keepsListeners_putPos rfl rfl, .rfl]
  | posClose => exact keepsListeners_onPosition src s fun p => keepsListeners_taken s (keepsListeners_closeIfOpen p s)
  | callOffer => exact keepsListeners_callOffer src b s
  | callConnect => exact keepsListeners_callConnect src s
  | callHold => exact keepsListeners_callHold src b s
  | callClear =>
    exact keepsListeners_onPosition src s fun p => by split; exacts [keepsListeners_taken s (keepsListeners_clearCall p s), .rfl]
  | mute => exact keepsListeners_onPosition src s fun p => by split; exacts [.rfl, by split; exacts [.rfl, keepsListeners_putPos rfl rfl]]
  | posStatus => exact keepsListeners_onPosition src s fun p => .rfl
  | ecMode => exact keepsListeners_onPosition src s fun p => by split; exacts [.rfl, keepsListeners_taken s (keepsListeners_changeMode ..)]
  | ecFreeze =>
    exact keepsListeners_onPosition src s fun p => by split; exacts [.rfl, keepsListeners_taken s (keepsListeners_putCanceller ..)]
  | search => exact keepsListeners_search src b s
  | windowSet => exact keepsListeners_onPosition src s fun p => by split; exacts [.rfl, keepsListeners_putCanceller ..]
  | ecStatus => exact keepsListeners_onPosition src s fun p => .rfl
  | play => exact keepsListeners_play src b s
  | stop => exact keepsListeners_stop src b s
  | playerStatus => exact keepsListeners_onPosition src s fun p => .of_eq rfl rfl
  | toneStart => exact keepsListeners_toneStart src b s
  | toneStop => exact keepsListeners_onPosition src s fun p => (keepsListeners_tone p _ s).trans (keepsListeners_spendDraw _)
  | clipAlloc => exact halloc
  | clipWrite => exact hwrite
  | clipEnd => exact hend
  | clipFree => exact hfree
  | clipInfo => exact hinfo
  | storeCompact => exact keepsListeners_storeCompact src s
  | expandLoad => exact keepsListeners_onDevice src s (.of_eq rfl rfl)
  | streamOpen => exact keepsListeners_streamOpen src b s
  | streamFill => exact keepsListeners_streamFill src b s
  | streamStart => exact keepsListeners_streamRun src b s (fun _ _ => by simp [startedStream]) fun _ => rfl
  | streamStop => exact keepsListeners_streamRun src b s (fun _ => haltedStream_state) haltedStream_listeners
  | streamClose => exact keepsListeners_streamClose src b s
  | streamStatus => exact keepsListeners_onDevice src s (keepsListeners_onStream s _ fun i => .rfl)

end

/-! ## The link (R174 to R177, R180) -/

theorem keepsListeners_putLink (s t : State) (l : Link) (h : KeepsListeners s t) : KeepsListeners s (putLink t l) :=
  h.trans (.of_eq rfl rfl)

theorem keepsListeners_writeFrame (f : Frame) (s : State) : KeepsListeners s (writeFrame f s) :=
  writeFrame_keeps (P := KeepsListeners s) (keepsListeners_putLink s) (fun c src b t ht => ht.trans (keepsListeners_perform src b t c))
    f s .rfl

theorem keepsListeners_readTransaction (e : ReadEvent) (s : State) : KeepsListeners s (readTransaction e s) :=
  readTransaction_keeps (P := KeepsListeners s) (keepsListeners_putLink s)
    (fun c src b t ht => ht.trans (keepsListeners_perform src b t c)) e s .rfl

theorem keepsListeners_frameFault (s : State) : KeepsListeners s (frameFault s) :=
  linkEvent_keeps (P := KeepsListeners s) (keepsListeners_putLink s) _ _ _ .rfl

/-! ## The slice of a position and the slice period (R15, R24) -/

section
variable (p : PosIx) (s : State)

theorem keepsListeners_sliceAct (x : SliceAct) (t : State) : KeepsListeners t (sliceAct p s x t) := by
  cases x with
  | players => exact (keepsListeners_raiseAll _ t).trans (keepsListeners_whisperCheck ..)
  | level | tone | echo => exact keepsListeners_raiseAll _ t

theorem keepsListeners_positionSlice : KeepsListeners s (positionSlice p s) := by
  refine .ite ?_ .rfl
  rw [processSlice_eq]
  refine inFreeOrder_keeps (P := KeepsListeners s) _ _ ⟨(counts_judgedSlice p s).2⟩ ?_ fun t ht => ht.trans (keepsListeners_spendDraw t)
  intro act ha t ht
  obtain ⟨x, -, rfl⟩ := List.mem_map.1 ha
  exact ht.trans (keepsListeners_sliceAct p s x t)

theorem keepsListeners_finishSlices : KeepsListeners s (finishSlices s) :=
  KeepsListeners.trans
    (foldl_keeps (P := KeepsListeners s) (fun t p ht => ht.trans (keepsListeners_positionSlice p t)) (dueOrder s) s .rfl)
    (keepsListeners_spendDraw _)

theorem keepsListeners_endPeriod : KeepsListeners s (endPeriod s) := by
  refine .ite ?_ .rfl
  refine inFreeOrder_keeps (P := KeepsListeners s) _ _ (keepsListeners_finishSlices s) ?_ fun t ht =>
    ht.trans (keepsListeners_spendDraw t)
  intro act ha t ht
  simp only [List.mem_cons, List.not_mem_nil, or_false] at ha
  obtain rfl | rfl := ha
  · exact ht.trans (.of_portless (portless_handEarpiece t))
  · exact ht.trans (keepsListeners_finishMove t)

theorem keepsListeners_beginPeriod (netIn posIn : AudioBlock) (group : Option AudioBlock) :
    KeepsListeners s (beginPeriod netIn posIn group s) := by
  have hstarted : KeepsListeners s (putPeriod (putPorts s (clearedOutputs s.ports)) (startedPeriod netIn s.ports)) := .of_eq rfl rfl
  have hdue : ∀ x : State, KeepsListeners x (dueSlices x) := fun x => .of_same (fun p => by rw [getPos_dueSlices]; rfl) rfl
  refine inFreeOrder_keeps (P := KeepsListeners s) _ _ (hstarted.trans (hdue _)) ?_ fun t ht => ht.trans (keepsListeners_spendDraw t)
  intro act ha t ht
  have hfix : ∀ i, KeepsListeners s (fixOne i t) := fun i => ht.trans (keepsListeners_fixOne i t)
  simp only [List.mem_cons, List.not_mem_nil, or_false] at ha
  obtain rfl | rfl | rfl | rfl | rfl | rfl := ha
  · exact ht.trans (.of_portless (portless_receiveMic t posIn group))
  · exact hfix 0
  · exact hfix 1
  · exact hfix 2
  · exact hfix 3
  · exact ht.trans (keepsListeners_compactPeriod t)

theorem keepsListeners_slicePeriod (netIn posIn : AudioBlock) (group : Option AudioBlock) :
    KeepsListeners s (slicePeriod netIn posIn group s) := by
  have hgroup : KeepsListeners s (groupBefore group s) := .of_portless (portless_groupBefore s group)
  exact .ite .rfl ((hgroup.trans (keepsListeners_endPeriod _)).trans (keepsListeners_beginPeriod ..))

/-! ## The events -/

theorem keepsListeners_putSuppressor (x : Suppressor) : KeepsListeners s (putSuppressor s p x) := keepsListeners_putPos rfl rfl

theorem keepsListeners_cancellerEvent (ev : EchoEvent) (c : Canceller) : KeepsListeners s (cancellerEvent p ev c s) :=
  (keepsListeners_putCanceller ..).trans (keepsListeners_raise ..)

/-- A canceller that asks for a search (R67, R68). -/
theorem keepsListeners_asking (c : Canceller) (q : SearchRequest) : KeepsListeners s (placeRequest p q (putCanceller s p c)).1 :=
  (keepsListeners_putCanceller ..).trans (keepsListeners_placeRequest ..)

theorem keepsListeners_endInFlight (due : InFlight → Bool) {finish : InFlight → State → State × ReportBody}
    (hf : ∀ f, KeepsListeners s (finish f s).1) : KeepsListeners s (endInFlight due finish s) := by
  unfold endInFlight
  split
  · exact .rfl
  · exact .ite ((hf _).trans (keepsListeners_raise ..)) .rfl

theorem keepsListeners_endPass (w : PlayerId) : KeepsListeners s (endPass p w s) := by
  unfold endPass
  split
  · exact .rfl
  · rename_i it hc
    dsimp only
    split
    · rename_i hd
      obtain ⟨c, hs⟩ := clip_of_atLastSample (Bool.and_eq_true_iff.mp hd).2
      have hrun := runCounts_passEnds (r := beginRun (getPlayer s p w)) (runCounts_beginRun _) hc hs
      exact ((keepsListeners_settleRun hrun).trans (keepsListeners_raiseAll ..)).trans (keepsListeners_whisperCheck ..)
    · exact .rfl

end

/-! ## Every step -/

theorem keepsListeners_exec (i : Instr) {s t : State} (he : exec i s = .next t) : KeepsListeners s t := by
  cases i with
  | powerOn | resetPin => cases he; exact keepsListeners_allReset rfl rfl
  | frameError len followed => cases he; exact .ite (keepsListeners_frameFault s) .rfl
  | read e => cases he; exact keepsListeners_readTransaction e s
  | frameArrival | linkClear | badKind | resetDevice | resetPosition | sleep | wake | portSet | portStatus | setParam | getParam
  | posOpen | posClose | callOffer | callConnect | callHold | callClear | mute | posStatus | ecMode | ecFreeze | search | windowSet
  | ecStatus | playNow | playInterrupt | playNext | playOnly | stopCurrent | stopAll | playerStatus | toneStart | toneStop | clipAlloc
  | clipWrite | clipEnd | clipFree | clipInfo | storeCompact | expandLoad | streamOpen | streamFill | streamStart | streamStop
  | streamClose | streamStatus => cases he; exact keepsListeners_writeFrame _ s
  | slicePeriod netIn posIn group => cases he; exact keepsListeners_slicePeriod s netIn posIn group
  | positionSlice p => cases he; exact keepsListeners_positionSlice p s
  | floorTrackerRise p which level =>
    cases he
    cases which with
    | microphone => exact .ite (keepsListeners_putSuppressor p s _) .rfl
    | callerPath => exact .ite (keepsListeners_putCanceller ..) .rfl
  | vadHangoverExpiry p ratio => cases he; exact .ite (keepsListeners_putSuppressor p s _) .rfl
  | boostRefresh p => cases he; exact .ite ((keepsListeners_putSuppressor p s _).trans (keepsListeners_raiseAll ..)) .rfl
  | doubleTalkHangoverExpiry p ymax xmax => cases he; exact .ite (keepsListeners_putCanceller ..) .rfl
  | converged p => cases he; exact .ite (keepsListeners_cancellerEvent ..) .rfl
  | diverged p estimateLevel returnLevel => cases he; exact .ite (keepsListeners_cancellerEvent ..) .rfl
  | lossOfErle p => cases he; exact .ite (.ite (keepsListeners_asking ..) (keepsListeners_putCanceller ..)) .rfl
  | researchPeriodExpiry p => cases he; exact .ite (keepsListeners_asking ..) .rfl
  | searchStart => cases he; exact keepsListeners_startHead s
  | searchCompletes => cases he; exact keepsListeners_endInFlight s _ fun f => keepsListeners_endSearch _ _ f s
  | timedOut => cases he; exact keepsListeners_endInFlight s _ fun f => keepsListeners_endSearch _ _ f s
  | passEnd p which => cases he; exact keepsListeners_endPass p s which
  | burstComplete p => cases he; exact .ite ((keepsListeners_tone p _ s).trans (keepsListeners_raiseAll ..)) .rfl
  | newCycle p => cases he; exact .ite (keepsListeners_tone p _ s) .rfl
  | halfEmpty k => cases he; exact keepsListeners_emptyHalfOf k s
  | turn => cases he; exact .ite (keepsListeners_of_storeless s (storeless_takeTurn s) (takeTurn_streams s)) .rfl
  | moveCompletes => cases he; exact keepsListeners_finishMove s
  | frameSync port distance => cases he; exact .ite (.of_portless (portless_takeSync s port distance)) .rfl
  | missingSync port => cases he; exact .ite (.of_portless (portless_missSync s port)) .rfl
  | positionPortGroup x => cases he; exact .of_portless (portless_completeGroup s x)

/-- Settles O15: each command's, each slice's and each event's part keeps the listener counts, and a close leaves no item that names
its stream. -/
theorem stepKeepsTheListenerCounts : Obligations.StepKeepsTheListenerCounts := by
  unfold Obligations.StepKeepsTheListenerCounts
  intro s t h hs
  rw [step] at hs
  split at hs
  · cases hs
    exact h
  · rename_i c rest _
    have hrest : KeepsListeners s { s with pending := rest } := .of_eq rfl rfl
    exact (keepsListeners_exec c hs).ok (hrest.ok h)

end Sys2Proof.Machine

/-! # A stream's record (R142, R143, R148 to R151) -/

namespace Sys2Proof.Machine

/-! ## The invariant, part by part -/

/-- What filling and playing leave of a record: its state, what STREAM-OPEN fixed (R145), and the slice of the period (R148). -/
def settingOf (r : Stream) : StreamState × Format × Nat × Nat × List StreamValue :=
  (r.state, r.format, r.halfSize, r.pageCount, r.slice)

/-- The CLOSED values of a CLOSED stream, and the sizes of another (R142, R145, Table 8-1). -/
def RecordOk (r : Stream) : Prop :=
  (r.state = .closed → r = { closedStream with listeners := r.listeners, slice := r.slice, sounding := r.sounding }) ∧
    (r.state ≠ .closed →
      256 ≤ r.halfSize ∧ r.halfSize ≤ 16384 ∧ r.format ≠ .pack12 ∧ r.pageCount = ringPages r.format r.halfSize)

/-- A half of a given size holds and plays no more than that, and nothing when EMPTY (R143). -/
structure HalfOk (n : Nat) (x : Half) : Prop where
  fill : x.fill ≤ n
  valid : x.valid ≤ n
  empty : x.state = .empty → x.fill = 0 ∧ x.valid = 0

/-- The halves and the read position fit each other (R143, R149 to R151). -/
structure PlaybackOk (r : Stream) : Prop where
  there : PlaysThere r
  halves : ∀ h, HalfOk r.halfSize (halfOf r h)
  playing : (halfOf r r.readHalf).state = .playing → r.readOffset < (halfOf r r.readHalf).valid ∧ r.underrun = false
  resting : (halfOf r r.readHalf).state ≠ .playing → r.readOffset = 0

section
variable {r t : Stream} {h : Fin 2} {x : Half} {n : Nat}

theorem streamOk_iff : StreamOk r ↔ RecordOk r ∧ PlaybackOk r ∧ r.slice.length = 64 := by
  constructor
  · rintro ⟨hclosed, hopen, hthere, hsizes, hempty, hplaying, hresting, hslice⟩
    exact ⟨⟨hclosed, hopen⟩, ⟨hthere, fun h => ⟨(hsizes h).1, (hsizes h).2, hempty h⟩, hplaying, hresting⟩, hslice⟩
  · rintro ⟨⟨hclosed, hopen⟩, ⟨hthere, hhalves, hplaying, hresting⟩, hslice⟩
    exact ⟨hclosed, hopen, hthere, fun h => ⟨(hhalves h).fill, (hhalves h).valid⟩, fun h => (hhalves h).empty, hplaying, hresting,
      hslice⟩

theorem settingOf_withHalf (r : Stream) (h : Fin 2) (x : Half) : settingOf (withHalf r h x) = settingOf r := by
  unfold withHalf; split <;> rfl

theorem halfSize_of_settingOf (he : settingOf t = settingOf r) : t.halfSize = r.halfSize := congrArg (fun x => x.2.2.1) he

@[simp] theorem withHalf_halfSize (r : Stream) (h : Fin 2) (x : Half) : (withHalf r h x).halfSize = r.halfSize :=
  halfSize_of_settingOf (settingOf_withHalf r h x)

@[simp] theorem withHalf_readHalf (r : Stream) (h : Fin 2) (x : Half) : (withHalf r h x).readHalf = r.readHalf := by
  unfold withHalf; split <;> rfl

@[simp] theorem withHalf_readOffset (r : Stream) (h : Fin 2) (x : Half) : (withHalf r h x).readOffset = r.readOffset := by
  unfold withHalf; split <;> rfl

@[simp] theorem withHalf_underrun (r : Stream) (h : Fin 2) (x : Half) : (withHalf r h x).underrun = r.underrun := by
  unfold withHalf; split <;> rfl

theorem halfOk_empty (n : Nat) : HalfOk n ⟨.empty, 0, 0⟩ := ⟨Nat.zero_le n, Nat.zero_le n, fun _ => ⟨rfl, rfl⟩⟩

/-- The halves after a change of one of them. -/
theorem halves_withHalf (hr : ∀ i, HalfOk n (halfOf r i)) (hx : HalfOk n x) (i : Fin 2) : HalfOk n (halfOf (withHalf r h x) i) := by
  rw [halfOf_withHalf]
  split
  · exact hx
  · exact hr i

/-- With no half PLAYING the read position rests at offset 0. -/
theorem PlaybackOk.of_none (hn : PlaysNone r) (hh : ∀ h, HalfOk r.halfSize (halfOf r h)) (ho : r.readOffset = 0) : PlaybackOk r :=
  ⟨fun h hp => absurd hp (hn h), hh, fun hp => absurd hp (hn _), fun _ => ho⟩

/-- The half of the read position plays from its first sample on (R149). -/
theorem PlaybackOk.entered (hn : PlaysNone r) (hh : ∀ h, HalfOk r.halfSize (halfOf r h)) (hx : HalfOk r.halfSize x) (hv : 0 < x.valid) :
    PlaybackOk { withHalf r r.readHalf x with readOffset := 0, underrun := false } := by
  have hhalf : ∀ i, halfOf { withHalf r r.readHalf x with readOffset := 0, underrun := false } i =
      if i = r.readHalf then x else halfOf r i := halfOf_withHalf r r.readHalf (x := x)
  refine ⟨fun i hi => ?_, fun i => ?_, fun _ => ⟨?_, rfl⟩, fun _ => rfl⟩
  · by_contra hne
    rw [hhalf, if_neg fun he => hne (he.trans (withHalf_readHalf ..).symm)] at hi
    exact hn i hi
  · rw [withHalf_halfSize]
    exact halves_withHalf hh hx i
  · rw [hhalf, if_pos (withHalf_readHalf ..)]
    exact hv

/-- A half that is not PLAYING gives way to another that is not (R146). -/
theorem PlaybackOk.withHalf (hp : PlaybackOk r) (hs : (halfOf r h).state ≠ .playing) (hx : HalfOk r.halfSize x)
    (hxs : x.state ≠ .playing) : PlaybackOk (withHalf r h x) := by
  have hplays : ∀ i, (halfOf (Machine.withHalf r h x) i).state = .playing → i ≠ h ∧ (halfOf r i).state = .playing := by
    intro i hi
    rw [halfOf_withHalf] at hi
    split at hi
    · exact absurd hi hxs
    · exact ⟨‹_›, hi⟩
  refine ⟨fun i hi => ?_, fun i => ?_, fun hi => ?_, fun hi => ?_⟩
  · rw [withHalf_readHalf]
    exact hp.there i (hplays i hi).2
  · rw [withHalf_halfSize]
    exact halves_withHalf hp.halves hx i
  · obtain ⟨hne, hplay⟩ := hplays _ hi
    rw [withHalf_readHalf] at hne hplay ⊢
    rw [halfOf_withHalf, if_neg hne, withHalf_readOffset, withHalf_underrun]
    exact hp.playing hplay
  · rw [withHalf_readOffset]
    refine hp.resting fun hplay => hi ?_
    rw [withHalf_readHalf, halfOf_withHalf, if_neg fun he : r.readHalf = h => hs (he ▸ hplay)]
    exact hplay

/-- A record with other values in the fields that playback does not speak of. -/
theorem PlaybackOk.of_fields (hp : PlaybackOk r) {s : StreamState} {sl : List StreamValue} {b : Bool} :
    PlaybackOk { r with state := s, slice := sl, sounding := b } := ⟨hp.there, hp.halves, hp.playing, hp.resting⟩

theorem StreamOk.playback (hr : StreamOk r) : PlaybackOk r := (streamOk_iff.mp hr).2.1

/-- A stream that is not CLOSED keeps its sizes while it is filled and played. -/
theorem StreamOk.played (hr : StreamOk r) (ho : r.state ≠ .closed) (he : settingOf t = settingOf r) (hp : PlaybackOk t) : StreamOk t := by
  obtain ⟨⟨-, hopen⟩, -, hslice⟩ := streamOk_iff.mp hr
  simp only [settingOf, Prod.mk.injEq] at he
  obtain ⟨hs, hf, hn, hpages, hsl⟩ := he
  refine streamOk_iff.mpr ⟨⟨fun hc => absurd (hs.symm.trans hc) ho, fun _ => ?_⟩, hp, hsl ▸ hslice⟩
  rw [hf, hn, hpages]
  exact hopen ho

/-- A record with a slice fixed for the period (R148). -/
theorem StreamOk.fixed (hr : StreamOk r) {sl : List StreamValue} (hl : sl.length = 64) (b : Bool) :
    StreamOk { r with slice := sl, sounding := b } := by
  obtain ⟨⟨hclosed, hopen⟩, hplay, -⟩ := streamOk_iff.mp hr
  have hrecord : RecordOk { r with slice := sl, sounding := b } :=
    ⟨fun hc => congrArg (fun q : Stream => { q with slice := sl, sounding := b }) (hclosed hc), hopen⟩
  exact streamOk_iff.mpr ⟨hrecord, hplay.of_fields, hl⟩

/-- No half is PLAYING, where that of the read position is not. -/
theorem PlaybackOk.playsNone (hp : PlaybackOk r) (hs : (halfOf r r.readHalf).state ≠ .playing) : PlaysNone r :=
  fun h hh => hs (hp.there h hh ▸ hh)

/-! ## An entry attempt (R149) -/

theorem settingOf_leftHalf (r : Stream) : settingOf (leftHalf r) = settingOf r := settingOf_withHalf r r.readHalf _

theorem halves_leftHalf (hr : ∀ i, HalfOk r.halfSize (halfOf r i)) (i : Fin 2) :
    HalfOk (leftHalf r).halfSize (halfOf (leftHalf r) i) := by
  rw [halfSize_of_settingOf (settingOf_leftHalf r)]
  exact halves_withHalf hr (halfOk_empty _) i

theorem EntryAttempt.settingOf_eq {ev : List (StreamEvent × Fin 2)} (he : EntryAttempt r ev t) : settingOf t = settingOf r := by
  induction he with
  | enters r hs hv => exact settingOf_withHalf r r.readHalf _
  | passes r t more hs hv _ ih => exact ih.trans (settingOf_leftHalf r)
  | waits r hs => rfl

/-- An entry attempt on halves of which none is PLAYING leaves the read position on a half that is, or at rest. -/
theorem EntryAttempt.playback {ev : List (StreamEvent × Fin 2)} (he : EntryAttempt r ev t) (hn : PlaysNone r)
    (hh : ∀ h, HalfOk r.halfSize (halfOf r h)) : PlaybackOk t := by
  induction he with
  | enters r hs hv => exact .entered hn hh ⟨(hh _).fill, (hh _).valid, nofun⟩ hv
  | passes r t more hs hv _ ih => exact ih (playsNone_leftHalf fun h hp => absurd hp (hn h)) (halves_leftHalf hh)
  | waits r hs => exact .of_none hn hh rfl

/-! ## A fixing (R148 to R151) -/

/-- An entry attempt of a fixing, from halves of which none is PLAYING. -/
theorem enterHalf_keeps {y : FixRun} (hn : PlaysNone y.stream) (hh : ∀ h, HalfOk y.stream.halfSize (halfOf y.stream h)) :
    PlaybackOk (enterHalf 3 y).stream ∧ settingOf (enterHalf 3 y).stream = settingOf y.stream := by
  obtain ⟨more, he, -, -⟩ := enterHalf_does 3 y hn (Nat.lt_succ_of_le (fullHalves_le _))
  exact ⟨he.playback hn hh, he.settingOf_eq⟩

theorem beginFixing_keeps (hp : PlaybackOk r) : PlaybackOk (beginFixing r).stream ∧ settingOf (beginFixing r).stream = settingOf r := by
  unfold beginFixing
  split
  · exact ⟨hp, rfl⟩
  · rename_i hs
    exact enterHalf_keeps (y := ⟨r, []⟩) (hp.playsNone hs) hp.halves

/-- A half played out is left, and an entry attempt follows (R149, R150). -/
theorem leaveHalf_keeps (hp : PlaybackOk r) {ev : List (StreamEvent × Fin 2)} :
    PlaybackOk (enterHalf 3 (leaveHalf ⟨{ r with readOffset := n }, ev⟩)).stream ∧
      settingOf (enterHalf 3 (leaveHalf ⟨{ r with readOffset := n }, ev⟩)).stream = settingOf r := by
  have hl : (leaveHalf ⟨{ r with readOffset := n }, ev⟩).stream = leftHalf r := leftHalf_offset r n
  have hk := enterHalf_keeps (y := leaveHalf ⟨{ r with readOffset := n }, ev⟩) (by rw [hl]; exact playsNone_leftHalf hp.there)
    (by rw [hl]; exact halves_leftHalf hp.halves)
  exact ⟨hk.1, hk.2.trans (by rw [hl, settingOf_leftHalf])⟩

theorem fixSample_keeps (m : List Host.Cell) {y : FixRun} (hp : PlaybackOk y.stream) :
    PlaybackOk (fixSample m y).2.stream ∧ settingOf (fixSample m y).2.stream = settingOf y.stream := by
  unfold fixSample
  dsimp only
  split
  · rename_i hs
    split
    · exact leaveHalf_keeps hp
    · rename_i hv
      refine ⟨⟨hp.there, hp.halves, fun _ => ⟨not_le.mp hv, (hp.playing hs).2⟩, fun hc => absurd hs hc⟩, rfl⟩
  · exact ⟨hp, rfl⟩

theorem fixSamples_keeps (m : List Host.Cell) (n : Nat) {y : FixRun} (hp : PlaybackOk y.stream) :
    PlaybackOk (fixSamples m n y).2.stream ∧ settingOf (fixSamples m n y).2.stream = settingOf y.stream := by
  induction n generalizing y with
  | zero => exact ⟨hp, rfl⟩
  | succ n ih =>
    obtain ⟨hone, hopen⟩ := fixSample_keeps m hp
    obtain ⟨hmore, hopens⟩ := ih hone
    exact ⟨hmore, hopens.trans hopen⟩

theorem length_fixSamples (m : List Host.Cell) (n : Nat) (y : FixRun) : (fixSamples m n y).1.length = n := by
  rw [fixSamples_eq, List.length_map, List.length_range]

theorem length_silentSlice : silentSlice.length = 64 := List.length_replicate

/-- A stream that fixes its slice (R148): 64 values, from a RUNNING stream or silences. -/
theorem streamOk_fixStream (m : List Host.Cell) (hr : StreamOk r) : StreamOk (fixStream m r).stream := by
  unfold fixStream
  split
  · rename_i hrun
    obtain ⟨hbegin, hset⟩ := beginFixing_keeps hr.playback
    obtain ⟨hend, hsets⟩ := fixSamples_keeps m 64 hbegin
    have hended : StreamOk (fixSamples m 64 (beginFixing r)).2.stream := hr.played (by simp [hrun]) (hsets.trans hset) hend
    exact hended.fixed (length_fixSamples m 64 _) _
  · exact hr.fixed length_silentSlice false

/-! ## The commands of a stream (R145 to R147, R152) -/

/-- A record with no sample in its halves (R145, R152). -/
theorem playbackOk_closed : PlaybackOk closedStream := streamOk_closed.playback

/-- A stream as STREAM-CLOSE leaves it, with the slice already fixed (R148, R152). -/
theorem streamOk_closedNow (hr : StreamOk r) : StreamOk (keepSlice r closedStream) :=
  streamOk_iff.mpr ⟨⟨fun _ => rfl, fun hc => absurd rfl hc⟩, playbackOk_closed.of_fields (s := .closed), (streamOk_iff.mp hr).2.2⟩

/-- A stream as STREAM-OPEN leaves it, with the slice already fixed (R145, R148). -/
theorem streamOk_openedNow (hr : StreamOk r) {f : Format} {size page : Nat} (hf : f ≠ .pack12) (h1 : 256 ≤ size) (h2 : size ≤ 16384) :
    StreamOk (keepSlice r (openedStream f size page)) := by
  have hhalf : ∀ h, halfOf (keepSlice r (openedStream f size page)) h = ⟨.empty, 0, 0⟩ := fun h => by unfold halfOf; split <;> rfl
  refine streamOk_iff.mpr ⟨⟨fun hc => (nomatch hc), fun _ => ⟨h1, h2, hf, rfl⟩⟩, .of_none (fun h => ?_) (fun h => ?_) rfl,
    (streamOk_iff.mp hr).2.2⟩
  · rw [hhalf]
    nofun
  · rw [hhalf]
    exact halfOk_empty _

/-- A stream that is not CLOSED, in another such state (R147). -/
theorem streamOk_state (hr : StreamOk r) (ho : r.state ≠ .closed) {st : StreamState} (hst : st ≠ .closed) :
    StreamOk { r with state := st } := by
  obtain ⟨hrecord, hplay, hslice⟩ := streamOk_iff.mp hr
  exact streamOk_iff.mpr ⟨⟨fun hc => absurd hc hst, fun _ => hrecord.2 ho⟩, hplay.of_fields (s := st), hslice⟩

theorem streamOk_startedStream (hr : StreamOk r) (ho : r.state ≠ .closed) : StreamOk (startedStream r) :=
  streamOk_state hr ho (by simp)

theorem streamOk_haltedStream (hr : StreamOk r) (ho : r.state ≠ .closed) : StreamOk (haltedStream r) := by
  unfold haltedStream
  split
  · exact streamOk_state hr ho (by simp)
  · exact hr

/-- A half that takes samples is FILLING or FULL then, and holds no more than its size (R143, R146). -/
theorem streamOk_filled (hr : StreamOk r) (ho : r.state ≠ .closed) (hs : (halfOf r h).state ≠ .playing) (last : Bool) :
    StreamOk (withHalf r h ⟨if last then .full else .filling, (halfOf r h).fill + min n (r.halfSize - (halfOf r h).fill),
      if last then (halfOf r h).fill + min n (r.halfSize - (halfOf r h).fill) else (halfOf r h).valid⟩) := by
  obtain ⟨hfill, hvalid, -⟩ := hr.playback.halves h
  refine hr.played ho (settingOf_withHalf ..) (hr.playback.withHalf hs ⟨?_, ?_, fun he => ?_⟩ ?_)
  · dsimp only
    omega
  · dsimp only
    split
    · omega
    · exact hvalid
  · cases last <;> nomatch he
  · cases last <;> nofun

end

end Sys2Proof.Machine

/-! # What the commands and the events of a position leave (R4 to R13, R76 to R89, R124 to R140, R157 to R161)

They change the positions, the engine, the counts of what the items name, and what is reported: `sliceless` leaves these out. -/

namespace Sys2Proof.Machine

section
variable {s t : State} {p : PosIx} {w : PlayerId}

/-! ## One position and the engine -/

theorem sliceless_ite {c : Prop} [Decidable c] (h : sliceless t = sliceless s) : sliceless (if c then t else s) = sliceless s := by
  split
  · exact h
  · rfl

@[simp] theorem sliceless_setCall (p : PosIx) (c : CallState) (s : State) : sliceless (setCall p c s) = sliceless s := rfl
@[simp] theorem sliceless_putCanceller (p : PosIx) (c : Canceller) (s : State) : sliceless (putCanceller s p c) = sliceless s := rfl
@[simp] theorem sliceless_putSuppressor (p : PosIx) (x : Suppressor) (s : State) : sliceless (putSuppressor s p x) = sliceless s := rfl
@[simp] theorem sliceless_putTone (p : PosIx) (x : Tone) (s : State) : sliceless (putTone s p x) = sliceless s := rfl

@[simp] theorem sliceless_startHead (s : State) : sliceless (startHead s) = sliceless s := by rw [startHead_eq, sliceless_putEngine]

@[simp] theorem sliceless_cancelSearches (p : PosIx) (s : State) : sliceless (cancelSearches p s) = sliceless s := by
  unfold cancelSearches
  split
  · rfl
  · rw [sliceless_startHead, sliceless_raise, keepOutcome, sliceless_putPos, dropSearches_eq, sliceless_putEngine]

@[simp] theorem sliceless_changeMode (m : CancellerMode) (p : PosIx) (s : State) : sliceless (changeMode m p s) = sliceless s := by
  unfold changeMode
  dsimp only
  split
  · rfl
  · split
    · rw [sliceless_cancelSearches, sliceless_putCanceller]
    · rfl

@[simp] theorem sliceless_cancellerEvent (p : PosIx) (ev : EchoEvent) (c : Canceller) (s : State) :
    sliceless (cancellerEvent p ev c s) = sliceless s := by rw [cancellerEvent, sliceless_raise, sliceless_putCanceller]

theorem sliceless_endInFlight (due : InFlight → Bool) {finish : InFlight → State → State × ReportBody}
    (h : ∀ f, sliceless (finish f s).1 = sliceless s) : sliceless (endInFlight due finish s) = sliceless s := by
  unfold endInFlight
  split
  · rfl
  · exact sliceless_ite ((sliceless_raise ..).trans (h _))

@[simp] theorem sliceless_clearTone (p : PosIx) (s : State) : sliceless (clearTone p s) = sliceless s :=
  sliceless_ite (by rw [sliceless_raise, sliceless_putPos])

@[simp] theorem sliceless_clearCallTone (p : PosIx) (s : State) : sliceless (clearCallTone p s) = sliceless s :=
  sliceless_ite (sliceless_clearTone p s)

/-! ## Players (R127 to R130, R136 to R138) -/

/-- An operation on a player leaves all but the positions and the counts of what its items name. -/
theorem sliceless_of_player {pl : Player} (h : bare t = bare (putPlayer s p w pl)) : sliceless t = sliceless s :=
  (sliceless_of_bare h).trans (sliceless_putPlayer ..)

@[simp] theorem sliceless_endCurrent (p : PosIx) (w : PlayerId) (reason : LeaveReason) (s : State) :
    sliceless (endCurrent p w reason s) = sliceless s := by
  rw [sliceless_of_bare (bare_endCurrent p w reason s)]
  exact sliceless_ite (sliceless_putPlayer ..)

@[simp] theorem sliceless_playOnlyItem (p : PosIx) (w : PlayerId) (it : Item) (s : State) :
    sliceless (playOnlyItem p w it s) = sliceless s := sliceless_of_player (bare_playOnlyItem p w it s)

@[simp] theorem sliceless_playItem (p : PosIx) (w : PlayerId) (m : PlayMode) (it : Item) (s : State) :
    sliceless (playItem p w m it s) = sliceless s := by
  cases m with
  | now => exact sliceless_of_player (bare_playNowItem p w it s)
  | interrupt => exact sliceless_of_player (bare_playInterruptItem p w it s)
  | next => exact sliceless_of_player (bare_playNextItem p w it s)
  | only => exact sliceless_playOnlyItem p w it s

theorem sliceless_endPass (p : PosIx) (w : PlayerId) (s : State) : sliceless (endPass p w s) = sliceless s := by
  unfold endPass
  split
  · rfl
  · exact sliceless_ite (by rw [sliceless_whisperCheck, sliceless_raiseAll, sliceless_of_player (bare_settleRun ..)])

/-! ## Calls and teardowns (R5 to R11, R20) -/

@[simp] theorem sliceless_clearCall (p : PosIx) (s : State) : sliceless (clearCall p s) = sliceless s := by
  simp only [clearCall, sliceless_cancelSearches, sliceless_putCanceller, sliceless_clearCallTone, sliceless_clearPlayer, sliceless_setCall]

@[simp] theorem sliceless_closeIfOpen (p : PosIx) (s : State) : sliceless (closeIfOpen p s) = sliceless s := by
  have hended : sliceless (endIfCalled p s) = sliceless s := sliceless_ite (sliceless_clearCall p s)
  unfold closeIfOpen
  split
  · rfl
  · rw [closePosition_eq, sliceless_putPos, sliceless_clearTone, sliceless_clearPlayer, sliceless_setCall, hended]

@[simp] theorem sliceless_resetPosition (p : PosIx) (s : State) : sliceless (resetPosition p s) = sliceless s := by
  simp only [resetPosition, sliceless_putPos, sliceless_closeIfOpen, sliceless_putCanceller]

@[simp] theorem sliceless_takeOffer (p : PosIx) (a b : Option Item) (hint : Option Nat) (s : State) :
    sliceless (takeOffer p a b hint s) = sliceless s := by
  have hwhisper : ∀ x, sliceless (startWhisper p a x) = sliceless x := fun x => by
    cases a with
    | none => rfl
    | some it => rw [startWhisper, sliceless_playOnlyItem, sliceless_putPos]
  have hnet : ∀ x, sliceless (startNetItem p b x) = sliceless x := fun x => by
    cases b with
    | none => rfl
    | some it => exact sliceless_playOnlyItem ..
  have hprepared : ∀ x, sliceless (prepareCall p hint x) = sliceless x := fun x => by
    unfold prepareCall
    dsimp only
    split
    · rw [sliceless_placeRequest, sliceless_putCanceller]
    · rfl
  rw [takeOffer, hprepared, hnet, hwhisper, sliceless_setCall]

/-! ## The close of a stream up to its record (R138, R152) -/

theorem sliceless_streamLeft (i : StreamIx) (s : State) : sliceless (streamLeft i s) = sliceless s := by
  have hgiven : sliceless (streamGiven i s) = sliceless s :=
    foldl_keeps (P := fun t => sliceless t = sliceless s)
      (fun t x ht => (sliceless_of_player (bare_giveUpStream i x.1 x.2 t)).trans ht) _ _ rfl
  exact foldl_keeps (P := fun t => sliceless t = sliceless s)
    (fun t x ht => (sliceless_ite (sliceless_whisperCheck ..)).trans ht) _ _ hgiven

end

/-! ## The commands of a position -/

section
variable (src : Nat) (b : List Byte) (s : State)

theorem sliceless_onPosition {act : PosIx → Answer} (h : ∀ p, sliceless (act p).1 = sliceless s) :
    sliceless (onPosition s src act).1 = sliceless s := onPosition_keeps (P := fun t => sliceless t = sliceless s) src rfl h

theorem sliceless_callCommands :
    sliceless (callOfferCommand src b s).1 = sliceless s ∧ sliceless (callConnectCommand src s).1 = sliceless s ∧
    sliceless (callHoldCommand src b s).1 = sliceless s ∧ sliceless (callClearCommand src s).1 = sliceless s ∧
    sliceless (posCloseCommand src s).1 = sliceless s := by
  refine ⟨?_, ?_, ?_, ?_, ?_⟩ <;> refine sliceless_onPosition src s fun p => ?_
  · (repeat' split) <;> simp [refuse]
  · split <;> simp [refuse, taken, sliceless_clearPlayer]
  · (repeat' split) <;> simp [refuse, taken]
  · split <;> simp [refuse, taken]
  · simp [taken]

theorem sliceless_playerCommands :
    sliceless (playCommand src b s).1 = sliceless s ∧ sliceless (stopCommand src b s).1 = sliceless s ∧
    sliceless (playerStatusCommand src s).1 = sliceless s := by
  refine ⟨?_, ?_, ?_⟩ <;> refine sliceless_onPosition src s fun p => ?_
  · split
    · split
      · rfl
      · split
        · rfl
        · dsimp only
          split
          · rfl
          · exact sliceless_playItem ..
    · rfl
  · split <;> simp [refuse, withWhisper, sliceless_whisperCheck, sliceless_clearPlayer]
  · rfl

theorem sliceless_unitCommands :
    sliceless (posOpenCommand src s).1 = sliceless s ∧ sliceless (muteCommand src b s).1 = sliceless s ∧
    sliceless (ecModeCommand src b s).1 = sliceless s ∧ sliceless (ecFreezeCommand src b s).1 = sliceless s ∧
    sliceless (searchCommand src b s).1 = sliceless s ∧ sliceless (windowSetCommand src b s).1 = sliceless s ∧
    sliceless (toneStartCommand src b s).1 = sliceless s ∧ sliceless (toneStopCommand src s).1 = sliceless s := by
  refine ⟨?_, ?_, ?_, ?_, ?_, ?_, ?_, ?_⟩ <;> refine sliceless_onPosition src s fun p => ?_
  · split <;> rfl
  · (repeat' split) <;> rfl
  · split <;> simp [refuse, taken]
  · split <;> rfl
  · (repeat' split) <;> simp [refuse]
  · split <;> rfl
  · (repeat' split) <;> rfl
  · rfl

/-- Every command of a position leaves the device alone (R3, R76, R87, R125, R136, R140, R157, R161). -/
theorem sliceless_perform {c : Command} (h : c ∈ positionCommands) : sliceless (perform c src b s).1 = sliceless s := by
  obtain ⟨hoffer, hconnect, hhold, hclear, hclose⟩ := sliceless_callCommands src b s
  obtain ⟨hplay, hstop, hplayer⟩ := sliceless_playerCommands src b s
  obtain ⟨hopen, hmute, hmode, hfreeze, hsearch, hwindow, htone, htoneStop⟩ := sliceless_unitCommands src b s
  have hquery : ∀ f : PosIx → Result × List Field, sliceless (onPosition s src fun p => (s, f p)).1 = sliceless s :=
    fun f => sliceless_onPosition src s fun p => rfl
  simp only [positionCommands, List.mem_cons, List.not_mem_nil, or_false] at h
  obtain rfl | rfl | rfl | rfl | rfl | rfl | rfl | rfl | rfl | rfl | rfl | rfl | rfl | rfl | rfl | rfl | rfl | rfl := h
  exacts [hopen, hclose, hoffer, hconnect, hhold, hclear, hmute, hquery _, hmode, hfreeze, hsearch, hwindow, hquery _, hplay, hstop,
    hplayer, htone, htoneStop]

end

end Sys2Proof.Machine

/-! # Every step keeps the streams in order (R142, R143, R145 to R152) -/

namespace Sys2Proof.Machine

/-- Every stream record keeps Table 8-1. -/
def StreamsHold (s : State) : Prop := ∀ i, StreamOk (getStream s i)

section
variable {s t : State} {i : StreamIx}

/-! ## What leaves the records -/

theorem StreamsHold.of_streams (h : StreamsHold s) (e : t.streams = s.streams) : StreamsHold t := fun i => by
  rw [getStream, e]
  exact h i

/-- The listener counts are no part of the invariant. -/
theorem StreamsHold.of_sliceless (h : StreamsHold s) (e : sliceless t = sliceless s) : StreamsHold t :=
  fun i => streamOk_of_listeners (h i) (streams_of_sliceless e i)

theorem StreamsHold.of_portless (h : StreamsHold s) (e : portless t = portless s) : StreamsHold t := h.of_streams (streams_of_portless e)

theorem StreamsHold.ite {c : Prop} [Decidable c] (ht : StreamsHold t) (hs : StreamsHold s) : StreamsHold (if c then t else s) := by
  split
  · exact ht
  · exact hs

theorem streamsHold_reset (e : t.streams = streamsAtReset) : StreamsHold t :=
  StreamsHold.of_streams (s := State.reset) (fun i => getStream_reset i ▸ streamOk_closed) e

/-! ## One record -/

theorem StreamsHold.putStream (h : StreamsHold s) {r : Stream} (hr : StreamOk r) : StreamsHold (putStream s i r) := fun j => by
  rw [getStream_putStream]
  split
  · exact hr
  · exact h j

theorem streamsHold_fixOne (h : StreamsHold s) (i : StreamIx) : StreamsHold (fixOne i s) :=
  (h.putStream (i := i) (streamOk_fixStream s.store.mem (h i))).of_streams (raiseAll_streams ..)

theorem streamsHold_emptyHalfOf (h : StreamsHold s) (i : StreamIx) : StreamsHold (emptyHalfOf i s) := by
  unfold emptyHalfOf
  dsimp only
  split
  · rename_i hdue
    obtain ⟨-, hrun, -, -⟩ := hdue
    obtain ⟨hplay, hset⟩ := leaveHalf_keeps (n := (getStream s i).readOffset + 1) (ev := []) (h i).playback
    exact (h.putStream (i := i) ((h i).played (by simp [hrun]) hset hplay)).of_streams (raiseAll_streams ..)
  · exact h

theorem streamsHold_closeStream (h : StreamsHold s) (i : StreamIx) : StreamsHold (closeStream i s) := by
  rw [closeStream_eq]
  exact StreamsHold.putStream ((h.of_sliceless (sliceless_streamLeft i s)).of_streams rfl) (streamOk_closedNow (h i))

theorem streamsHold_fillHalf (h : StreamsHold s) (ho : (getStream s i).state ≠ .closed) {k : Fin 2}
    (hk : (halfOf (getStream s i) k).state ≠ .playing) (last : Bool) (data : List Byte) : StreamsHold (fillHalf i k last data s).1 :=
  h.putStream (streamOk_filled (h i) ho hk last)

/-! ## Commands (R144 to R147, R152) -/

theorem streamFormatOfCode_plain {n : Nat} {f : Format} (h : streamFormatOfCode n = some f) : f ≠ .pack12 := by
  unfold streamFormatOfCode at h
  split at h <;> cases h <;> simp

theorem streamsHold_streamOpen (src : Nat) (b : List Byte) (h : StreamsHold s) : StreamsHold (streamOpenCommand src b s).1 := by
  refine onDevice_keeps src h (onStream_keeps _ h fun i => ?_)
  split
  · exact h
  · rename_i f hf
    split
    · exact h
    · split
      · exact h
      · dsimp only
        split
        · exact h
        · have hsize : 256 ≤ clampNat (u16At b 2) 256 16384 ∧ clampNat (u16At b 2) 256 16384 ≤ 16384 := by
            unfold clampNat
            omega
          exact h.putStream (streamOk_openedNow (h i) (streamFormatOfCode_plain hf) hsize.1 hsize.2)

theorem streamsHold_streamFill (src : Nat) (b : List Byte) (h : StreamsHold s) : StreamsHold (streamFillCommand src b s).1 := by
  refine onDevice_keeps src h (onStream_keeps _ h fun i => ?_)
  split
  · exact h
  · dsimp only
    split
    · exact h
    · rename_i ho
      split
      · exact h
      · split
        · exact h
        · exact h
        · rename_i hp
          exact streamsHold_fillHalf h ho hp _ _

theorem streamsHold_streamRun {act : Stream → Stream} (ha : ∀ r : Stream, StreamOk r → r.state ≠ .closed → StreamOk (act r))
    (src : Nat) (b : List Byte) (h : StreamsHold s) : StreamsHold (streamRunCommand act src b s).1 := by
  refine onDevice_keeps src h ?_
  split
  · exact h
  · refine onStream_keeps _ h fun i => ?_
    split
    · exact h
    · rename_i ho
      exact h.putStream (ha _ (h i) ho)

theorem streamsHold_streamClose (src : Nat) (b : List Byte) (h : StreamsHold s) : StreamsHold (streamCloseCommand src b s).1 := by
  refine onDevice_keeps src h (onStream_keeps _ h fun i => ?_)
  split
  · exact h
  · exact taken_keeps (P := StreamsHold) (streamsHold_closeStream h i)

theorem streamsHold_resetCommand (src : Nat) (b : List Byte) (h : StreamsHold s) : StreamsHold (resetCommand src b s).1 := by
  unfold resetCommand
  split
  · exact h
  · split
    · refine onDevice_keeps src h ?_
      split
      · exact h
      · exact taken_keeps (P := StreamsHold) (streamsHold_reset rfl)
    · exact onPosition_keeps src h fun p => taken_keeps (P := StreamsHold) (h.of_sliceless (sliceless_resetPosition p s))

/-- A parameter is no part of a stream (R181). -/
theorem streams_params (src : Nat) (b : List Byte) (s : State) :
    (setParamCommand src b s).1.streams = s.streams ∧ (getParamCommand src b s).1.streams = s.streams := by
  unfold setParamCommand getParamCommand
  dsimp only
  split
  · exact ⟨rfl, rfl⟩
  · split <;> exact ⟨rfl, rfl⟩
  · split <;> exact ⟨rfl, rfl⟩

/-- The commands of the ports leave the streams (R163, R168 to R170). -/
theorem portless_portCommands (src : Nat) (b : List Byte) (s : State) :
    portless (sleepCommand src s).1 = portless s ∧ portless (wakeCommand src s).1 = portless s ∧
      portless (portSetCommand src b s).1 = portless s ∧ portless (portStatusCommand src s).1 = portless s := by
  have hdevice : ∀ act : Answer, portless act.1 = portless s → portless (onDevice s src act).1 = portless s :=
    fun act => onDevice_keeps (P := fun t => portless t = portless s) src rfl
  refine ⟨hdevice _ ?_, hdevice _ ?_, hdevice _ ?_, hdevice _ ?_⟩
  · (repeat' split) <;> simp [refuse, taken]
  · split <;> simp [taken]
  · (repeat' split) <;> simp [refuse]
  · split <;> simp [refuse]

/-- The commands of the clips and of the store leave the streams (R107 to R113, R116). -/
theorem streams_storeCommands (src : Nat) (b : List Byte) (s : State) :
    (clipAllocCommand src b s).1.streams = s.streams ∧ (clipWriteCommand src b s).1.streams = s.streams ∧
      (clipEndCommand src b s).1.streams = s.streams ∧ (clipFreeCommand src b s).1.streams = s.streams ∧
      (clipInfoCommand src b s).1.streams = s.streams ∧ (storeCompactCommand src s).1.streams = s.streams ∧
      (expandLoadCommand src b s).1.streams = s.streams := by
  have hdevice : ∀ act : Answer, act.1.streams = s.streams → (onDevice s src act).1.streams = s.streams :=
    fun act => onDevice_keeps (P := fun t => t.streams = s.streams) src rfl
  have hclip : ∀ act : ClipIx → Answer, (∀ c, (act c).1.streams = s.streams) →
      (onDevice s src (onClip s (byteAt b 0) act)).1.streams = s.streams :=
    fun act h => hdevice _ (onClip_keeps (P := fun t => t.streams = s.streams) _ rfl h)
  refine ⟨hclip _ fun c => ?_, hclip _ fun c => ?_, hclip _ fun c => ?_, hclip _ fun c => ?_, hclip _ fun c => rfl, hdevice _ ?_,
    hdevice _ rfl⟩
  · dsimp only
    (repeat' split) <;> rfl
  · dsimp only
    (repeat' split) <;> rfl
  · dsimp only
    split <;> rfl
  · (repeat' split) <;> rfl
  · (repeat' split) <;> rfl

theorem streamsHold_perform (c : Command) (src : Nat) (b : List Byte) (s : State) (h : StreamsHold s) :
    StreamsHold (perform c src b s).1 := by
  obtain ⟨hset, hget⟩ := streams_params src b s
  obtain ⟨hsleep, hwake, hport, hports⟩ := portless_portCommands src b s
  obtain ⟨halloc, hwrite, hend, hfree, hinfo, hcompact, hload⟩ := streams_storeCommands src b s
  cases c with
  | posOpen | posClose | callOffer | callConnect | callHold | callClear | mute | posStatus | ecMode | ecFreeze | search | windowSet
  | ecStatus | play | stop | playerStatus | toneStart | toneStop =>
    exact h.of_sliceless (sliceless_perform src b s (by simp [positionCommands]))
  | reset => exact streamsHold_resetCommand src b h
  | sleep => exact h.of_portless hsleep
  | wake => exact h.of_portless hwake
  | portSet => exact h.of_portless hport
  | portStatus => exact h.of_portless hports
  | setParam => exact h.of_streams hset
  | getParam => exact h.of_streams hget
  | clipAlloc => exact h.of_streams halloc
  | clipWrite => exact h.of_streams hwrite
  | clipEnd => exact h.of_streams hend
  | clipFree => exact h.of_streams hfree
  | clipInfo => exact h.of_streams hinfo
  | storeCompact => exact h.of_streams hcompact
  | expandLoad => exact h.of_streams hload
  | streamOpen => exact streamsHold_streamOpen src b h
  | streamFill => exact streamsHold_streamFill src b h
  | streamStart => exact streamsHold_streamRun (fun _ => streamOk_startedStream) src b h
  | streamStop => exact streamsHold_streamRun (fun _ => streamOk_haltedStream) src b h
  | streamClose => exact streamsHold_streamClose src b h
  | streamStatus => exact onDevice_keeps src h (onStream_keeps _ h fun _ => h)

/-! ## The slice period (R24, R118, R148) -/

theorem streamsHold_endPeriod (h : StreamsHold s) : StreamsHold (endPeriod s) := by
  have hslices : StreamsHold (finishSlices s) := h.of_sliceless (sliceless_slices (dueOrder s) s)
  refine .ite (inFreeOrder_keeps (P := StreamsHold) _ _ hslices ?_ fun t ht => ht) h
  intro act ha t ht
  simp only [List.mem_cons, List.not_mem_nil, or_false] at ha
  obtain rfl | rfl := ha
  · exact ht.of_portless (portless_handEarpiece t)
  · exact ht.of_streams (finishMove_streams t)

theorem streamsHold_beginPeriod (netIn posIn : AudioBlock) (group : Option AudioBlock) (h : StreamsHold s) :
    StreamsHold (beginPeriod netIn posIn group s) := by
  refine inFreeOrder_keeps (P := StreamsHold) _ _ (h.of_streams rfl) ?_ fun t ht => ht
  intro act ha t ht
  simp only [List.mem_cons, List.not_mem_nil, or_false] at ha
  obtain rfl | rfl | rfl | rfl | rfl | rfl := ha
  · exact ht.of_portless (portless_receiveMic t posIn group)
  · exact streamsHold_fixOne ht 0
  · exact streamsHold_fixOne ht 1
  · exact streamsHold_fixOne ht 2
  · exact streamsHold_fixOne ht 3
  · exact ht.of_streams (by simp [compactPeriod, allTurns])

theorem streamsHold_slicePeriod (netIn posIn : AudioBlock) (group : Option AudioBlock) (h : StreamsHold s) :
    StreamsHold (slicePeriod netIn posIn group s) :=
  .ite h (streamsHold_beginPeriod _ _ _ (streamsHold_endPeriod (h.of_portless (portless_groupBefore s group))))

end

/-! ## Every step -/

theorem streamsHold_exec (i : Instr) {s t : State} (h : StreamsHold s) (he : exec i s = .next t) : StreamsHold t := by
  have hlink : ∀ (u : State) (l : Link), StreamsHold u → StreamsHold (putLink u l) := fun _ _ hu => hu
  cases i with
  | powerOn | resetPin => cases he; exact streamsHold_reset rfl
  | frameError len followed => cases he; exact .ite (linkEvent_keeps hlink _ _ _ h) h
  | read e => cases he; exact readTransaction_keeps hlink streamsHold_perform e s h
  | frameArrival | linkClear | badKind | resetDevice | resetPosition | sleep | wake | portSet | portStatus | setParam | getParam
  | posOpen | posClose | callOffer | callConnect | callHold | callClear | mute | posStatus | ecMode | ecFreeze | search | windowSet
  | ecStatus | playNow | playInterrupt | playNext | playOnly | stopCurrent | stopAll | playerStatus | toneStart | toneStop | clipAlloc
  | clipWrite | clipEnd | clipFree | clipInfo | storeCompact | expandLoad | streamOpen | streamFill | streamStart | streamStop
  | streamClose | streamStatus => cases he; exact writeFrame_keeps hlink streamsHold_perform _ s h
  | slicePeriod netIn posIn group => cases he; exact streamsHold_slicePeriod netIn posIn group h
  | positionSlice p => cases he; exact h.of_sliceless (sliceless_positionSlice p s)
  | floorTrackerRise p which level =>
    cases he
    cases which with
    | microphone => exact h.of_sliceless (sliceless_ite (sliceless_putSuppressor ..))
    | callerPath => exact h.of_sliceless (sliceless_ite (sliceless_putCanceller ..))
  | vadHangoverExpiry p ratio => cases he; exact h.of_sliceless (sliceless_ite (sliceless_putSuppressor ..))
  | boostRefresh p => cases he; exact h.of_sliceless (sliceless_ite ((sliceless_raiseAll ..).trans (sliceless_putSuppressor ..)))
  | doubleTalkHangoverExpiry p ymax xmax => cases he; exact h.of_sliceless (sliceless_ite (sliceless_putCanceller ..))
  | converged p => cases he; exact h.of_sliceless (sliceless_ite (sliceless_cancellerEvent ..))
  | diverged p estimateLevel returnLevel => cases he; exact h.of_sliceless (sliceless_ite (sliceless_cancellerEvent ..))
  | lossOfErle p => cases he; exact h.of_sliceless (sliceless_ite (by split <;> simp))
  | researchPeriodExpiry p => cases he; exact h.of_sliceless (sliceless_ite (by simp))
  | searchStart => cases he; exact h.of_sliceless (sliceless_startHead s)
  | searchCompletes => cases he; exact h.of_sliceless (sliceless_endInFlight _ fun f => sliceless_endSearch _ _ f s)
  | timedOut => cases he; exact h.of_sliceless (sliceless_endInFlight _ fun f => sliceless_endSearch _ _ f s)
  | passEnd p which => cases he; exact h.of_sliceless (sliceless_endPass p which s)
  | burstComplete p => cases he; exact h.of_sliceless (sliceless_ite ((sliceless_raiseAll ..).trans (sliceless_putTone ..)))
  | newCycle p => cases he; exact h.of_sliceless (sliceless_ite (sliceless_putTone ..))
  | halfEmpty k => cases he; exact streamsHold_emptyHalfOf h k
  | turn => cases he; exact .ite (h.of_streams (takeTurn_streams s)) h
  | moveCompletes => cases he; exact h.of_streams (finishMove_streams s)
  | frameSync port distance => cases he; exact .ite (h.of_portless (portless_takeSync s port distance)) h
  | missingSync port => cases he; exact .ite (h.of_portless (portless_missSync s port)) h
  | positionPortGroup x => cases he; exact h.of_portless (portless_completeGroup s x)

/-- Settles O17: the commands and the slices of the positions leave the records but for the listener counts; the commands, the fixing and
HALF_EMPTY keep each record by the rules above. -/
theorem stepKeepsTheStreams : Obligations.StepKeepsTheStreams := by
  unfold Obligations.StepKeepsTheStreams
  intro s t h hs
  rw [step] at hs
  split at hs
  · cases hs
    exact h
  · rename_i c rest _
    exact streamsHold_exec c (s := { s with pending := rest }) h hs

end Sys2Proof.Machine

/-! # STREAM-FILL, STREAM-START and STREAM-STOP (R143, R144, R146, R147) -/

namespace Sys2Proof.Machine

section
variable {s : State} {i : StreamIx}

/-! ## STREAM-FILL (R146) -/

theorem halfByte_toNat (h : Fin 2) : (BitVec.ofNat 8 h.val).toNat = h.val := by
  have := h.isLt
  simp
  omega

/-- A stream id, a half or a last flag out of range (R144, R146). -/
theorem streamFillCommand_bad {stream half last : Byte} (h : 4 ≤ stream.toNat ∨ 1 < half.toNat ∨ 1 < last.toNat) (data : List Byte) :
    streamFillCommand (0xFF : Byte).toNat (stream :: half :: last :: data) s = refuse s .badValue := by
  rw [streamFillCommand, onDevice_device, byteAt_cons_zero]
  by_cases hid : 4 ≤ stream.toNat
  · exact onStream_bad s hid _
  · rw [onStream, dif_pos (Nat.lt_of_not_le hid)]
    exact if_pos (h.resolve_left hid)

/-- The checks of STREAM-FILL on a half of a stream, in their order (R146). -/
theorem streamFillCommand_checks (i : StreamIx) (h : Fin 2) (last : Bool) (data : List Byte) (s : State) :
    streamFillCommand (0xFF : Byte).toNat (streamByte i :: BitVec.ofNat 8 h.val :: (if last then 1 else 0) :: data) s =
      if (getStream s i).state = .closed then refuse s .badState
      else if data.length % sampleSize (getStream s i).format ≠ 0 then refuse s .badLength
      else if (halfOf (getStream s i) h).state = .full ∨ (halfOf (getStream s i) h).state = .playing then refuse s .busy
      else fillHalf i h last data s := by
  have hhalf : (if h.val = 0 then (0 : Fin 2) else 1) = h := by fin_cases h <;> rfl
  have hlast : (if last then (1 : Byte) else 0).toNat = if last then 1 else 0 := by cases last <;> rfl
  have hflag : ((if last then 1 else 0) == 1) = last := by cases last <;> rfl
  have hfits : ¬(1 < h.val ∨ 1 < if last then 1 else 0) := by
    have := h.isLt
    split <;> omega
  simp only [streamFillCommand, onDevice_device, byteAt_cons_zero, byteAt_cons_succ, onStream_streamByte, halfByte_toNat, hlast, hhalf,
    hflag, if_neg hfits, List.length_cons, List.drop_succ_cons, List.drop_zero]
  cases (halfOf (getStream s i) h).state <;> simp

/-- Settles O50: the checks in their order, then the samples that fit. -/
theorem streamFillAppendsToAHalf : Obligations.StreamFillAppendsToAHalf := by
  unfold Obligations.StreamFillAppendsToAHalf
  refine ⟨fun s tag stream half last data ha hl hbad => ?_, fun s tag i h last data ha hl => ?_⟩
  · rw [exec_streamFill ha _ _ _ _ _ _ hl, perform, streamFillCommand_bad hbad, answered_refuse]
  · simp only [exec_streamFill ha _ _ _ _ _ _ hl, perform, streamFillCommand_checks, ← sampleSize_eq]
    refine ⟨fun hc => ?_, fun hc hodd => ?_, fun hc heven hbusy => ?_, fun hc heven hroom hwf =>
      ⟨_, ?_, bytesWritten_writeBytes _ _ hwf⟩⟩
    · rw [if_pos hc, answered_refuse]
    · rw [if_neg hc, if_pos hodd, answered_refuse]
    · rw [if_neg hc, if_neg (not_not.mpr heven), if_pos hbusy, answered_refuse]
    · have hfree : ¬((halfOf (getStream s i) h).state = .full ∨ (halfOf (getStream s i) h).state = .playing) := by
        rcases hroom with hs | hs <;> simp [hs]
      rw [if_neg hc, if_neg (not_not.mpr heven), if_neg hfree]
      cases last <;> simp [answered, fillHalf, okOrClamped, halfStateCode, withHalf]

/-! ## STREAM-START and STREAM-STOP (R147) -/

section
variable {act : Stream → Stream}

theorem streamRunCommand_asleep (hs : s.ports.standby = true) (stream : Byte) :
    streamRunCommand act (0xFF : Byte).toNat [stream] s = refuse s .asleep := by
  rw [streamRunCommand, onDevice_device, hs]
  rfl

theorem streamRunCommand_bad (hs : s.ports.standby = false) {stream : Byte} (h : 4 ≤ stream.toNat) :
    streamRunCommand act (0xFF : Byte).toNat [stream] s = refuse s .badValue := by
  rw [streamRunCommand, onDevice_device, hs, byteAt_cons_zero, onStream_bad s h]
  rfl

theorem streamRunCommand_closed (hs : s.ports.standby = false) (hc : (getStream s i).state = .closed) :
    streamRunCommand act (0xFF : Byte).toNat [streamByte i] s = refuse s .badState := by
  rw [streamRunCommand, onDevice_device, hs, byteAt_cons_zero, onStream_streamByte, if_pos hc]
  rfl

theorem streamRunCommand_taken (hs : s.ports.standby = false) (hc : (getStream s i).state ≠ .closed) :
    streamRunCommand act (0xFF : Byte).toNat [streamByte i] s =
      (putStream s i (act (getStream s i)), .ok, [byteField (streamStateCode (act (getStream s i)).state)]) := by
  rw [streamRunCommand, onDevice_device, hs, byteAt_cons_zero, onStream_streamByte, if_neg hc]
  rfl

end

theorem putStream_getStream (s : State) (i : StreamIx) : putStream s i (getStream s i) = s := by
  simp [putStream, getStream]

/-- Settles O51: both commands make one sequence of checks, and each puts its own record. -/
theorem streamStartAndStop : Obligations.StreamStartAndStop := by
  unfold Obligations.StreamStartAndStop
  refine ⟨fun s tag stream code ha hcode => ?_, fun s tag i ha => ?_⟩
  · rw [exec_streamStart ha, exec_streamStop ha]
    obtain ⟨hs, rfl⟩ | ⟨hs, hid, rfl⟩ := hcode
    · simp only [perform, streamRunCommand_asleep hs, answered_refuse, and_self]
    · simp only [perform, streamRunCommand_bad hs hid, answered_refuse, and_self]
  · simp only [exec_streamStart ha, exec_streamStop ha, perform]
    refine ⟨fun hs => ?_, fun hs hc => ?_, fun hs hc => ?_⟩
    · simp only [streamRunCommand_asleep hs, answered_refuse, and_self]
    · simp only [streamRunCommand_closed hs hc, answered_refuse, and_self]
    · simp only [streamRunCommand_taken hs hc, answered]
      refine ⟨rfl, fun hrun => ?_, fun hrun => ?_⟩
      · rw [haltedStream, if_pos hrun]
        rfl
      · rw [haltedStream, if_neg hrun, putStream_getStream]

end

end Sys2Proof.Machine

/-! # A tone unit within its ranges (R156 to R160) -/

namespace Sys2Proof.Machine

/-- What the ranges of a tone unit say apart from the call. -/
structure ToneWithin (x : Tone) : Prop where
  increment : 410 ≤ x.increment ∧ x.increment ≤ 32358
  level : x.level ≤ 63
  period : x.period ≤ 2500
  bursts : x.bursts ≤ 255
  phase : x.phase ≤ 65535
  burstCount : x.burstCount ≤ 255
  onTime : 1 ≤ x.onTime ∧ x.onTime < x.period
  cycle : x.cycle < x.period

/-- A unit within its ranges whose tone, if it runs, has a route that the call state allows. -/
structure ToneFits (c : CallState) (x : Tone) : Prop where
  within : ToneWithin x
  allowed : x.running = true → routeAllowed c x.route = true

theorem routeAllowed_iff (c : CallState) (r : Route) :
    routeAllowed c r = true ↔ c ≠ .vacant ∧ (routeHasNet r = true → callPresent c = true) := by
  unfold routeAllowed
  cases routeHasNet r with
  | false => simp
  | true => cases c <;> simp [callPresent]

theorem toneOk_iff (r : Position) : ToneOk r ↔ ToneFits r.call r.tone := by
  constructor
  · rintro ⟨hi, hi', hl, hp, hb, hph, hn, ho, ho', hc, hv, hcall⟩
    exact ⟨⟨⟨hi, hi'⟩, hl, hp, hb, hph, hn, ⟨ho, ho'⟩, hc⟩, fun hr => (routeAllowed_iff ..).2 ⟨hv hr, hcall hr⟩⟩
  · rintro ⟨⟨⟨hi, hi'⟩, hl, hp, hb, hph, hn, ⟨ho, ho'⟩, hc⟩, ha⟩
    exact ⟨hi, hi', hl, hp, hb, hph, hn, ho, ho', hc, fun hr => ((routeAllowed_iff ..).1 (ha hr)).1,
      fun hr => ((routeAllowed_iff ..).1 (ha hr)).2⟩

section
variable {c c' : CallState} {x : Tone}

/-! ## Another call state (R4 to R11) -/

theorem ToneWithin.stopped (h : ToneWithin x) (c : CallState) : ToneFits c (stoppedTone x) := ⟨{ h with }, nofun⟩

/-- A call allows every route (R157). -/
theorem ToneWithin.inCall (h : ToneWithin x) (hc : callPresent c = true) : ToneFits c x :=
  ⟨h, fun _ => (routeAllowed_iff ..).2 ⟨fun hv => by simp [hv, callPresent] at hc, fun _ => hc⟩⟩

/-- Nothing runs in VACANT, whatever call state follows (R4, R160). -/
theorem ToneFits.opened (h : ToneFits .vacant x) (c : CallState) : ToneFits c x :=
  ⟨h.within, fun hr => absurd rfl ((routeAllowed_iff ..).1 (h.allowed hr)).1⟩

/-- What a call's end leaves of a tone: it stops where its route needs the call (R10). -/
def tonePastCall (x : Tone) : Tone := if routeHasNet x.route then stoppedTone x else x

theorem ToneWithin.pastCall (h : ToneWithin x) : ToneFits .ready (tonePastCall x) := by
  unfold tonePastCall
  split
  · exact h.stopped _
  · rename_i hn
    exact ⟨h, fun _ => (routeAllowed_iff ..).2 ⟨by simp, fun hnet => absurd hnet hn⟩⟩

/-! ## A tone that starts, and one that goes on (R157 to R159) -/

theorem clampNat_bounds {lo hi : Nat} (h : lo ≤ hi) (v : Nat) : lo ≤ clampNat v lo hi ∧ clampNat v lo hi ≤ hi := by
  unfold clampNat
  omega

theorem phaseIncrement_bounds {f : Nat} (h : 100 ≤ f ∧ f ≤ 7900) : 410 ≤ phaseIncrement f ∧ phaseIncrement f ≤ 32358 := by
  unfold phaseIncrement
  omega

theorem toneFits_started {level bursts : Nat} (hl : level ≤ 63) (hb : bursts ≤ 255) {route : Route}
    (ha : routeAllowed c route = true) (frequency period onTime : Nat) :
    ToneFits c (startedTone frequency level period onTime bursts route) := by
  obtain ⟨hp, hp'⟩ := clampNat_bounds (show 2 ≤ 2500 by decide) period
  obtain ⟨ho, ho'⟩ := clampNat_bounds (show 1 ≤ clampNat period 2 2500 - 1 by omega) onTime
  exact ⟨⟨phaseIncrement_bounds (clampNat_bounds (by decide) frequency), hl, hp', hb, Nat.zero_le _, Nat.zero_le _,
    ⟨ho, by dsimp only [startedTone]; omega⟩, by dsimp only [startedTone]; omega⟩, fun _ => ha⟩

/-- A unit goes on, or stops, with its counters and its phase in range. -/
theorem ToneFits.moved (h : ToneFits c x) {running : Bool} (hr : running = true → x.running = true) {phase cycle n : Nat}
    (hphase : phase ≤ 65535) (hcycle : cycle < x.period) (hn : n ≤ 255) :
    ToneFits c { x with running := running, phase := phase, cycle := cycle, burstCount := n } :=
  ⟨{ h.within with phase := hphase, cycle := hcycle, burstCount := hn }, fun hrun => h.allowed (hr hrun)⟩

theorem ToneFits.period_pos (h : ToneFits c x) : 0 < x.period := Nat.zero_lt_of_lt h.within.cycle

/-- A new cycle begins (R159 step 3). -/
theorem ToneFits.newCycle (h : ToneFits c x) : ToneFits c (newCycle x) :=
  h.moved (running := x.running) id (Nat.zero_le _) h.period_pos h.within.burstCount

/-- The count of slices does not reach the period where it does not begin anew (R159). -/
theorem ToneFits.succ_cycle_lt (h : ToneFits c x) (hne : x.cycle + 1 ≠ x.period) : x.cycle + 1 < x.period :=
  lt_of_le_of_ne h.within.cycle hne

/-- A burst completes within its cycle (R159 step 2). -/
theorem ToneFits.burst_cycle_lt (h : ToneFits c x) (ho : x.cycle + 1 = x.onTime) : x.cycle + 1 < x.period :=
  ho ▸ h.within.onTime.2

theorem ToneFits.burstCompletes (h : ToneFits c x) (hr : x.running = true) (ho : x.cycle + 1 = x.onTime) :
    ToneFits c (burstCompletes x).1 := by
  have hcount : min (x.burstCount + 1) 255 ≤ 255 := Nat.min_le_right ..
  rw [burstCompletes_running hr]
  split
  · exact h.moved (fun _ => hr) h.within.phase (h.burst_cycle_lt ho) hcount
  · exact h.moved (fun _ => hr) h.within.phase (h.burst_cycle_lt ho) hcount

/-- The phase stays within 16 bits over the samples of a slice (R158). -/
theorem phase_le_of_steps {phase : Nat → Nat} {on : Prop} {inc : Nat} (h0 : phase 0 ≤ 65535)
    (hk : ∀ k, k < 64 → (on → phase (k + 1) = (phase k + inc) % 65536) ∧ (¬on → phase (k + 1) = phase k)) :
    ∀ k, k ≤ 64 → phase k ≤ 65535 := by
  intro k
  induction k with
  | zero => exact fun _ => h0
  | succ k ih =>
    intro hle
    obtain ⟨hon, hoff⟩ := hk k hle
    by_cases h : on
    · rw [hon h]
      omega
    · rw [hoff h]
      exact ih (by omega)

/-- A slice of a tone unit keeps its ranges (R158, R159). -/
theorem ToneFits.slice (h : ToneFits c x) {y : Tone} {ended : Bool} {f : Nat → Int} (hs : ToneInSlice x y ended f) : ToneFits c y := by
  obtain ⟨phase, h0, hk, hstill, hruns⟩ := hs
  have hphase : phase 64 ≤ 65535 := phase_le_of_steps (by rw [h0]; exact h.within.phase)
    (fun k hlt => ⟨fun hon => ((hk k hlt).1 hon).2, fun hoff => ((hk k hlt).2 hoff).2⟩) 64 (Nat.le_refl 64)
  cases hr : x.running with
  | false =>
    obtain ⟨rfl, -⟩ := hstill hr
    exact h
  | true =>
    obtain ⟨hburst, hcycle, hgoes⟩ := hruns hr
    by_cases ho : x.cycle + 1 = x.onTime
    · obtain ⟨rfl, -⟩ := hburst ho
      exact h.moved (fun _ => hr) hphase (h.burst_cycle_lt ho) (Nat.min_le_right ..)
    · by_cases hp : x.cycle + 1 = x.period
      · obtain ⟨rfl, -⟩ := hcycle ho hp
        exact h.newCycle
      · obtain ⟨rfl, -⟩ := hgoes ho hp
        exact h.moved (running := x.running) id hphase (h.succ_cycle_lt hp) h.within.burstCount

end

end Sys2Proof.Machine

/-! # What a part of a step does to the calls and the tones -/

namespace Sys2Proof.Machine

/-- What the ranges of a tone unit speak of. -/
def callAndTone (r : Position) : CallState × Tone := (r.call, r.tone)

/-- Two states whose calls and tone units are the same. -/
structure SameTones (s t : State) : Prop where
  view : ∀ p, callAndTone (getPos t p) = callAndTone (getPos s p)

/-- From `s`, position `p` has the call state `c` and the tone unit `x`; the other positions have theirs. -/
structure SetsTone (s : State) (p : PosIx) (c : CallState) (x : Tone) (u : State) : Prop where
  view : ∀ q, callAndTone (getPos u q) = if p = q then (c, x) else callAndTone (getPos s q)

/-- What is within its ranges in `s` is so in `t`. -/
structure KeepsTones (s t : State) : Prop where
  ok : ∀ p, ToneOk (getPos s p) → ToneOk (getPos t p)

theorem toneOk_congr {r y : Position} (h : callAndTone r = callAndTone y) (hy : ToneOk y) : ToneOk r := by
  obtain ⟨hc, ht⟩ := Prod.mk.inj h
  rw [toneOk_iff, hc, ht]
  exact (toneOk_iff y).1 hy

section
variable {s t u : State} {p : PosIx} {w : PlayerId} {r : Position} {e : Engine} {c : CallState} {x : Tone}

/-! ## The same calls and tones -/

theorem SameTones.rfl : SameTones s s := ⟨fun _ => Eq.refl _⟩

theorem SameTones.trans (h : SameTones s t) (g : SameTones t u) : SameTones s u := ⟨fun p => (g.view p).trans (h.view p)⟩

theorem SameTones.ite {a : Prop} [Decidable a] (h : SameTones s t) (g : SameTones s u) : SameTones s (if a then t else u) := by
  split
  · exact h
  · exact g

theorem SameTones.of_positions (h : t.positions = s.positions) : SameTones s t := ⟨fun p => by rw [getPos, getPos, h]⟩

theorem SameTones.of_bare (h : bare t = bare s) : SameTones s t := .of_positions (positions_of_bare h)

theorem SameTones.of_portless (h : portless t = portless s) : SameTones s t := .of_positions (positions_of_portless h)

theorem SameTones.of_storeless (h : storeless t = storeless s) : SameTones s t := .of_positions (positions_of_storeless h)

theorem sameTones_putPos (h : callAndTone r = callAndTone (getPos s p)) : SameTones s (putPos s p r) := by
  refine ⟨fun q => ?_⟩
  rw [getPos_putPos]
  split
  · rename_i hq
    rw [h, hq]
  · rfl

theorem SameTones.of_leaves (h : Leaves s p r e u) (hr : callAndTone r = callAndTone (getPos s p)) : SameTones s u := by
  have hput : SameTones s (putPos s p r) := sameTones_putPos hr
  exact (hput.trans (.of_positions (t := putEngine (putPos s p r) e) (Eq.refl _))).trans (.of_bare h.1)

/-! ## A call and a tone set -/

theorem SetsTone.of_leaves (h : Leaves s p r e u) : SetsTone s p r.call r.tone u := by
  refine ⟨fun q => ?_⟩
  split
  · rename_i hq
    rw [← hq, h.getPos_self]
    rfl
  · rename_i hq
    rw [h.getPos_ne (Ne.symm hq)]

theorem SetsTone.same (h : SetsTone s p c x t) (g : SameTones t u) : SetsTone s p c x u := ⟨fun q => (g.view q).trans (h.view q)⟩

theorem SetsTone.own (h : SetsTone s p c x u) : (getPos u p).call = c ∧ (getPos u p).tone = x :=
  Prod.mk.inj ((h.view p).trans (if_pos rfl))

/-- What is set again is what was set last. -/
theorem SetsTone.again {c' : CallState} {x' : Tone} (h : SetsTone s p c x t) (g : SetsTone t p c' x' u) : SetsTone s p c' x' u := by
  refine ⟨fun q => ?_⟩
  rw [g.view q]
  split
  · rfl
  · rename_i hq
    rw [h.view q, if_neg hq]

theorem setsTone_putPos (s : State) (p : PosIx) (r : Position) : SetsTone s p r.call r.tone (putPos s p r) :=
  .of_leaves ((leaves_self s p).putPos r)

theorem SetsTone.clearTone (h : SetsTone s p c x u) : SetsTone s p c (stoppedTone x) (clearTone p u) := by
  obtain ⟨rfl, rfl⟩ := h.own
  exact h.again (.of_leaves (leaves_self u p).clearTone)

theorem SetsTone.clearCallTone (h : SetsTone s p c x u) : SetsTone s p c (tonePastCall x) (clearCallTone p u) := by
  obtain ⟨rfl, rfl⟩ := h.own
  exact h.again (.of_leaves (leaves_self u p).clearCallTone)

theorem setsTone_setCall (p : PosIx) (c : CallState) (s : State) : SetsTone s p c (getPos s p).tone (setCall p c s) :=
  .of_leaves ((leaves_self s p).setCall c)

/-! ## Tones that stay within their ranges -/

theorem KeepsTones.rfl : KeepsTones s s := ⟨fun _ h => h⟩

theorem KeepsTones.trans (h : KeepsTones s t) (g : KeepsTones t u) : KeepsTones s u := ⟨fun p hp => g.ok p (h.ok p hp)⟩

theorem KeepsTones.ite {a : Prop} [Decidable a] (h : KeepsTones s t) (g : KeepsTones s u) :
    KeepsTones s (if a then t else u) := by
  split
  · exact h
  · exact g

theorem SameTones.keeps (h : SameTones s t) : KeepsTones s t := ⟨fun p => toneOk_congr (h.view p)⟩

theorem KeepsTones.same (h : KeepsTones s t) (g : SameTones t u) : KeepsTones s u := h.trans g.keeps

theorem SetsTone.keeps (h : SetsTone s p c x u) (hx : ToneFits (getPos s p).call (getPos s p).tone → ToneFits c x) :
    KeepsTones s u := by
  refine ⟨fun q hq => ?_⟩
  by_cases hpq : p = q
  · subst hpq
    obtain ⟨hc, ht⟩ := h.own
    rw [toneOk_iff, hc, ht]
    exact hx ((toneOk_iff _).1 hq)
  · exact toneOk_congr ((h.view q).trans (if_neg hpq)) hq

/-! ## Reports, players and searches leave them -/

theorem sameTones_raise (b : ReportBody) (s : State) : SameTones s (raise b s) := .of_bare (bare_raise b s)

theorem sameTones_raiseAll (bs : List ReportBody) (s : State) : SameTones s (raiseAll bs s) := .of_bare (bare_raiseAll bs s)

theorem sameTones_spendDraw (s : State) : SameTones s (spendDraw s) := .of_positions (Eq.refl _)

theorem sameTones_player {pl : Player} (h : bare t = bare (putPlayer s p w pl)) : SameTones s t := by
  have hp : SameTones s (putPlayer s p w pl) := sameTones_putPos (by cases w <;> rfl)
  exact hp.trans (.of_bare h)

theorem sameTones_endCurrent (p : PosIx) (w : PlayerId) (reason : LeaveReason) (s : State) :
    SameTones s (endCurrent p w reason s) := by
  have hb := bare_endCurrent p w reason s
  split at hb
  · exact sameTones_player hb
  · exact .of_bare hb

theorem sameTones_clearPlayer (p : PosIx) (w : PlayerId) (reason : LeaveReason) (s : State) :
    SameTones s (clearPlayer p w reason s) :=
  (sameTones_player (bare_dropLists p w reason (fun _ => true) s)).trans (sameTones_endCurrent ..)

theorem sameTones_playItem (p : PosIx) (w : PlayerId) (m : PlayMode) (it : Item) (s : State) : SameTones s (playItem p w m it s) := by
  cases m with
  | now => exact sameTones_player (bare_playNowItem p w it s)
  | interrupt => exact sameTones_player (bare_playInterruptItem p w it s)
  | next => exact sameTones_player (bare_playNextItem p w it s)
  | only => exact sameTones_player (bare_playOnlyItem p w it s)

theorem sameTones_putCanceller (x : Canceller) : SameTones s (putCanceller s p x) := sameTones_putPos (Eq.refl _)

theorem sameTones_cancelSearches (p : PosIx) (s : State) : SameTones s (cancelSearches p s) :=
  .of_leaves (leaves_self s p).cancelSearches (Eq.refl _)

theorem sameTones_placeRequest (p : PosIx) (q : SearchRequest) (s : State) : SameTones s (placeRequest p q s).1 := by
  rw [placeRequest_eq]
  exact .of_positions (Eq.refl _)

theorem sameTones_startHead (s : State) : SameTones s (startHead s) := by
  rw [startHead_eq]
  exact .of_positions (Eq.refl _)

theorem sameTones_endSearch (o : SearchOutcome) (lag : Option Nat) (f : InFlight) (s : State) :
    SameTones s (endSearch o lag f s).1 := by
  have hput : SameTones s (putPos s f.entry.position (searchedRecord o lag f (getPos s f.entry.position))) :=
    sameTones_putPos (Eq.refl _)
  rw [endSearch_eq]
  exact hput.trans (.of_positions (Eq.refl _))

theorem sameTones_judgeSearch (f : InFlight) (s : State) : SameTones s (judgeSearch f s).1 := by
  obtain ⟨o, lag, -, he⟩ | ⟨-, he⟩ := judgeSearch_cases f s
  · rw [he]
    exact sameTones_endSearch ..
  · rw [he]
    exact .rfl

theorem sameTones_changeMode (m : CancellerMode) (p : PosIx) (s : State) : SameTones s (changeMode m p s) :=
  .ite .rfl (.ite ((sameTones_putCanceller _).trans (sameTones_cancelSearches ..)) (sameTones_putCanceller _))

/-! ## Calls and resets (R4 to R11, R20, R21) -/

/-- A call state with a call allows whatever runs. -/
theorem keepsTones_setCall (hc : callPresent c = true) : KeepsTones s (setCall p c s) :=
  (setsTone_setCall p c s).keeps fun h => h.within.inCall hc

theorem keepsTones_openPosition (hv : (getPos s p).call = .vacant) : KeepsTones s (openPosition p s) :=
  (setsTone_putPos s p { getPos s p with call := .ready, sliceDue := false }).keeps fun h => (hv ▸ h).opened _

theorem keepsTones_takeOffer (p : PosIx) (a b : Option Item) (hint : Option Nat) (s : State) : KeepsTones s (takeOffer p a b hint s) :=
  (SetsTone.of_leaves (takeOffer_leaves s p a b hint)).keeps fun h => h.within.inCall (by cases a <;> rfl)

theorem keepsTones_whisperCheck (p : PosIx) (was : Bool) (s : State) : KeepsTones s (whisperCheck p was s) :=
  .ite (((keepsTones_setCall (c := .connected) (Eq.refl _)).same (sameTones_clearPlayer ..)).same (sameTones_raise ..)) .rfl

theorem keepsTones_closeStream (i : StreamIx) (s : State) : KeepsTones s (closeStream i s) := by
  have hgiven : SameTones s (streamGiven i s) :=
    foldl_keeps (P := SameTones s) (fun t x ht => ht.trans (sameTones_player (bare_giveUpStream i x.1 x.2 t))) _ _ .rfl
  have hleft : KeepsTones s (streamLeft i s) :=
    foldl_keeps (P := KeepsTones s) (fun t x ht => .ite (ht.trans (keepsTones_whisperCheck ..)) ht) _ _ hgiven.keeps
  rw [closeStream_eq]
  exact hleft.same (.of_positions (Eq.refl _))

/-- CALL-CLEAR leaves READY, and no tone that needs the call (R10). -/
theorem setsTone_clearCall (p : PosIx) (s : State) : SetsTone s p .ready (tonePastCall (getPos s p).tone) (clearCall p s) := by
  have hcleared : SetsTone s p .ready (getPos s p).tone (playersCleared p s) :=
    ((setsTone_setCall p .ready s).same (sameTones_clearPlayer ..)).same (sameTones_clearPlayer ..)
  rw [clearCall_eq]
  exact (hcleared.clearCallTone.same (sameTones_putCanceller _)).same (sameTones_cancelSearches ..)

theorem keepsTones_clearCall (p : PosIx) (s : State) : KeepsTones s (clearCall p s) :=
  (setsTone_clearCall p s).keeps fun h => h.within.pastCall

theorem sameTones_closedRecord (p : PosIx) (s : State) : SameTones s (putPos s p (closedRecord (getPos s p))) :=
  sameTones_putPos (Eq.refl _)

/-- POS-CLOSE stops whatever tone is there (R11). -/
theorem keepsTones_closePosition (p : PosIx) (s : State) : KeepsTones s (closePosition p s) := by
  have hended : KeepsTones s (endIfCalled p s) := .ite (keepsTones_clearCall p s) .rfl
  have hcleared := (setsTone_setCall p .vacant (endIfCalled p s)).same (sameTones_clearPlayer p .agent .cleared _)
  have hquiet := hcleared.clearTone.keeps fun h => h.within.stopped _
  rw [closePosition_eq]
  exact (hended.trans hquiet).same (sameTones_closedRecord p _)

theorem sameTones_resetRecord (p : PosIx) (s : State) : SameTones s (putPos s p (resetRecord p (getPos s p))) :=
  sameTones_putPos (Eq.refl _)

theorem keepsTones_resetPosition (p : PosIx) (s : State) : KeepsTones s (resetPosition p s) := by
  have hzeroed : SameTones s (windowZeroed p s) := sameTones_putCanceller _
  have hclosed : KeepsTones s (closeIfOpen p (windowZeroed p s)) :=
    hzeroed.keeps.trans (.ite .rfl (keepsTones_closePosition ..))
  rw [resetPosition_eq]
  exact hclosed.same (sameTones_resetRecord p _)

/-- Whatever the part was, a reset of every position is a reset of every tone unit (R156). -/
theorem keepsTones_allReset (h : t.positions = positionsAtReset) : KeepsTones s t := by
  refine ⟨fun p _ => ?_⟩
  have hr : getPos t p = positionAtReset p := by rw [getPos, h, ← getPos_reset p]; rfl
  rw [hr]
  exact toneOk_reset p

end

end Sys2Proof.Machine

/-! # Every command keeps the tones within their ranges (R157, R160, R161) -/

namespace Sys2Proof.Machine

section
variable {s t : State} {p : PosIx}

theorem keepsTones_onPosition (src : Nat) {act : PosIx → Answer} (h : ∀ p, KeepsTones s (act p).1) :
    KeepsTones s (onPosition s src act).1 := onPosition_keeps (P := KeepsTones s) src .rfl h

/-- A unit put by a command, with the draw of the bursts that the reply shows (log entry 29). -/
theorem keepsTones_putTone {x : Tone} (hx : ToneFits (getPos s p).call (getPos s p).tone → ToneFits (getPos s p).call x) :
    KeepsTones s (spendDraw (putPos s p { getPos s p with tone := x })) :=
  ((setsTone_putPos s p { getPos s p with tone := x }).keeps hx).same (sameTones_spendDraw _)

end

section
variable (src : Nat) (b : List Byte) (s : State)

theorem byteAt_le (i : Nat) : byteAt b i ≤ 255 := Nat.le_of_lt_succ (b.getD i 0).isLt

/-- TONE-START stores what its checks and clamps let pass (R157). -/
theorem keepsTones_toneStart : KeepsTones s (toneStartCommand src b s).1 := by
  refine keepsTones_onPosition src fun p => ?_
  split
  · exact .rfl
  · split
    · exact .rfl
    · rename_i hlevel
      split
      · exact .rfl
      · rename_i hallowed
        exact keepsTones_putTone fun _ =>
          toneFits_started (Nat.le_of_not_lt hlevel) (byteAt_le b 7) (by simpa using hallowed) _ _ _

theorem keepsTones_toneStop : KeepsTones s (toneStopCommand src s).1 :=
  keepsTones_onPosition src fun _ => keepsTones_putTone fun h => h.within.stopped _

theorem keepsTones_resetCommand : KeepsTones s (resetCommand src b s).1 := by
  unfold resetCommand
  split
  · exact .rfl
  · split
    · refine onDevice_keeps (P := KeepsTones s) src .rfl ?_
      split
      · exact .rfl
      · exact taken_keeps (P := KeepsTones s) (keepsTones_allReset rfl)
    · exact keepsTones_onPosition src fun p => keepsTones_resetPosition p s

/-- A parameter is no part of a call or a tone (R181). -/
theorem sameTones_params : SameTones s (setParamCommand src b s).1 ∧ SameTones s (getParamCommand src b s).1 := by
  unfold setParamCommand getParamCommand
  dsimp only
  split
  · exact ⟨.rfl, .rfl⟩
  · split
    · exact ⟨sameTones_putPos rfl, .rfl⟩
    · exact ⟨.rfl, .rfl⟩
  · split
    · exact ⟨.of_positions rfl, .rfl⟩
    · exact ⟨.rfl, .rfl⟩

/-- The commands of a call keep the tones (R4 to R11). -/
theorem keepsTones_callCommands :
    KeepsTones s (posOpenCommand src s).1 ∧ KeepsTones s (posCloseCommand src s).1 ∧ KeepsTones s (callOfferCommand src b s).1 ∧
      KeepsTones s (callConnectCommand src s).1 ∧ KeepsTones s (callHoldCommand src b s).1 ∧
      KeepsTones s (callClearCommand src s).1 := by
  refine ⟨?_, ?_, ?_, ?_, ?_, ?_⟩ <;> refine keepsTones_onPosition src fun p => ?_
  · split
    · exact keepsTones_openPosition ‹_›
    · exact .rfl
  · exact taken_keeps (P := KeepsTones s) (.ite .rfl (keepsTones_closePosition p s))
  · split
    · exact .rfl
    · split
      · exact .rfl
      · split
        · exact .rfl
        · split
          · exact .rfl
          · exact keepsTones_takeOffer ..
  · have hconnected : KeepsTones s (setCall p .connected s) := keepsTones_setCall rfl
    split
    · exact taken_keeps (P := KeepsTones s) ((hconnected.same (sameTones_clearPlayer ..)).same (sameTones_clearPlayer ..))
    · exact taken_keeps (P := KeepsTones s) (hconnected.same (sameTones_clearPlayer ..))
    all_goals exact .rfl
  · split
    · exact .rfl
    · split
      · exact .rfl
      · have hheld : KeepsTones s (setCall p .held s) := keepsTones_setCall rfl
        exact taken_keeps (P := KeepsTones s) (hheld.same (sameTones_playItem p .net .only _ _))
  · split
    · exact taken_keeps (P := KeepsTones s) (keepsTones_clearCall p s)
    · exact .rfl

/-- The commands of the players keep the tones, a whisper done included (R7, R125, R136). -/
theorem keepsTones_playerCommands :
    KeepsTones s (playCommand src b s).1 ∧ KeepsTones s (stopCommand src b s).1 := by
  refine ⟨?_, ?_⟩ <;> refine keepsTones_onPosition src fun p => ?_
  · split
    · split
      · exact .rfl
      · split
        · exact .rfl
        · dsimp only
          split
          · exact .rfl
          · exact (sameTones_playItem ..).keeps
    · exact .rfl
  · split
    · exact (sameTones_endCurrent ..).keeps.trans (keepsTones_whisperCheck ..)
    · exact (sameTones_clearPlayer ..).keeps.trans (keepsTones_whisperCheck ..)
    · exact .rfl

/-- The other commands of a position leave the calls and the tones (R12, R77 to R79, R87, R140). -/
theorem sameTones_unitCommands :
    SameTones s (muteCommand src b s).1 ∧ SameTones s (ecModeCommand src b s).1 ∧ SameTones s (ecFreezeCommand src b s).1 ∧
      SameTones s (searchCommand src b s).1 ∧ SameTones s (windowSetCommand src b s).1 ∧
      SameTones s (playerStatusCommand src s).1 := by
  refine ⟨?_, ?_, ?_, ?_, ?_, ?_⟩ <;> refine onPosition_keeps (P := SameTones s) src .rfl fun p => ?_
  · split
    · exact .rfl
    · split
      · exact .rfl
      · exact sameTones_putPos rfl
  · split
    · exact .rfl
    · exact sameTones_changeMode ..
  · split
    · exact .rfl
    · exact sameTones_putCanceller _
  · split
    · exact .rfl
    · split
      · exact sameTones_placeRequest ..
      · exact .rfl
  · split
    · exact .rfl
    · exact sameTones_putCanceller _
  · exact .of_positions rfl

/-- The commands of the store touch the store alone (R107 to R113, R116). -/
theorem storeless_storeCommands :
    storeless (clipAllocCommand src b s).1 = storeless s ∧ storeless (clipWriteCommand src b s).1 = storeless s ∧
      storeless (clipEndCommand src b s).1 = storeless s ∧ storeless (clipFreeCommand src b s).1 = storeless s ∧
      storeless (clipInfoCommand src b s).1 = storeless s ∧ storeless (storeCompactCommand src s).1 = storeless s ∧
      storeless (expandLoadCommand src b s).1 = storeless s := by
  have hdevice : ∀ {act : Answer}, storeless act.1 = storeless s → storeless (onDevice s src act).1 = storeless s :=
    fun h => onDevice_keeps (P := fun t => storeless t = storeless s) src rfl h
  have hclip : ∀ {id act}, (∀ c, storeless (act c).1 = storeless s) → storeless (onDevice s src (onClip s id act)).1 = storeless s :=
    fun h => hdevice (onClip_keeps (P := fun t => storeless t = storeless s) _ rfl h)
  refine ⟨hclip fun c => ?_, hclip fun c => ?_, hclip fun c => ?_, hclip fun c => ?_, hclip fun c => rfl, hdevice ?_, hdevice rfl⟩
  · dsimp only
    (repeat' split) <;> rfl
  · dsimp only
    (repeat' split) <;> rfl
  · dsimp only
    split <;> rfl
  · (repeat' split) <;> rfl
  · (repeat' split) <;> rfl

/-- The commands of the streams leave the units of the positions, but for the players of a stream that closes (R144 to R147, R152). -/
theorem keepsTones_streamCommands :
    KeepsTones s (streamOpenCommand src b s).1 ∧ KeepsTones s (streamFillCommand src b s).1 ∧
      (∀ act, KeepsTones s (streamRunCommand act src b s).1) ∧ KeepsTones s (streamCloseCommand src b s).1 := by
  have hstream : ∀ {id act}, (∀ i, KeepsTones s (act i).1) → KeepsTones s (onDevice s src (onStream s id act)).1 :=
    fun h => onDevice_keeps (P := KeepsTones s) src .rfl (onStream_keeps (P := KeepsTones s) _ .rfl h)
  refine ⟨hstream fun i => SameTones.keeps (.of_storeless ?_), hstream fun i => SameTones.keeps (.of_storeless ?_), fun act => ?_,
    hstream fun i => ?_⟩
  · dsimp only
    (repeat' split) <;> rfl
  · dsimp only
    (repeat' split) <;> rfl
  · refine onDevice_keeps (P := KeepsTones s) src .rfl ?_
    split
    · exact .rfl
    · refine onStream_keeps (P := KeepsTones s) _ .rfl fun i => SameTones.keeps (.of_storeless ?_)
      split <;> rfl
  · split
    · exact .rfl
    · exact keepsTones_closeStream i s

/-- Every command keeps the tones within their ranges (R177). -/
theorem keepsTones_perform (c : Command) : KeepsTones s (perform c src b s).1 := by
  obtain ⟨hset, hget⟩ := sameTones_params src b s
  obtain ⟨hopen, hclose, hoffer, hconnect, hhold, hclear⟩ := keepsTones_callCommands src b s
  obtain ⟨hplay, hstop⟩ := keepsTones_playerCommands src b s
  obtain ⟨hmute, hmode, hfreeze, hsearch, hwindow, hplayers⟩ := sameTones_unitCommands src b s
  obtain ⟨hsleep, hwake, hport, hports⟩ := portless_portCommands src b s
  obtain ⟨halloc, hwrite, hend, hfree, hinfo, hcompact, hload⟩ := storeless_storeCommands src b s
  obtain ⟨hsopen, hfill, hrun, hsclose⟩ := keepsTones_streamCommands src b s
  cases c with
  | reset => exact keepsTones_resetCommand src b s
  | sleep => exact (SameTones.of_portless hsleep).keeps
  | wake => exact (SameTones.of_portless hwake).keeps
  | portSet => exact (SameTones.of_portless hport).keeps
  | portStatus => exact (SameTones.of_portless hports).keeps
  | setParam => exact hset.keeps
  | getParam => exact hget.keeps
  | posOpen => exact hopen
  | posClose => exact hclose
  | callOffer => exact hoffer
  | callConnect => exact hconnect
  | callHold => exact hhold
  | callClear => exact hclear
  | mute => exact hmute.keeps
  | posStatus => exact keepsTones_onPosition src fun _ => .rfl
  | ecMode => exact hmode.keeps
  | ecFreeze => exact hfreeze.keeps
  | search => exact hsearch.keeps
  | windowSet => exact hwindow.keeps
  | ecStatus => exact keepsTones_onPosition src fun _ => .rfl
  | play => exact hplay
  | stop => exact hstop
  | playerStatus => exact hplayers.keeps
  | toneStart => exact keepsTones_toneStart src b s
  | toneStop => exact keepsTones_toneStop src s
  | clipAlloc => exact (SameTones.of_storeless halloc).keeps
  | clipWrite => exact (SameTones.of_storeless hwrite).keeps
  | clipEnd => exact (SameTones.of_storeless hend).keeps
  | clipFree => exact (SameTones.of_storeless hfree).keeps
  | clipInfo => exact (SameTones.of_storeless hinfo).keeps
  | storeCompact => exact (SameTones.of_storeless hcompact).keeps
  | expandLoad => exact (SameTones.of_storeless hload).keeps
  | streamOpen => exact hsopen
  | streamFill => exact hfill
  | streamStart => exact hrun startedStream
  | streamStop => exact hrun haltedStream
  | streamClose => exact hsclose
  | streamStatus => exact onDevice_keeps (P := KeepsTones s) src .rfl (onStream_keeps (P := KeepsTones s) _ .rfl fun _ => .rfl)

end

/-! ## The link (R174 to R177, R180) -/

theorem keepsTones_putLink (s t : State) (l : Link) (h : KeepsTones s t) : KeepsTones s (putLink t l) := h.same (.of_positions rfl)

theorem keepsTones_writeFrame (f : Frame) (s : State) : KeepsTones s (writeFrame f s) :=
  writeFrame_keeps (P := KeepsTones s) (keepsTones_putLink s) (fun c src b t ht => ht.trans (keepsTones_perform src b t c)) f s .rfl

theorem keepsTones_readTransaction (e : ReadEvent) (s : State) : KeepsTones s (readTransaction e s) :=
  readTransaction_keeps (P := KeepsTones s) (keepsTones_putLink s)
    (fun c src b t ht => ht.trans (keepsTones_perform src b t c)) e s .rfl

theorem keepsTones_frameFault (s : State) : KeepsTones s (frameFault s) :=
  linkEvent_keeps (P := KeepsTones s) (keepsTones_putLink s) _ _ _ .rfl

end Sys2Proof.Machine

/-! # Every slice and every event keeps the tones within their ranges (R158 to R160) -/

namespace Sys2Proof.Machine

/-! ## The slice of a position (R15) -/

/-- A slice leaves its position the tone unit of its cadence, and the players and the canceller of the stages. -/
theorem keepsTones_settleSlice (p : PosIx) (s : State) : KeepsTones s (settleSlice p (stages p s) s) := by
  have hput := setsTone_putPos s p (sliceRecord (stages p s) (getPos s p))
  have hb := settleSlice_beside p (stages p s) s
  exact (hput.keeps fun h => h.slice (tone_plays p s)).same (.of_positions hb.positions)

theorem sameTones_sliceRequests (p : PosIx) (w : SliceWork) (s : State) : SameTones s (sliceRequests p w s) :=
  .ite (sameTones_placeRequest ..) .rfl

theorem sameTones_sliceJudgement (p : PosIx) (searched : Bool) (s : State) : SameTones s (sliceJudgement p searched s).1 := by
  unfold sliceJudgement
  split
  · exact .rfl
  · split
    · exact sameTones_judgeSearch ..
    · exact .rfl

theorem keepsTones_judgedSlice (p : PosIx) (s : State) : KeepsTones s (judgedSlice p s).1 :=
  ((keepsTones_settleSlice p s).same (sameTones_sliceRequests ..)).same (sameTones_sliceJudgement ..)

theorem keepsTones_sliceAct (p : PosIx) (s : State) (a : SliceAct) (t : State) : KeepsTones t (sliceAct p s a t) := by
  cases a with
  | players => exact (sameTones_raiseAll _ t).keeps.trans (keepsTones_whisperCheck ..)
  | level | tone | echo => exact (sameTones_raiseAll _ t).keeps

theorem keepsTones_positionSlice (p : PosIx) (s : State) : KeepsTones s (positionSlice p s) := by
  refine .ite ?_ .rfl
  rw [processSlice_eq]
  refine inFreeOrder_keeps (P := KeepsTones s) _ _ (keepsTones_judgedSlice p s) ?_ fun t ht => ht.same (.of_positions rfl)
  intro act ha t ht
  obtain ⟨a, -, rfl⟩ := List.mem_map.1 ha
  exact ht.trans (keepsTones_sliceAct p s a t)

/-! ## The slice period (R24) -/

theorem keepsTones_endPeriod (s : State) : KeepsTones s (endPeriod s) := by
  have hslices : KeepsTones s (finishSlices s) := KeepsTones.same
    (foldl_keeps (P := KeepsTones s) (fun t p ht => ht.trans (keepsTones_positionSlice p t)) (dueOrder s) s .rfl) (.of_positions rfl)
  refine .ite (inFreeOrder_keeps (P := KeepsTones s) _ _ hslices ?_ fun t ht => ht.same (.of_positions rfl)) .rfl
  intro act ha t ht
  simp only [List.mem_cons, List.not_mem_nil, or_false] at ha
  obtain rfl | rfl := ha
  · exact ht.same (.of_portless (portless_handEarpiece t))
  · exact ht.same (.of_storeless (storeless_finishMove t))

theorem sameTones_beginPeriod (netIn posIn : AudioBlock) (group : Option AudioBlock) (s : State) :
    SameTones s (beginPeriod netIn posIn group s) := by
  have hdue : SameTones s (dueSlices (putPeriod (putPorts s (clearedOutputs s.ports)) (startedPeriod netIn s.ports))) :=
    ⟨fun p => by rw [getPos_dueSlices]; rfl⟩
  refine inFreeOrder_keeps (P := SameTones s) _ _ hdue ?_ fun t ht => ht.trans (.of_positions rfl)
  intro act ha t ht
  have hfix : ∀ i, SameTones s (fixOne i t) := fun i => ht.trans (.of_storeless (storeless_fixOne t i))
  simp only [List.mem_cons, List.not_mem_nil, or_false] at ha
  obtain rfl | rfl | rfl | rfl | rfl | rfl := ha
  · exact ht.trans (.of_portless (portless_receiveMic t posIn group))
  · exact hfix 0
  · exact hfix 1
  · exact hfix 2
  · exact hfix 3
  · exact ht.trans (.of_storeless (storeless_compactPeriod t))

theorem keepsTones_slicePeriod (netIn posIn : AudioBlock) (group : Option AudioBlock) (s : State) :
    KeepsTones s (slicePeriod netIn posIn group s) := by
  have hgroup : SameTones s (groupBefore group s) := .of_portless (portless_groupBefore s group)
  exact .ite .rfl ((hgroup.keeps.trans (keepsTones_endPeriod _)).same (sameTones_beginPeriod ..))

/-! ## The events -/

section
variable (p : PosIx) (s : State)

/-- The events of the suppressor and of the canceller leave the tones (R30, R39, R47, R60, R65 to R68). -/
theorem sameTones_unitEvents (a b : Nat) :
    SameTones s (raiseMicFloor p a s) ∧ SameTones s (raiseCallerFloor p a s) ∧ SameTones s (expireVad p a s) ∧
      SameTones s (refreshDue p s) ∧ SameTones s (expireDoubleTalk p a b s) ∧ SameTones s (converge p s) ∧
      SameTones s (diverge p a b s) ∧ SameTones s (loseErle p s) ∧ SameTones s (expireResearch p s) := by
  have hsup : ∀ x, SameTones s (putSuppressor s p x) := fun x => sameTones_putPos rfl
  have hcan : ∀ c, SameTones s (putCanceller s p c) := fun c => sameTones_putCanceller c
  have hevent : ∀ ev c, SameTones s (cancellerEvent p ev c s) := fun ev c => (hcan c).trans (sameTones_raise ..)
  have hask : ∀ c, SameTones s (placeRequest p autoShort (putCanceller s p c)).1 := fun c =>
    (hcan c).trans (sameTones_placeRequest ..)
  exact ⟨.ite (hsup _) .rfl, .ite (hcan _) .rfl, .ite (hsup _) .rfl, .ite ((hsup _).trans (sameTones_raiseAll ..)) .rfl,
    .ite (hcan _) .rfl, .ite (hevent ..) .rfl, .ite (hevent ..) .rfl, .ite (.ite (hask _) (hcan _)) .rfl, .ite (hask _) .rfl⟩

theorem sameTones_endInFlight (due : InFlight → Bool) {finish : InFlight → State → State × ReportBody}
    (hf : ∀ f, SameTones s (finish f s).1) : SameTones s (endInFlight due finish s) := by
  unfold endInFlight
  split
  · exact .rfl
  · exact .ite ((hf _).trans (sameTones_raise ..)) .rfl

theorem keepsTones_endPass (w : PlayerId) : KeepsTones s (endPass p w s) := by
  unfold endPass
  split
  · exact .rfl
  · dsimp only
    split
    · exact ((sameTones_player (bare_settleRun ..)).trans (sameTones_raiseAll ..)).keeps.trans (keepsTones_whisperCheck ..)
    · exact .rfl

/-- The end of a burst keeps its tone within its ranges (R159 step 2). -/
theorem keepsTones_completeBurst : KeepsTones s (completeBurst p s) := by
  unfold completeBurst
  dsimp only
  split
  · rename_i hdue
    obtain ⟨-, hr, ho⟩ := hdue
    have hput := setsTone_putPos s p { getPos s p with tone := (burstCompletes (getPos s p).tone).1 }
    exact (hput.keeps fun h => h.burstCompletes hr ho).same (sameTones_raiseAll ..)
  · exact .rfl

/-- A new cycle keeps its tone within its ranges (R159 step 3). -/
theorem keepsTones_beginCycle : KeepsTones s (beginCycle p s) := by
  have hput := setsTone_putPos s p { getPos s p with tone := newCycle (getPos s p).tone }
  exact .ite (hput.keeps fun h => h.newCycle) .rfl

end

/-! ## Every step -/

theorem keepsTones_exec (i : Instr) {s t : State} (he : exec i s = .next t) : KeepsTones s t := by
  cases i with
  | powerOn | resetPin => cases he; exact keepsTones_allReset rfl
  | frameError len followed => cases he; exact .ite (keepsTones_frameFault s) .rfl
  | read e => cases he; exact keepsTones_readTransaction e s
  | frameArrival | linkClear | badKind | resetDevice | resetPosition | sleep | wake | portSet | portStatus | setParam | getParam
  | posOpen | posClose | callOffer | callConnect | callHold | callClear | mute | posStatus | ecMode | ecFreeze | search | windowSet
  | ecStatus | playNow | playInterrupt | playNext | playOnly | stopCurrent | stopAll | playerStatus | toneStart | toneStop | clipAlloc
  | clipWrite | clipEnd | clipFree | clipInfo | storeCompact | expandLoad | streamOpen | streamFill | streamStart | streamStop
  | streamClose | streamStatus => cases he; exact keepsTones_writeFrame _ s
  | slicePeriod netIn posIn group => cases he; exact keepsTones_slicePeriod netIn posIn group s
  | positionSlice p => cases he; exact keepsTones_positionSlice p s
  | floorTrackerRise p which level =>
    cases he
    obtain ⟨hmic, hcaller, -⟩ := sameTones_unitEvents p s level 0
    cases which with
    | microphone => exact hmic.keeps
    | callerPath => exact hcaller.keeps
  | vadHangoverExpiry p ratio => cases he; obtain ⟨-, -, h, -⟩ := sameTones_unitEvents p s ratio 0; exact h.keeps
  | boostRefresh p => cases he; obtain ⟨-, -, -, h, -⟩ := sameTones_unitEvents p s 0 0; exact h.keeps
  | doubleTalkHangoverExpiry p a b => cases he; obtain ⟨-, -, -, -, h, -⟩ := sameTones_unitEvents p s a b; exact h.keeps
  | converged p => cases he; obtain ⟨-, -, -, -, -, h, -⟩ := sameTones_unitEvents p s 0 0; exact h.keeps
  | diverged p a b => cases he; obtain ⟨-, -, -, -, -, -, h, -⟩ := sameTones_unitEvents p s a b; exact h.keeps
  | lossOfErle p => cases he; obtain ⟨-, -, -, -, -, -, -, h, -⟩ := sameTones_unitEvents p s 0 0; exact h.keeps
  | researchPeriodExpiry p => cases he; obtain ⟨-, -, -, -, -, -, -, -, h⟩ := sameTones_unitEvents p s 0 0; exact h.keeps
  | searchStart => cases he; exact (sameTones_startHead s).keeps
  | searchCompletes => cases he; exact SameTones.keeps (sameTones_endInFlight s _ fun f => sameTones_endSearch _ _ f s)
  | timedOut => cases he; exact SameTones.keeps (sameTones_endInFlight s _ fun f => sameTones_endSearch _ _ f s)
  | passEnd p which => cases he; exact keepsTones_endPass p s which
  | burstComplete p => cases he; exact keepsTones_completeBurst p s
  | newCycle p => cases he; exact keepsTones_beginCycle p s
  | halfEmpty k => cases he; exact (SameTones.of_storeless (storeless_emptyHalfOf s k)).keeps
  | turn => cases he; exact (SameTones.ite (.of_storeless (storeless_takeTurn s)) .rfl).keeps
  | moveCompletes => cases he; exact (SameTones.of_storeless (storeless_finishMove s)).keeps
  | frameSync port distance => cases he; exact (SameTones.ite (.of_portless (portless_takeSync s port distance)) .rfl).keeps
  | missingSync port => cases he; exact (SameTones.ite (.of_portless (portless_missSync s port)) .rfl).keeps
  | positionPortGroup x => cases he; exact (SameTones.of_portless (portless_completeGroup s x)).keeps

/-- Settles O9: each part of a step sets a tone within its ranges that the call state allows, or leaves the calls and the tones, or
brings a call state that allows the tone. -/
theorem stepKeepsTheTones : Obligations.StepKeepsTheTones := by
  unfold Obligations.StepKeepsTheTones
  intro s t h hs p
  rw [step] at hs
  split at hs
  · cases hs
    exact h p
  · rename_i c rest _
    have hrest : SameTones s { s with pending := rest } := .of_positions rfl
    exact (hrest.keeps.trans (keepsTones_exec c hs)).ok p (h p)

end Sys2Proof.Machine

/-! # TONE-START and TONE-STOP (R157, R161) -/

namespace Sys2Proof.Machine

/-- The body of a TONE-START (R157). -/
def toneBytes (frequency : BitVec 16) (level : Byte) (period onTime : BitVec 16) (bursts route : Byte) : List Byte :=
  bytes16 frequency ++ [level] ++ bytes16 period ++ bytes16 onTime ++ [bursts, route]

/-! ## The body and its values -/

section
variable (frequency : BitVec 16) (level : Byte) (period onTime : BitVec 16) (bursts route : Byte)

theorem toneBytes_bytes :
    byteAt (toneBytes frequency level period onTime bursts route) 2 = level.toNat ∧
      byteAt (toneBytes frequency level period onTime bursts route) 7 = bursts.toNat ∧
      byteAt (toneBytes frequency level period onTime bursts route) 8 = route.toNat := ⟨rfl, rfl, rfl⟩

theorem toneBytes_numbers :
    u16At (toneBytes frequency level period onTime bursts route) 0 = frequency.toNat ∧
      u16At (toneBytes frequency level period onTime bursts route) 3 = period.toNat ∧
      u16At (toneBytes frequency level period onTime bursts route) 5 = onTime.toNat := by
  simp [toneBytes, u16At, byteAt, bytes16]

end

/-- The increment is the nearest integer to f × 65,536 / 16,000 (R157). -/
theorem phaseIncrement_eq (f : Nat) : phaseIncrement f = (f * 65536 + 8000) / 16000 := by
  unfold phaseIncrement
  omega

theorem routeOfCode_bad {code : Nat} (h : 2 < code) : routeOfCode code = none := by
  obtain ⟨k, rfl⟩ := Nat.exists_eq_add_of_le' h
  rfl

theorem routeAllowed_false_iff (c : CallState) (r : Route) :
    routeAllowed c r = false ↔ c = .vacant ∨ (r ≠ .ear ∧ callPresent c = false) := by
  rw [← Bool.not_eq_true, routeAllowed_iff, routeHasNet_iff, not_and_or, not_ne_iff, Classical.not_imp,
    Bool.not_eq_true]

theorem okOrClamped_three (a b c d e f : Nat) :
    okOrClamped (decide (a ≠ b ∨ c ≠ d ∨ e ≠ f)) = if a = b ∧ c = d ∧ e = f then .ok else .clamped := by
  rw [← okOrClamped_ne, decide_eq_decide.2]
  omega

/-! ## TONE-START by its route -/

section
variable {s : State} {p : PosIx} {frequency period onTime : BitVec 16} {level bursts route : Byte} {way : Route}

/-- The answer of a TONE-START that is taken (R157). -/
def toneStarted (s : State) (p : PosIx) (x : Tone) (f frequency period onTime : Nat) : Answer :=
  (spendDraw (putPos s p { getPos s p with tone := x }),
    okOrClamped (decide (f ≠ frequency ∨ x.period ≠ period ∨ x.onTime ≠ onTime)),
    [.num 2 f, .num 2 x.increment, .num 2 x.period, .num 2 x.onTime, byteField (flagCode (getPos s p).tone.running),
      byteField (burstsShown s.draws (getPos s p).tone)])

theorem toneStartCommand_noRoute (hs : s.ports.standby = false) (hr : routeOfCode route.toNat = none) :
    toneStartCommand (sourceByte p).toNat (toneBytes frequency level period onTime bursts route) s = refuse s .badValue := by
  obtain ⟨-, -, hroute⟩ := toneBytes_bytes frequency level period onTime bursts route
  rw [toneStartCommand, onPosition_awake hs, hroute, hr]

theorem toneStartCommand_route (hs : s.ports.standby = false) (hr : routeOfCode route.toNat = some way) :
    toneStartCommand (sourceByte p).toNat (toneBytes frequency level period onTime bursts route) s =
      if 63 < level.toNat then refuse s .badValue
      else if routeAllowed (getPos s p).call way = false then refuse s .badState
      else toneStarted s p (startedTone frequency.toNat level.toNat period.toNat onTime.toNat bursts.toNat way)
        (clampNat frequency.toNat 100 7900) frequency.toNat period.toNat onTime.toNat := by
  obtain ⟨hlevel, hbursts, hroute⟩ := toneBytes_bytes frequency level period onTime bursts route
  obtain ⟨hf, hp, ho⟩ := toneBytes_numbers frequency level period onTime bursts route
  rw [toneStartCommand, onPosition_awake hs, hroute, hr, hlevel, hbursts, hf, hp, ho]
  rfl

theorem exec_toneStart_awake (h : Awake s) (tag : Byte) :
    exec (.toneStart (sourceByte p) tag frequency level period onTime bursts route) s =
      .next (answered 0xA4 (sourceByte p) tag
        (toneStartCommand (sourceByte p).toNat (toneBytes frequency level period onTime bursts route) s)) :=
  exec_toneStart h.1 ..

end

/-- Settles O44: the checks in R157's order, then the tone of the clamped values. -/
theorem toneStartAndStop : Obligations.ToneStartAndStop := by
  unfold Obligations.ToneStartAndStop
  intro s p tag level bursts route frequency period onTime h r start f inc per on before
  refine ⟨fun hbad => ?_, fun hlevel way hway => ?_, ?_⟩
  · have hrefused : toneStartCommand (sourceByte p).toNat (toneBytes frequency level period onTime bursts route) s =
        refuse s .badValue := by
      cases hr : routeOfCode route.toNat with
      | none => exact toneStartCommand_noRoute h.2 hr
      | some way =>
        have hlevel : 63 < level.toNat := hbad.resolve_right fun hroute => by simp [routeOfCode_bad hroute] at hr
        rw [toneStartCommand_route h.2 hr, if_pos hlevel]
    exact (exec_toneStart_awake h tag).trans (by rw [hrefused, answered_refuse])
  · have hr : routeOfCode route.toNat = some way := by obtain ⟨rfl, rfl⟩ | ⟨rfl, rfl⟩ | ⟨rfl, rfl⟩ := hway <;> rfl
    have hstart : start = .next (answered 0xA4 (sourceByte p) tag
        (toneStartCommand (sourceByte p).toNat (toneBytes frequency level period onTime bursts route) s)) := exec_toneStart_awake h tag
    rw [toneStartCommand_route h.2 hr, if_neg (Nat.not_lt.2 hlevel)] at hstart
    refine ⟨fun hno => ?_, fun hv hc => ?_⟩
    · rw [hstart, if_pos ((routeAllowed_false_iff ..).2 hno), answered_refuse]
    · have hallowed : ¬routeAllowed (getPos s p).call way = false := fun hno =>
        ((routeAllowed_false_iff ..).1 hno).elim hv fun ⟨hne, hcall⟩ => hc.elim hne fun hp => by simp [r, hcall] at hp
      have hinc : inc = phaseIncrement f := (phaseIncrement_eq f).symm
      rw [hstart, if_neg hallowed, hinc, ← okOrClamped_three]
      rfl
  · rw [exec_toneStop h.1, perform, toneStopCommand, onPosition_awake h.2]
    rfl

end Sys2Proof.Machine

/-! # The ports in order (R162 to R167, R169, R170)

The ports one by one, and the elastic buffers apart from them. -/

namespace Sys2Proof.Machine

/-- The words that a port sends (R164). -/
def outputOf (r : Ports) : PortId → AudioBlock
  | .network => r.ndout
  | .position => r.pdout

/-- A port in order, which is silent unless it is LOCKED (R162 to R164). -/
structure PortHolds (r : Ports) (id : PortId) : Prop where
  port : PortOk r.standby (portOf r id)
  quiet : (portOf r id).state ≠ .locked → outputOf r id = silentBlock

/-- Every slip counter stops at 65,535 (R166). -/
def SlipsOk (c : Slips) : Prop := c.rxOver ≤ 65535 ∧ c.rxUnder ≤ 65535 ∧ c.txOver ≤ 65535 ∧ c.txUnder ≤ 65535

/-- The elastic buffers and the slip counters in order (R166, R167). -/
structure BuffersOk (r : Ports) : Prop where
  rx : r.rx.length ≤ 3
  tx : r.tx.length ≤ 3
  slips : SlipsOk r.slips
  idle : buffering r = false → r.rx = [] ∧ r.tx = [] ∧ r.grouping = false
  first : groupsToBegin r = true → r.tx ≠ []

theorem portsOk_iff (r : Ports) : PortsOk r ↔ (∀ id, PortHolds r id) ∧ BuffersOk r := by
  constructor
  · rintro ⟨hnet, hpos, hrx, htx, hslips, hidle, hfirst, hnd, hpd⟩
    refine ⟨fun id => ?_, hrx, htx, hslips, hidle, hfirst⟩
    cases id with
    | network => exact ⟨hnet, hnd⟩
    | position => exact ⟨hpos, hpd⟩
  · rintro ⟨hport, hrx, htx, hslips, hidle, hfirst⟩
    exact ⟨(hport .network).port, (hport .position).port, hrx, htx, hslips, hidle, hfirst, (hport .network).quiet,
      (hport .position).quiet⟩

theorem PortsOk.holds {r : Ports} (h : PortsOk r) (id : PortId) : PortHolds r id := ((portsOk_iff r).1 h).1 id

theorem PortsOk.buffers {r : Ports} (h : PortsOk r) : BuffersOk r := ((portsOk_iff r).1 h).2

/-! ## Counters and buffers -/

theorem bump16_le (n : Nat) : bump16 n ≤ 65535 := Nat.min_le_right _ _

theorem bumpIf_le {c : Prop} [Decidable c] {n : Nat} (h : n ≤ 65535) : (if c then bump16 n else n) ≤ 65535 := by
  split
  · exact bump16_le n
  · exact h

theorem slipsOk_zero : SlipsOk zeroSlips := by simp [SlipsOk, zeroSlips]

section
variable {r q : Ports} {id : PortId}

theorem buffering_iff (r : Ports) : buffering r = true ↔ r.position.role = .slave ∧ r.position.state = .locked := by
  simp [buffering]

theorem groupsToBegin_iff (r : Ports) : groupsToBegin r = true ↔ buffering r = true ∧ r.grouping = false := by
  simp [groupsToBegin]

/-- Outside a LOCKED slave Position Port the buffers are empty (R167). -/
theorem buffersOk_empty (hb : buffering r = false) (hs : SlipsOk r.slips) (hrx : r.rx = []) (htx : r.tx = [])
    (hg : r.grouping = false) : BuffersOk r where
  rx := by simp [hrx]
  tx := by simp [htx]
  slips := hs
  idle _ := ⟨hrx, htx, hg⟩
  first h := by simp [groupsToBegin, hb] at h

/-- What the buffers of a LOCKED slave Position Port need. -/
theorem buffersOk_locked (hb : buffering r = true) (hs : SlipsOk r.slips) (hrx : r.rx.length ≤ 3) (htx : r.tx.length ≤ 3)
    (hg : groupsToBegin r = true → r.tx ≠ []) : BuffersOk r where
  rx := hrx
  tx := htx
  slips := hs
  idle h := by simp [hb] at h
  first := hg

/-- The buffers of ports whose Network Port and outputs are other ones. -/
theorem BuffersOk.congr (h : BuffersOk r) (hp : q.position = r.position) (hrx : q.rx = r.rx) (htx : q.tx = r.tx)
    (hg : q.grouping = r.grouping) (hs : q.slips = r.slips) : BuffersOk q := by
  have hb : buffering q = buffering r := by rw [buffering, buffering, hp]
  have hf : groupsToBegin q = groupsToBegin r := by rw [groupsToBegin, groupsToBegin, hb, hg]
  obtain ⟨h1, h2, h3, h4, h5⟩ := h
  exact ⟨hrx ▸ h1, htx ▸ h2, hs ▸ h3, by rw [hb, hrx, htx, hg]; exact h4, by rw [hf, htx]; exact h5⟩

theorem PortHolds.congr (h : PortHolds r id) (hs : q.standby = r.standby) (hp : portOf q id = portOf r id)
    (ho : outputOf q id = outputOf r id) : PortHolds q id := ⟨by rw [hs, hp]; exact h.port, by rw [hp, ho]; exact h.quiet⟩

/-- Another Network Port leaves the buffers alone. -/
theorem PortsOk.setNetwork (h : PortsOk r) (hself : PortHolds q .network) (hs : q.standby = r.standby) (hp : q.position = r.position)
    (ho : q.pdout = r.pdout) (hrx : q.rx = r.rx) (htx : q.tx = r.tx) (hg : q.grouping = r.grouping) (hc : q.slips = r.slips) :
    PortsOk q := by
  refine (portsOk_iff q).2 ⟨fun id => ?_, h.buffers.congr hp hrx htx hg hc⟩
  cases id with
  | network => exact hself
  | position => exact (h.holds .position).congr hs hp ho

/-- Another Position Port, with what it makes of the buffers. -/
theorem PortsOk.setPosition (h : PortsOk r) (hself : PortHolds q .position) (hs : q.standby = r.standby) (hn : q.network = r.network)
    (ho : q.ndout = r.ndout) (hb : BuffersOk q) : PortsOk q := by
  refine (portsOk_iff q).2 ⟨fun id => ?_, hb⟩
  cases id with
  | network => exact (h.holds .network).congr hs hn ho
  | position => exact hself

end

end Sys2Proof.Machine

/-! # What the operations on the ports make of their order (R163 to R167, R169, R170) -/

namespace Sys2Proof.Machine

section
variable {r q : Ports} {id : PortId} {role : PortRole} {m : Vector (Fin 16) 16} {n : Nat} {x : AudioBlock}

/-! ## One port started, restarted or stored (R163, R169 to R171) -/

/-- A port that starts is not STOPPED, and LOCKED as a master (R164). -/
theorem startState_fits (role : PortRole) : startState role ≠ .stopped ∧ (role = .master → startState role = .locked) := by
  cases role <;> simp [startState]

theorem portHolds_started (hs : q.standby = false) (hp : portOf q id = startPort role m) (hm : m.toList.Nodup)
    (ho : outputOf q id = silentBlock) : PortHolds q id := by
  obtain ⟨hstop, hmaster⟩ := startState_fits role
  refine ⟨?_, fun _ => ho⟩
  rw [hp, hs]
  exact ⟨by simp [startPort, hstop], fun _ => hmaster, Nat.zero_le 3, hm, fun _ => rfl⟩

/-- A Position Port that has started does not buffer. -/
theorem buffering_started (hp : q.position = startPort role m) : buffering q = false := by
  cases role <;> simp [buffering, hp, startPort, startState]

theorem portsOk_started {netRole posRole : PortRole} {netMap posMap : Vector (Fin 16) 16} (hn : netMap.toList.Nodup)
    (hp : posMap.toList.Nodup) : PortsOk (startedPorts netRole posRole netMap posMap) := by
  refine (portsOk_iff _).2 ⟨fun id => ?_, buffersOk_empty (buffering_started rfl) slipsOk_zero rfl rfl rfl⟩
  cases id with
  | network => exact portHolds_started rfl rfl hn rfl
  | position => exact portHolds_started rfl rfl hp rfl

theorem portsOk_restarted (h : PortsOk r) (hs : r.standby = false) (hm : m.toList.Nodup) : PortsOk (restartedPort id role m r) := by
  cases id with
  | network =>
    exact h.setNetwork (portHolds_started hs rfl hm rfl) rfl rfl rfl rfl rfl rfl rfl
  | position =>
    exact h.setPosition (portHolds_started hs rfl hm rfl) rfl rfl rfl
      (buffersOk_empty (buffering_started rfl) slipsOk_zero rfl rfl rfl)

/-- A stored role takes effect at once where it is the role that the port has, and at WAKE where it was stored in standby. -/
theorem portHolds_stored (h : PortHolds r id) (hr : (portOf r id).role = role ∨ r.standby = true) (hm : m.toList.Nodup)
    (hs : q.standby = r.standby) (hp : portOf q id = { portOf r id with role := role, slotMap := m })
    (ho : outputOf q id = outputOf r id) : PortHolds q id := by
  obtain ⟨⟨hstop, hmaster, hgood, -, hact⟩, hquiet⟩ := h
  have hrole : r.standby = false → (portOf r id).role = role := fun ha => hr.resolve_right (by simp [ha])
  refine ⟨?_, by rw [hp, ho]; exact hquiet⟩
  rw [hp, hs]
  exact ⟨hstop, fun ha hx => hmaster ha ((hrole ha).trans hx), hgood, hm, fun ha => (hact ha).trans (hrole ha)⟩

/-- In standby no slice is buffered. -/
theorem buffering_standby (h : PortsOk r) (hs : r.standby = true) : buffering r = false := by
  have hstop : r.position.state = .stopped := (h.holds .position).port.1.2 hs
  simp [buffering, hstop]

theorem portsOk_storedRole (h : PortsOk r) (hr : (portOf r id).role = role) (hm : m.toList.Nodup) : PortsOk (storedPort id role m r) := by
  cases id with
  | network =>
    exact h.setNetwork (portHolds_stored (h.holds .network) (.inl hr) hm rfl rfl rfl) rfl rfl rfl rfl rfl rfl rfl
  | position =>
    subst hr
    have hb := h.buffers
    exact h.setPosition (portHolds_stored (h.holds .position) (.inl rfl) hm rfl rfl rfl) rfl rfl rfl
      ⟨hb.rx, hb.tx, slipsOk_zero, hb.idle, hb.first⟩

theorem portsOk_storedAsleep (h : PortsOk r) (hs : r.standby = true) (hm : m.toList.Nodup) :
    PortsOk (onBuffers id emptyBuffers (storedPort id role m r)) := by
  cases id with
  | network =>
    exact h.setNetwork (portHolds_stored (h.holds .network) (.inr hs) hm rfl rfl rfl) rfl rfl rfl rfl rfl rfl rfl
  | position =>
    have hstop : r.position.state = .stopped := (h.holds .position).port.1.2 hs
    have hb : buffering (onBuffers .position emptyBuffers (storedPort .position role m r)) = false := by
      simp [buffering, onBuffers, emptyBuffers, storedPort, withPort, portOf, hstop]
    exact h.setPosition (portHolds_stored (h.holds .position) (.inr hs) hm rfl rfl rfl) rfl rfl rfl
      (buffersOk_empty hb slipsOk_zero rfl rfl rfl)

/-! ## Standby (R169, R170) -/

theorem portsOk_sleeping (h : PortsOk r) : PortsOk (sleepingPorts r) := by
  have hport : ∀ y : Port, y.goodSync ≤ 3 → y.slotMap.toList.Nodup → PortOk true (stoppedPort y) := fun y hg hm =>
    ⟨by simp [stoppedPort], nofun, hg, hm, nofun⟩
  refine (portsOk_iff _).2 ⟨fun id => ?_, buffersOk_empty (by simp [buffering, sleepingPorts, silencePort, emptyBuffers, stoppedPort])
    h.buffers.slips rfl rfl rfl⟩
  obtain ⟨-, -, hgood, hmap, -⟩ := (h.holds id).port
  cases id with
  | network => exact ⟨hport _ hgood hmap, fun _ => rfl⟩
  | position => exact ⟨hport _ hgood hmap, fun _ => rfl⟩

theorem portsOk_woken (h : PortsOk r) (hs : r.standby = true) : PortsOk (wokenPorts r) := by
  obtain ⟨hrx, htx, hg⟩ := h.buffers.idle (buffering_standby h hs)
  refine (portsOk_iff _).2 ⟨fun id => ?_, buffersOk_empty (buffering_started rfl) h.buffers.slips hrx htx hg⟩
  obtain ⟨⟨hstop, -, -, hmap, -⟩, hquiet⟩ := h.holds id
  have hsilent := hquiet (by rw [hstop.2 hs]; simp)
  cases id with
  | network => exact portHolds_started rfl rfl hmap hsilent
  | position => exact portHolds_started rfl rfl hmap hsilent

/-! ## Syncs (R164, R167) -/

/-- A slave outside standby that takes another state, and is silent unless that is LOCKED. -/
theorem portHolds_sync {st : PortState} (h : PortHolds r id) (hs : r.standby = false) (hr : (portOf r id).role = .slave)
    (hst : st ≠ .stopped) (hn : n ≤ 3) (hq : q.standby = r.standby)
    (hp : portOf q id = { portOf r id with state := st, goodSync := n }) (ho : st ≠ .locked → outputOf q id = silentBlock) :
    PortHolds q id := by
  obtain ⟨⟨-, -, -, hmap, hact⟩, -⟩ := h
  refine ⟨?_, by rw [hp]; exact ho⟩
  rw [hp, hq, hs]
  have hslave : (portOf r id).role ≠ .master := by rw [hr]; simp
  exact ⟨by simp [hst], fun _ hm => absurd hm hslave, hn, hmap, fun _ => hact hs⟩

/-- A slave that counts its syncs keeps its silence. -/
theorem portsOk_counting (h : PortsOk r) (hs : r.standby = false) (hr : (portOf r id).role = .slave)
    (hst : (portOf r id).state = .syncing) (hn : n ≤ 3) : PortsOk (setSync id .syncing n r) := by
  have hsilent := (h.holds id).quiet (by rw [hst]; simp)
  cases id with
  | network =>
    exact h.setNetwork (portHolds_sync (h.holds .network) hs hr (by simp) hn rfl rfl fun _ => hsilent) rfl rfl rfl rfl rfl rfl rfl
  | position =>
    have hsync : r.position.state = .syncing := hst
    obtain ⟨hrx, htx, hg⟩ := h.buffers.idle (by simp [buffering, hsync])
    exact h.setPosition (portHolds_sync (h.holds .position) hs hr (by simp) hn rfl rfl fun _ => hsilent) rfl rfl rfl
      (buffersOk_empty (by simp [buffering, setSync, withPort]) h.buffers.slips hrx htx hg)

/-- A slave that locks has its buffers centred (R167). -/
theorem portsOk_locked (h : PortsOk r) (hs : r.standby = false) (hr : (portOf r id).role = .slave) :
    PortsOk (onBuffers id centredBuffers (setSync id .locked 3 r)) := by
  cases id with
  | network =>
    exact h.setNetwork (portHolds_sync (h.holds .network) hs hr (by simp) (Nat.le_refl 3) rfl rfl fun hn => absurd rfl hn)
      rfl rfl rfl rfl rfl rfl rfl
  | position =>
    have hslave : r.position.role = .slave := hr
    have hb : buffering (onBuffers .position centredBuffers (setSync .position .locked 3 r)) = true := by
      simp [buffering, onBuffers, centredBuffers, setSync, withPort, portOf, hslave]
    exact h.setPosition (portHolds_sync (h.holds .position) hs hr (by simp) (Nat.le_refl 3) rfl rfl fun hn => absurd rfl hn)
      rfl rfl rfl (buffersOk_locked hb h.buffers.slips (Nat.le_of_ble_eq_true rfl) (Nat.le_of_ble_eq_true rfl) fun _ => List.cons_ne_nil _ _)

/-- A slave that loses its lock is silent, its buffers are empty (R164, R167). -/
theorem portsOk_lost (h : PortsOk r) (hs : r.standby = false) (hr : (portOf r id).role = .slave) (hn : n ≤ 3) :
    PortsOk (silencePort id (onBuffers id emptyBuffers (setSync id .syncing n r))) := by
  cases id with
  | network =>
    exact h.setNetwork (portHolds_sync (h.holds .network) hs hr (by simp) hn rfl rfl fun _ => rfl) rfl rfl rfl rfl rfl rfl rfl
  | position =>
    exact h.setPosition (portHolds_sync (h.holds .position) hs hr (by simp) hn rfl rfl fun _ => rfl) rfl rfl rfl
      (buffersOk_empty (by simp [buffering, silencePort, onBuffers, emptyBuffers, setSync, withPort]) h.buffers.slips rfl rfl rfl)

/-! ## The elastic buffers (R166) -/

/-- A LOCKED slave Position Port may send whatever its buffers hold. -/
theorem PortsOk.buffered (h : PortsOk r) (hb : buffering r = true) (hn : q.network = r.network) (hp : q.position = r.position)
    (hs : q.standby = r.standby) (ho : q.ndout = r.ndout) (hq : BuffersOk q) : PortsOk q := by
  have hlocked := ((buffering_iff r).1 hb).2
  refine (portsOk_iff q).2 ⟨fun id => ?_, hq⟩
  cases id with
  | network => exact (h.holds .network).congr hs hn ho
  | position =>
    have hport := (h.holds .position).port
    refine ⟨by rw [hs, portOf, hp]; exact hport, fun hx => absurd hlocked ?_⟩
    rw [← hp]
    exact hx

/-- A list of at most 3 that one more joins, the first leaving where there are 3. -/
theorem length_joined {α : Type} {l : List α} (h : l.length ≤ 3) (a : α) :
    ((if 3 ≤ l.length then l.drop 1 else l) ++ [a]).length ≤ 3 := by
  split
  · simp only [List.length_append, List.length_drop, List.length_singleton]
    omega
  · simp only [List.length_append, List.length_singleton]
    omega

theorem length_tail_le {α : Type} {l : List α} (h : l.length ≤ 3) : (l.drop 1).length ≤ 3 := by
  rw [List.length_drop]
  omega

theorem portsOk_joinedTx (h : PortsOk r) (hb : buffering r = true) : PortsOk (joinedTx x r) := by
  obtain ⟨hrx, htx, ⟨h1, h2, h3, h4⟩, -, -⟩ := h.buffers
  exact h.buffered hb rfl rfl rfl rfl
    (buffersOk_locked hb ⟨h1, h2, bumpIf_le h3, h4⟩ hrx (length_joined htx x) fun _ => List.append_ne_nil_of_right_ne_nil _ (by simp))

theorem portsOk_joinedRx (h : PortsOk r) (hb : buffering r = true) : PortsOk (joinedRx x r) := by
  obtain ⟨hrx, htx, ⟨h1, h2, h3, h4⟩, -, hfirst⟩ := h.buffers
  exact h.buffered hb rfl rfl rfl rfl (buffersOk_locked hb ⟨bumpIf_le h1, h2, h3, h4⟩ (length_joined hrx _) htx hfirst)

theorem portsOk_tookRx (h : PortsOk r) (hb : buffering r = true) : PortsOk (tookRx r) := by
  obtain ⟨hrx, htx, ⟨h1, h2, h3, h4⟩, -, hfirst⟩ := h.buffers
  exact h.buffered hb rfl rfl rfl rfl
    (buffersOk_locked hb ⟨h1, bumpIf_le h2, h3, h4⟩ (length_tail_le hrx) htx hfirst)

/-- A group takes the head of the transmit buffer once the groups have begun. -/
theorem portsOk_tookTx (h : PortsOk r) (hb : buffering r = true) (hg : r.grouping = true) : PortsOk (tookTx r) := by
  obtain ⟨hrx, htx, ⟨h1, h2, h3, h4⟩, -, -⟩ := h.buffers
  refine h.buffered hb rfl rfl rfl rfl
    (buffersOk_locked hb ⟨h1, h2, h3, bumpIf_le h4⟩ hrx (length_tail_le htx) fun hf => ?_)
  have hn : r.grouping = false := ((groupsToBegin_iff (tookTx r)).1 hf).2
  rw [hg] at hn
  nomatch hn

/-- The ports once the groups of a LOCKED slave Position Port have begun (R166; log entry 10). -/
def begunPorts (r : Ports) : Ports := if groupsToBegin r then tookTx { r with grouping := true } else r

theorem portsOk_begun (h : PortsOk r) : PortsOk (begunPorts r) := by
  unfold begunPorts
  split
  · rename_i hf
    have hb := ((groupsToBegin_iff r).1 hf).1
    have hgrouping : PortsOk { r with grouping := true } :=
      h.buffered hb rfl rfl rfl rfl (buffersOk_locked hb h.buffers.slips h.buffers.rx h.buffers.tx fun hn => by simp [groupsToBegin] at hn)
    exact portsOk_tookTx hgrouping hb rfl
  · exact h

theorem buffering_begun (r : Ports) : buffering (begunPorts r) = buffering r := by
  unfold begunPorts
  split
  · rfl
  · rfl

theorem groupsToBegin_begun (r : Ports) : groupsToBegin (begunPorts r) = false := by
  unfold begunPorts
  split
  · simp [groupsToBegin, tookTx]
  · rename_i hn
    simpa using hn

theorem grouping_begun (hb : buffering r = true) : (begunPorts r).grouping = true := by
  have h := groupsToBegin_begun r
  simpa [groupsToBegin, buffering_begun, hb] using h

/-! ## The outputs of a slice and of a period (R15, R164 to R166) -/

theorem portsOk_sent (h : PortsOk r) (p : PosIx) (w : SliceWork) : PortsOk (sentPorts p w r) := by
  refine (portsOk_iff _).2 ⟨fun id => ?_, h.buffers.congr rfl rfl rfl rfl rfl⟩
  cases id with
  | network =>
    refine ⟨(h.holds .network).port, fun hn => ?_⟩
    exact (if_neg hn).trans ((h.holds .network).quiet hn)
  | position =>
    refine ⟨(h.holds .position).port, fun hn => ?_⟩
    exact (if_neg fun hl => hn hl.1).trans ((h.holds .position).quiet hn)

theorem portsOk_cleared (h : PortsOk r) : PortsOk (clearedOutputs r) := by
  refine (portsOk_iff _).2 ⟨fun id => ?_, h.buffers.congr rfl rfl rfl rfl rfl⟩
  cases id with
  | network => exact ⟨(h.holds .network).port, fun _ => rfl⟩
  | position =>
    refine ⟨(h.holds .position).port, fun hn => ?_⟩
    have hsilent : r.pdout = silentBlock := (h.holds .position).quiet hn
    show (if r.position.role = .master then silentBlock else r.pdout) = silentBlock
    rw [hsilent, ite_self]

theorem portsOk_startPorts (h : PortsOk r) (active : Bool) : PortsOk (startPorts active x r) := by
  unfold startPorts
  split
  · rename_i hb
    exact portsOk_joinedTx (portsOk_cleared h) hb.2
  · exact portsOk_cleared h

/-- The microphones of a period keep the ports in order, where a group that completes with its begin has begun before. -/
theorem portsOk_micPorts {group : Option AudioBlock} (h : PortsOk r) (hg : group = none ∨ groupsToBegin r = false) :
    PortsOk (micPorts group r) := by
  unfold micPorts
  split
  · rename_i hb
    cases group with
    | none => exact portsOk_tookRx h hb
    | some g =>
      have hgrouping : r.grouping = true := by
        have hn := hg.resolve_left (by simp)
        simpa [groupsToBegin, hb] using hn
      exact portsOk_tookTx (portsOk_tookRx (portsOk_joinedRx h hb) hb) hb hgrouping
  · exact h

end

end Sys2Proof.Machine

/-! # What leaves the ports as they are (R4 to R13, R76 to R89, R124 to R140, R157 to R161) -/

namespace Sys2Proof.Machine

section
variable {s t : State} {p : PosIx} {w : PlayerId}

/-! ## One position and the engine -/

@[simp] theorem setCall_ports (p : PosIx) (c : CallState) (s : State) : (setCall p c s).ports = s.ports := rfl
@[simp] theorem putCanceller_ports (p : PosIx) (c : Canceller) (s : State) : (putCanceller s p c).ports = s.ports := rfl
@[simp] theorem putSuppressor_ports (p : PosIx) (x : Suppressor) (s : State) : (putSuppressor s p x).ports = s.ports := rfl
@[simp] theorem putTone_ports (p : PosIx) (x : Tone) (s : State) : (putTone s p x).ports = s.ports := rfl
@[simp] theorem putPlayer_ports (p : PosIx) (w : PlayerId) (pl : Player) (s : State) : (putPlayer s p w pl).ports = s.ports := rfl

theorem ite_ports {c : Prop} [Decidable c] (h : t.ports = s.ports) : (if c then t else s).ports = s.ports := by
  split
  · exact h
  · rfl

@[simp] theorem startHead_ports (s : State) : (startHead s).ports = s.ports := by rw [startHead_eq, putEngine_ports]

@[simp] theorem cancelSearches_ports (p : PosIx) (s : State) : (cancelSearches p s).ports = s.ports := by
  unfold cancelSearches
  split
  · rfl
  · rw [startHead_ports, raise_ports, keepOutcome, putPos_ports, dropSearches_eq, putEngine_ports]

@[simp] theorem changeMode_ports (m : CancellerMode) (p : PosIx) (s : State) : (changeMode m p s).ports = s.ports := by
  unfold changeMode
  dsimp only
  split
  · rfl
  · split
    · rw [cancelSearches_ports, putCanceller_ports]
    · rfl

@[simp] theorem cancellerEvent_ports (p : PosIx) (ev : EchoEvent) (c : Canceller) (s : State) :
    (cancellerEvent p ev c s).ports = s.ports := by rw [cancellerEvent, raise_ports, putCanceller_ports]

@[simp] theorem clearTone_ports (p : PosIx) (s : State) : (clearTone p s).ports = s.ports :=
  ite_ports (by rw [raise_ports, putPos_ports])

@[simp] theorem clearCallTone_ports (p : PosIx) (s : State) : (clearCallTone p s).ports = s.ports := ite_ports (clearTone_ports p s)

/-! ## Players (R127 to R130, R136 to R138) -/

theorem ports_of_player {pl : Player} (h : bare t = bare (putPlayer s p w pl)) : t.ports = s.ports :=
  (ports_of_bare h).trans (putPlayer_ports ..)

@[simp] theorem endCurrent_ports (p : PosIx) (w : PlayerId) (reason : LeaveReason) (s : State) :
    (endCurrent p w reason s).ports = s.ports :=
  (ports_of_bare (bare_endCurrent p w reason s)).trans (ite_ports (putPlayer_ports ..))

@[simp] theorem playOnlyItem_ports (p : PosIx) (w : PlayerId) (it : Item) (s : State) : (playOnlyItem p w it s).ports = s.ports :=
  ports_of_player (bare_playOnlyItem p w it s)

@[simp] theorem playItem_ports (p : PosIx) (w : PlayerId) (m : PlayMode) (it : Item) (s : State) :
    (playItem p w m it s).ports = s.ports := by
  cases m with
  | now => exact ports_of_player (bare_playNowItem p w it s)
  | interrupt => exact ports_of_player (bare_playInterruptItem p w it s)
  | next => exact ports_of_player (bare_playNextItem p w it s)
  | only => exact playOnlyItem_ports p w it s

/-! ## Calls and teardowns (R5 to R11, R20) -/

@[simp] theorem clearCall_ports (p : PosIx) (s : State) : (clearCall p s).ports = s.ports := by
  simp only [clearCall, cancelSearches_ports, putCanceller_ports, clearCallTone_ports, clearPlayer_ports, setCall_ports]

@[simp] theorem closeIfOpen_ports (p : PosIx) (s : State) : (closeIfOpen p s).ports = s.ports := by
  have hended : (endIfCalled p s).ports = s.ports := ite_ports (clearCall_ports p s)
  unfold closeIfOpen
  split
  · rfl
  · rw [closePosition_eq, putPos_ports, clearTone_ports, clearPlayer_ports, setCall_ports, hended]

@[simp] theorem resetPosition_ports (p : PosIx) (s : State) : (resetPosition p s).ports = s.ports := by
  simp only [resetPosition, putPos_ports, closeIfOpen_ports, putCanceller_ports]

@[simp] theorem takeOffer_ports (p : PosIx) (a b : Option Item) (hint : Option Nat) (s : State) :
    (takeOffer p a b hint s).ports = s.ports := (ports_of_bare (takeOffer_leaves s p a b hint).1).trans rfl

/-! ## The slice of a position (R15) -/

theorem Beside.ports {q : Ports} {d : Period} (h : Beside q d s t) : t.ports = q := by
  have hf := congrArg State.ports h
  exact hf

theorem judgedSlice_ports (p : PosIx) (s : State) : (judgedSlice p s).1.ports = sentPorts p (stages p s) s.ports := by
  have hsettled : (settleSlice p (stages p s) s).ports = sentPorts p (stages p s) s.ports :=
    (settleSlice_beside p (stages p s) s).ports
  have hrequests : ∀ x w, (sliceRequests p w x).ports = x.ports := fun x w => ite_ports (ports_placeRequest ..)
  exact (ports_sliceJudgement ..).trans ((hrequests ..).trans hsettled)

theorem processSlice_ports (p : PosIx) (s : State) : (processSlice p s).ports = sentPorts p (stages p s) s.ports := by
  rw [processSlice_eq]
  refine inFreeOrder_keeps (P := fun t => t.ports = sentPorts p (stages p s) s.ports) _ _ (judgedSlice_ports p s) ?_ fun t ht => ht
  intro act ha t ht
  obtain ⟨a, -, rfl⟩ := List.mem_map.1 ha
  cases a with
  | players => exact (whisperCheck_ports ..).trans ((raiseAll_ports ..).trans ht)
  | level | tone | echo => exact (raiseAll_ports ..).trans ht

end

/-! ## The commands of a position -/

section
variable (src : Nat) (b : List Byte) (s : State)

theorem onPosition_ports {act : PosIx → Answer} (h : ∀ p, (act p).1.ports = s.ports) : (onPosition s src act).1.ports = s.ports :=
  onPosition_keeps (P := fun t => t.ports = s.ports) src rfl h

theorem callCommands_ports :
    (callOfferCommand src b s).1.ports = s.ports ∧ (callConnectCommand src s).1.ports = s.ports ∧
      (callHoldCommand src b s).1.ports = s.ports ∧ (callClearCommand src s).1.ports = s.ports ∧
      (posCloseCommand src s).1.ports = s.ports := by
  refine ⟨?_, ?_, ?_, ?_, ?_⟩ <;> refine onPosition_ports src s fun p => ?_
  · (repeat' split) <;> simp [refuse]
  · split <;> simp [refuse, taken, clearPlayer_ports]
  · (repeat' split) <;> simp [refuse, taken]
  · split <;> simp [refuse, taken]
  · simp [taken]

theorem playerCommands_ports :
    (playCommand src b s).1.ports = s.ports ∧ (stopCommand src b s).1.ports = s.ports := by
  refine ⟨?_, ?_⟩ <;> refine onPosition_ports src s fun p => ?_
  · split
    · split
      · rfl
      · split
        · rfl
        · dsimp only
          split
          · rfl
          · exact playItem_ports ..
    · rfl
  · split <;> simp [refuse, withWhisper, whisperCheck_ports, clearPlayer_ports]

theorem unitCommands_ports :
    (posOpenCommand src s).1.ports = s.ports ∧ (muteCommand src b s).1.ports = s.ports ∧
      (ecModeCommand src b s).1.ports = s.ports ∧ (ecFreezeCommand src b s).1.ports = s.ports ∧
      (searchCommand src b s).1.ports = s.ports ∧ (windowSetCommand src b s).1.ports = s.ports ∧
      (toneStartCommand src b s).1.ports = s.ports := by
  refine ⟨?_, ?_, ?_, ?_, ?_, ?_, ?_⟩ <;> refine onPosition_ports src s fun p => ?_
  · split <;> rfl
  · (repeat' split) <;> rfl
  · split <;> simp [refuse, taken]
  · split <;> rfl
  · (repeat' split) <;> simp [refuse, ports_placeRequest]
  · split <;> rfl
  · (repeat' split) <;> rfl

/-- Every command of a position leaves the ports (R3, R76, R87, R125, R136, R140, R157, R161). -/
theorem perform_ports {c : Command} (h : c ∈ positionCommands) : (perform c src b s).1.ports = s.ports := by
  obtain ⟨hoffer, hconnect, hhold, hclear, hclose⟩ := callCommands_ports src b s
  obtain ⟨hplay, hstop⟩ := playerCommands_ports src b s
  obtain ⟨hopen, hmute, hmode, hfreeze, hsearch, hwindow, htone⟩ := unitCommands_ports src b s
  have hquery : ∀ f : PosIx → Result × List Field, (onPosition s src fun p => (s, f p)).1.ports = s.ports :=
    fun f => onPosition_ports src s fun p => rfl
  have hplayer : (playerStatusCommand src s).1.ports = s.ports := onPosition_ports src s fun p => rfl
  have htoneStop : (toneStopCommand src s).1.ports = s.ports := onPosition_ports src s fun p => rfl
  simp only [positionCommands, List.mem_cons, List.not_mem_nil, or_false] at h
  obtain rfl | rfl | rfl | rfl | rfl | rfl | rfl | rfl | rfl | rfl | rfl | rfl | rfl | rfl | rfl | rfl | rfl | rfl := h
  exacts [hopen, hclose, hoffer, hconnect, hhold, hclear, hmute, hquery _, hmode, hfreeze, hsearch, hwindow, hquery _, hplay, hstop,
    hplayer, htone, htoneStop]

end

end Sys2Proof.Machine

/-! # Every step keeps the ports and standby in order (R162 to R170) -/

namespace Sys2Proof.Machine

/-- The ports are in order, and standby is quiet. -/
def PortsHold (s : State) : Prop := PortsOk s.ports ∧ StandbyOk s

section
variable {s t : State} {p : PosIx} {i : StreamIx}

/-! ## What keeps the order -/

theorem portsHold_awake (hp : PortsOk t.ports) (hs : t.ports.standby = false) : PortsHold t := ⟨hp, fun h => by simp [hs] at h⟩

/-- Outside standby the ports are all there is to keep. -/
theorem PortsHold.awake (h : PortsHold s) (hs : s.ports.standby = false) (hp : t.ports = s.ports) : PortsHold t :=
  portsHold_awake (hp ▸ h.1) (hp ▸ hs)

/-- An operation on the ports alone, after which the part is in standby only if it may be. -/
theorem portsHold_portless (hf : portless t = portless s) (hp : PortsOk t.ports)
    (hs : t.ports.standby = true → allVacant s = true ∧ s.store.compaction.running = false ∧ noStreamRunning s = true) :
    PortsHold t := by
  refine ⟨hp, fun ht => ?_⟩
  rw [allVacant, positions_of_portless hf, store_of_portless hf, noStreamRunning, streams_of_portless hf]
  exact hs ht

theorem PortsHold.ite {c : Prop} [Decidable c] (ht : c → PortsHold t) (hs : PortsHold s) : PortsHold (if c then t else s) := by
  split
  · exact ht ‹_›
  · exact hs

/-- An event that is due outside standby alone, and leaves the ports. -/
theorem PortsHold.event {c : Prop} [Decidable c] (h : PortsHold s) (hc : c → s.ports.standby = false) (hp : t.ports = s.ports) :
    PortsHold (if c then t else s) := .ite (fun hd => h.awake (hc hd) hp) h

theorem portsHold_reset (e : t.ports = portsAtPowerOn) : PortsHold t := portsHold_awake (e ▸ portsOk_powerOn) (e ▸ rfl)

theorem allVacant_iff (s : State) : allVacant s = true ↔ ∀ p, (getPos s p).call = .vacant := by
  simp only [allVacant, Vector.all_eq_true, decide_eq_true_eq]
  exact ⟨fun h p => h p.val p.isLt, fun h n hn => h ⟨n, hn⟩⟩

theorem noStreamRunning_iff (s : State) : noStreamRunning s = true ↔ ∀ i, (getStream s i).state ≠ .running := by
  simp only [noStreamRunning, Vector.all_eq_true, decide_eq_true_eq]
  exact ⟨fun h i => h i.val i.isLt, fun h n hn => h ⟨n, hn⟩⟩

/-- A record with the call state that its position has. -/
theorem PortsHold.putPos (h : PortsHold s) {r : Position} (hr : r.call = (getPos s p).call) : PortsHold (putPos s p r) := by
  refine ⟨h.1, fun hs => ?_⟩
  obtain ⟨hvacant, hrest⟩ := h.2 hs
  refine ⟨(allVacant_iff _).2 fun q => ?_, hrest⟩
  rw [getPos_putPos]
  split
  · exact hr.trans ((allVacant_iff s).1 hvacant p)
  · exact (allVacant_iff s).1 hvacant q

/-- A stream's record that is not RUNNING where the stream was not. -/
theorem PortsHold.putStream (h : PortsHold s) {r : Stream} (hr : r.state = .running → (getStream s i).state = .running) :
    PortsHold (putStream s i r) := by
  refine ⟨h.1, fun hs => ?_⟩
  obtain ⟨hvacant, hidle, hstopped⟩ := h.2 hs
  refine ⟨hvacant, hidle, (noStreamRunning_iff _).2 fun j => ?_⟩
  rw [getStream_putStream]
  split
  · exact fun hrun => (noStreamRunning_iff s).1 hstopped i (hr hrun)
  · exact (noStreamRunning_iff s).1 hstopped j

/-- A store whose compaction is RUNNING only where it was. -/
theorem PortsHold.of_store (h : PortsHold s) (hf : storeless t = storeless s) (hs : t.streams = s.streams)
    (hr : t.store.compaction.running = true → s.store.compaction.running = true) : PortsHold t := by
  have hp := ports_of_storeless hf
  refine ⟨hp ▸ h.1, fun ht => ?_⟩
  obtain ⟨hvacant, hidle, hstopped⟩ := h.2 (hp ▸ ht)
  rw [allVacant, positions_of_storeless hf, noStreamRunning, hs]
  exact ⟨hvacant, by simpa [hidle] using hr, hstopped⟩

/-- What leaves everything but counts and reports. -/
theorem PortsHold.of_bare (h : PortsHold s) (hb : bare t = bare s) : PortsHold t := by
  have hf := sliceless_of_bare hb
  have hp := ports_of_bare hb
  refine ⟨hp ▸ h.1, fun ht => ?_⟩
  obtain ⟨hvacant, hidle, hstopped⟩ := h.2 (hp ▸ ht)
  rw [allVacant, positions_of_bare hb, compaction_of_sliceless hf, noStreamRunning_iff]
  refine ⟨hvacant, hidle, fun i => ?_⟩
  have hstate := congrArg Stream.state (streams_of_sliceless hf i)
  rw [show (getStream t i).state = (getStream s i).state from hstate]
  exact (noStreamRunning_iff s).1 hstopped i

/-! ## Streams and compaction -/

theorem portsHold_player (h : PortsHold s) {w : PlayerId} {pl : Player} (hb : bare t = bare (putPlayer s p w pl)) : PortsHold t := by
  have hput : PortsHold (putPlayer s p w pl) := h.putPos (by cases w <;> rfl)
  exact hput.of_bare hb

/-- In standby no position whispers (R7). -/
theorem portsHold_whisperCheck (h : PortsHold s) (p : PosIx) (was : Bool) : PortsHold (whisperCheck p was s) := by
  refine .ite (fun hd => ?_) h
  obtain ⟨-, hcall, -⟩ := hd
  have hs : s.ports.standby = false := by
    rw [← Bool.not_eq_true]
    intro hs
    have hvacant := (allVacant_iff s).1 (h.2 hs).1 p
    rw [hcall] at hvacant
    nomatch hvacant
  refine h.awake hs ?_
  rw [whisperDone_eq, raise_ports, whisperCleared, clearPlayer_ports]
  rfl

theorem portsHold_closeStream (h : PortsHold s) (i : StreamIx) : PortsHold (closeStream i s) := by
  have hgiven : PortsHold (streamGiven i s) :=
    foldl_keeps (P := PortsHold) (fun t x ht => portsHold_player ht (bare_giveUpStream i x.1 x.2 t)) _ _ h
  have hleft : PortsHold (streamLeft i s) :=
    foldl_keeps (P := PortsHold) (fun t x ht => .ite (fun _ => portsHold_whisperCheck ht ..) ht) _ _ hgiven
  have hspent : PortsHold (spendDraw (streamLeft i s)) := hleft
  rw [closeStream_eq]
  exact hspent.putStream nofun

/-- A turn is taken while compaction runs. -/
theorem portsHold_turn (h : PortsHold s) : PortsHold (if turnDue s then takeTurn s else s) :=
  .ite (fun hd => h.of_store (storeless_takeTurn s) (takeTurn_streams s) fun _ => ((turnDue_iff s).1 hd).1) h

/-- The end of a move starts no compaction. -/
theorem finishMove_running (hr : s.store.compaction.running = false) : (finishMove s).store.compaction.running = false := by
  unfold finishMove completeMove
  split
  · split
    · exact hr
    · rw [allTurns, turns_idle _ (by simp [turnDue, hr])]
      exact hr
  · exact hr

theorem portsHold_finishMove (h : PortsHold s) : PortsHold (finishMove s) := by
  refine h.of_store (storeless_finishMove s) (finishMove_streams s) fun hr => ?_
  rw [← Bool.not_eq_false]
  intro hn
  rw [finishMove_running hn] at hr
  nomatch hr

/-! ## PORT-SET, SLEEP and WAKE (R163, R169, R170) -/

/-- The map of slots in range, none of which appears twice, is one-to-one (R163). -/
theorem nodup_mapOfSlots {slots : List Byte} (h : slotsValid slots = true) : (mapOfSlots slots).toList.Nodup := by
  simp only [slotsValid, Bool.and_eq_true, List.all_eq_true, decide_eq_true_eq] at h
  obtain ⟨hrange, hnodup⟩ := h
  have hslots : (mapOfSlots slots).toList.map Fin.val = namedSlots slots := by
    refine List.ext_getElem (by simp [namedSlots]) fun k hk _ => ?_
    have hk16 : k < 16 := by simpa using hk
    have hin : byteAt slots k < 16 := hrange _ (List.mem_map.2 ⟨k, List.mem_range.2 hk16, rfl⟩)
    simp [mapOfSlots, namedSlots, Nat.mod_eq_of_lt hin]
  exact List.Nodup.of_map _ (hslots ▸ hnodup)

/-- The ports after a taken PORT-SET. -/
def setPorts (id : PortId) (role : PortRole) (m : Vector (Fin 16) 16) (r : Ports) : Ports :=
  if (portOf r id).role = role then storedPort id role m r
  else if r.standby then onBuffers id emptyBuffers (storedPort id role m r)
  else restartedPort id role m r

theorem setPort_ports (id : PortId) (role : PortRole) (m : Vector (Fin 16) 16) (s : State) :
    (setPort id role m s).ports = setPorts id role m s.ports := by
  unfold setPort setPorts
  split
  · rfl
  · split
    · rfl
    · rw [portEvent, raise_ports, putPorts_ports]

theorem setPorts_standby (id : PortId) (role : PortRole) (m : Vector (Fin 16) 16) (r : Ports) :
    (setPorts id role m r).standby = r.standby := by
  have hstored : (storedPort id role m r).standby = r.standby := by cases id <;> rfl
  unfold setPorts
  split
  · exact hstored
  · split
    · cases id <;> rfl
    · cases id <;> rfl

theorem portsOk_setPorts {id : PortId} {role : PortRole} {m : Vector (Fin 16) 16} {r : Ports} (h : PortsOk r) (hm : m.toList.Nodup) :
    PortsOk (setPorts id role m r) := by
  unfold setPorts
  split
  · exact portsOk_storedRole h ‹_› hm
  · split
    · exact portsOk_storedAsleep h ‹_› hm
    · exact portsOk_restarted h (Bool.eq_false_of_not_eq_true ‹_›) hm

theorem portsHold_portSet (src : Nat) (b : List Byte) (h : PortsHold s) : PortsHold (portSetCommand src b s).1 := by
  refine onDevice_keeps src h ?_
  split
  · split
    · exact h
    · rename_i hvalid
      split
      · exact h
      · have hp := setPort_ports ‹_› ‹_› (mapOfSlots (b.drop 2)) s
        refine portsHold_portless (portless_setPort ..) ?_ fun hs => h.2 ?_
        · rw [hp]
          exact portsOk_setPorts h.1 (nodup_mapOfSlots (by simpa using hvalid))
        · rw [hp, setPorts_standby] at hs
          exact hs
  · exact h

/-- The ports as the slice period in progress has ended for SLEEP. -/
def endedPorts (d : Period) (r : Ports) : Ports := if d.active = true ∧ buffering r = true then joinedTx d.earpiece r else r

/-- What SLEEP has done before it stops the ports. -/
def periodEnded (s : State) : State :=
  let ended := joinTx s.period.earpiece s
  putPeriod (raiseAll (if s.period.active then ended.2 else []) (if s.period.active then ended.1 else s)) noPeriod

theorem goToSleep_eq (s : State) : goToSleep s = portsEvent .stopped (sleepingPorts (periodEnded s).ports) (periodEnded s) := rfl

theorem periodEnded_ports (s : State) : (periodEnded s).ports = endedPorts s.period s.ports := by
  unfold periodEnded endedPorts
  dsimp only
  rw [putPeriod_ports, raiseAll_ports, joinTx_does]
  cases s.period.active with
  | false => simp
  | true => cases buffering s.ports <;> simp

theorem goToSleep_ports (s : State) : (goToSleep s).ports = sleepingPorts (endedPorts s.period s.ports) := by
  rw [goToSleep_eq, portsEvent, spendDraw_ports, raise_ports, putPorts_ports, periodEnded_ports]

theorem portsOk_ended {r : Ports} (h : PortsOk r) (d : Period) : PortsOk (endedPorts d r) := by
  unfold endedPorts
  split
  · rename_i hb
    exact portsOk_joinedTx h hb.2
  · exact h

theorem portsHold_sleep (src : Nat) (h : PortsHold s) : PortsHold (sleepCommand src s).1 := by
  refine onDevice_keeps src h ?_
  split
  · exact h
  · split
    · exact h
    · rename_i hquiet
      refine taken_keeps (P := PortsHold) (portsHold_portless (portless_goToSleep s) ?_ fun _ => by simpa using hquiet)
      rw [goToSleep_ports]
      exact portsOk_sleeping (portsOk_ended h.1 _)

theorem portsHold_wake (src : Nat) (h : PortsHold s) : PortsHold (wakeCommand src s).1 := by
  refine onDevice_keeps src h ?_
  split
  · rename_i hs
    have hp : (portsEvent .started (wokenPorts s.ports) s).ports = wokenPorts s.ports := by
      rw [portsEvent, spendDraw_ports, raise_ports, putPorts_ports]
    refine taken_keeps (P := PortsHold) (portsHold_awake ?_ ?_)
    · rw [hp]
      exact portsOk_woken h.1 hs
    · rw [hp]
      rfl
  · exact h

/-! ## The other commands -/

/-- Standby refuses a command of a position, and outside it there are the ports alone to keep. -/
theorem portsHold_positionCommand {c : Command} (src : Nat) (b : List Byte) (hc : c ∈ positionCommands) (h : PortsHold s) :
    PortsHold (perform c src b s).1 := by
  have hp := perform_ports src b s hc
  obtain ⟨act, e⟩ := perform_onPosition hc src b s
  obtain ⟨p, -, hs, -⟩ | ⟨-, -, hr⟩ | ⟨-, hr⟩ := onPosition_cases s src act
  · exact h.awake hs hp
  · rw [e, hr]
    exact h
  · rw [e, hr]
    exact h

theorem portsHold_resetCommand (src : Nat) (b : List Byte) (h : PortsHold s) : PortsHold (resetCommand src b s).1 := by
  unfold resetCommand
  split
  · exact h
  · split
    · refine onDevice_keeps src h ?_
      split
      · exact h
      · obtain ⟨-, -, -, hnet, -⟩ := (h.1.holds .network).port
        obtain ⟨-, -, -, hpos, -⟩ := (h.1.holds .position).port
        exact taken_keeps (P := PortsHold) (portsHold_awake (portsOk_started hnet hpos) rfl)
    · obtain ⟨p, -, hs, e⟩ | ⟨-, -, e⟩ | ⟨-, e⟩ := onPosition_cases s src fun p => taken (resetPosition p s)
      · rw [resetPositionCommand, e]
        exact h.awake hs (resetPosition_ports p s)
      · rw [resetPositionCommand, e]
        exact h
      · rw [resetPositionCommand, e]
        exact h

theorem portsHold_setParam (src : Nat) (b : List Byte) (h : PortsHold s) : PortsHold (setParamCommand src b s).1 := by
  unfold setParamCommand
  dsimp only
  split
  · exact h
  · split
    · exact h.putPos rfl
    · exact h
  · split
    · exact h
    · exact h

theorem portsHold_getParam (src : Nat) (b : List Byte) (h : PortsHold s) : PortsHold (getParamCommand src b s).1 := by
  unfold getParamCommand
  dsimp only
  split
  · exact h
  · split
    · exact h
    · exact h
  · split
    · exact h
    · exact h

/-- The commands of the clips and of the store start no compaction in standby (R107 to R113, R116). -/
theorem portsHold_storeCommands (src : Nat) (b : List Byte) (h : PortsHold s) :
    PortsHold (clipAllocCommand src b s).1 ∧ PortsHold (clipWriteCommand src b s).1 ∧ PortsHold (clipEndCommand src b s).1 ∧
      PortsHold (clipFreeCommand src b s).1 ∧ PortsHold (clipInfoCommand src b s).1 ∧ PortsHold (storeCompactCommand src s).1 ∧
      PortsHold (expandLoadCommand src b s).1 := by
  have hclip : ∀ act : ClipIx → Answer, (∀ c, PortsHold (act c).1) → PortsHold (onDevice s src (onClip s (byteAt b 0) act)).1 :=
    fun act ha => onDevice_keeps src h (onClip_keeps _ h ha)
  refine ⟨hclip _ fun c => ?_, hclip _ fun c => ?_, hclip _ fun c => ?_, hclip _ fun c => ?_, hclip _ fun c => h,
    onDevice_keeps src h ?_, onDevice_keeps src h h⟩
  · dsimp only
    (repeat' split) <;> exact h
  · dsimp only
    (repeat' split) <;> exact h
  · dsimp only
    split <;> exact h
  · (repeat' split) <;> exact h
  · split
    · exact h
    · rename_i hs
      split
      · exact h
      · exact h.awake (t := putCompaction s _) (by simpa using hs) rfl

theorem portsHold_streamOpen (src : Nat) (b : List Byte) (h : PortsHold s) : PortsHold (streamOpenCommand src b s).1 := by
  refine onDevice_keeps src h (onStream_keeps _ h fun i => ?_)
  split
  · exact h
  · split
    · exact h
    · split
      · exact h
      · dsimp only
        split
        · exact h
        · exact h.putStream nofun

theorem portsHold_streamFill (src : Nat) (b : List Byte) (h : PortsHold s) : PortsHold (streamFillCommand src b s).1 := by
  have hfill : ∀ i k last data, PortsHold (fillHalf i k last data s).1 := fun i k last data =>
    h.putStream (i := i) fun hr => by rwa [withHalf_state] at hr
  refine onDevice_keeps src h (onStream_keeps _ h fun i => ?_)
  split
  · exact h
  · dsimp only
    split
    · exact h
    · split
      · exact h
      · split
        · exact h
        · exact h
        · exact hfill ..

/-- No stream starts in standby (R147, R170). -/
theorem portsHold_streamRun (act : Stream → Stream) (src : Nat) (b : List Byte) (h : PortsHold s) :
    PortsHold (streamRunCommand act src b s).1 := by
  refine onDevice_keeps src h ?_
  split
  · exact h
  · rename_i hs
    refine onStream_keeps _ h fun i => ?_
    split
    · exact h
    · exact h.awake (t := putStream s i _) (by simpa using hs) rfl

theorem portsHold_streamClose (src : Nat) (b : List Byte) (h : PortsHold s) : PortsHold (streamCloseCommand src b s).1 := by
  refine onDevice_keeps src h (onStream_keeps _ h fun i => ?_)
  split
  · exact h
  · exact taken_keeps (P := PortsHold) (portsHold_closeStream h i)

end

/-- Every command keeps the ports and standby in order (R177). -/
theorem portsHold_perform (c : Command) (src : Nat) (b : List Byte) (s : State) (h : PortsHold s) :
    PortsHold (perform c src b s).1 := by
  obtain ⟨halloc, hwrite, hend, hfree, hinfo, hcompact, hload⟩ := portsHold_storeCommands src b h
  cases c with
  | posOpen | posClose | callOffer | callConnect | callHold | callClear | mute | posStatus | ecMode | ecFreeze | search | windowSet
  | ecStatus | play | stop | playerStatus | toneStart | toneStop =>
    exact portsHold_positionCommand src b (by simp [positionCommands]) h
  | reset => exact portsHold_resetCommand src b h
  | sleep => exact portsHold_sleep src h
  | wake => exact portsHold_wake src h
  | portSet => exact portsHold_portSet src b h
  | portStatus => exact onDevice_keeps src h (by split <;> exact h)
  | setParam => exact portsHold_setParam src b h
  | getParam => exact portsHold_getParam src b h
  | clipAlloc => exact halloc
  | clipWrite => exact hwrite
  | clipEnd => exact hend
  | clipFree => exact hfree
  | clipInfo => exact hinfo
  | storeCompact => exact hcompact
  | expandLoad => exact hload
  | streamOpen => exact portsHold_streamOpen src b h
  | streamFill => exact portsHold_streamFill src b h
  | streamStart => exact portsHold_streamRun startedStream src b h
  | streamStop => exact portsHold_streamRun haltedStream src b h
  | streamClose => exact portsHold_streamClose src b h
  | streamStatus => exact onDevice_keeps src h (onStream_keeps _ h fun _ => h)

/-! ## The elastic buffers (R166) -/

section
variable {s : State}

theorem beginGroups_buffered (s : State) :
    Buffered s (begunPorts s.ports) (groupsToBegin s.ports = true ∧ s.ports.tx = []) (beginGroups s) := by
  rw [beginGroups_does, begunPorts]
  split
  · exact buffered_raiseAll s _ (slipsAlone_ite _ _) fun h => by rw [if_pos h.2]; simp
  · rename_i hn
    exact (Buffered.rfl s).mono fun h => hn h.1

/-- The ports after a group of the Position Port has completed and the next has begun (R166). -/
def nextGroup (x : AudioBlock) (r : Ports) : Ports := tookTx (joinedRx x (begunPorts r))

@[simp] theorem begunPorts_rx (r : Ports) : (begunPorts r).rx = r.rx := by
  unfold begunPorts
  split
  · rfl
  · rfl

@[simp] theorem begunPorts_standby (r : Ports) : (begunPorts r).standby = r.standby := by
  unfold begunPorts
  split
  · rfl
  · rfl

/-- A group that completes joins the receive buffer, and the next takes the head of the transmit buffer. -/
theorem completeGroup_eq (x : AudioBlock) (hb : buffering s.ports = true) :
    completeGroup x s = groupLast (some x) (groupFirst (some x) (beginGroups s)) := if_pos hb

theorem completeGroup_buffered (x : AudioBlock) (hb : buffering s.ports = true) :
    Buffered s (nextGroup x s.ports) (3 ≤ s.ports.rx.length ∨ (begunPorts s.ports).tx = []) (completeGroup x s) := by
  have hbegun := beginGroups_buffered s
  have hjoined := groupFirst_does (some x) (beginGroups s)
  have htook := groupLast_does (some x) (groupFirst (some x) (beginGroups s))
  rw [hbegun.ports] at hjoined
  rw [hjoined.ports] at htook
  rw [completeGroup_eq x hb]
  refine ((hbegun.trans hjoined).trans htook).mono fun hs => ?_
  obtain hrx | htx := hs
  · exact .inl (.inr ⟨by simp, by rwa [begunPorts_rx]⟩)
  · exact .inr ⟨by simp, htx⟩

theorem portsHold_completeGroup (h : PortsHold s) (x : AudioBlock) : PortsHold (completeGroup x s) := by
  by_cases hb : buffering s.ports = true
  · have hp := (completeGroup_buffered x hb).ports
    have hbegun : buffering (begunPorts s.ports) = true := (buffering_begun s.ports).trans hb
    refine portsHold_portless (portless_completeGroup s x) ?_ fun hs => ?_
    · rw [hp]
      exact portsOk_tookTx (portsOk_joinedRx (portsOk_begun h.1) hbegun) hbegun (grouping_begun hb)
    · have hstandby : (nextGroup x s.ports).standby = s.ports.standby := begunPorts_standby s.ports
      rw [hp, hstandby] at hs
      exact h.2 hs
  · rw [completeGroup, if_neg hb]
    exact h

/-! ## Syncs (R164) -/

theorem judgesSyncs_iff (s : State) (id : PortId) :
    judgesSyncs s id = true ↔ s.ports.standby = false ∧ (portOf s.ports id).role = .slave := by
  simp [judgesSyncs]

theorem portEvent_ports (ev : PortEvent) (id : PortId) (r : Ports) (s : State) : (portEvent ev id r s).ports = r := by
  rw [portEvent, raise_ports, putPorts_ports]

theorem portsHold_losePort (h : PortsHold s) {id : PortId} {n : Nat} (hj : judgesSyncs s id = true) (hn : n ≤ 3) :
    PortsHold (losePort id n s) := by
  obtain ⟨hs, hr⟩ := (judgesSyncs_iff s id).1 hj
  have hp : (losePort id n s).ports = silencePort id (onBuffers id emptyBuffers (setSync id .syncing n s.ports)) := portEvent_ports ..
  refine portsHold_awake ?_ ?_
  · rw [hp]
    exact portsOk_lost h.1 hs hr hn
  · rw [hp]
    cases id <;> exact hs

theorem portsHold_lockPort (h : PortsHold s) {id : PortId} (hj : judgesSyncs s id = true) : PortsHold (lockPort id s) := by
  obtain ⟨hs, hr⟩ := (judgesSyncs_iff s id).1 hj
  have hp : (lockPort id s).ports = onBuffers id centredBuffers (setSync id .locked 3 s.ports) := portEvent_ports ..
  refine portsHold_awake ?_ ?_
  · rw [hp]
    exact portsOk_locked h.1 hs hr
  · rw [hp]
    cases id <;> exact hs

theorem portsHold_beginGroups (h : PortsHold s) : PortsHold (beginGroups s) := by
  have hp := (beginGroups_buffered s).ports
  refine portsHold_portless (portless_beginGroups s) (hp ▸ portsOk_begun h.1) fun hs => h.2 ?_
  rw [hp, begunPorts_standby] at hs
  exact hs

theorem portsHold_takeSync (h : PortsHold s) {id : PortId} (d : Nat) (hj : judgesSyncs s id = true) : PortsHold (takeSync id d s) := by
  obtain ⟨hs, hr⟩ := (judgesSyncs_iff s id).1 hj
  obtain ⟨-, -, hgood, -⟩ := (h.1.holds id).port
  have hcount : ∀ n, (portOf s.ports id).state = .syncing → n ≤ 3 → PortsHold (putPorts s (setSync id .syncing n s.ports)) :=
    fun n hst hn => portsHold_awake (portsOk_counting h.1 hs hr hst hn) (by cases id <;> exact hs)
  unfold takeSync
  dsimp only
  split
  · exact h
  · rename_i hst
    split
    · exact hcount 1 hst (by omega)
    · split
      · exact portsHold_lockPort h hj
      · exact hcount _ hst (by omega)
  · split
    · cases id with
      | network => exact h
      | position => exact portsHold_beginGroups h
    · exact portsHold_losePort h hj (by omega)

/-! ## Slices and slice periods (R15, R165) -/

theorem processes_awake {p : PosIx} (h : processes s p = true) : s.ports.standby = false := by
  simp only [processes, Bool.and_eq_true, Bool.not_eq_true'] at h
  exact h.1

theorem portsHold_positionSlice (h : PortsHold s) (p : PosIx) : PortsHold (positionSlice p s) := by
  refine .ite (fun hready => ?_) h
  simp only [sliceReady, Bool.and_eq_true] at hready
  obtain ⟨⟨hproc, -⟩, -⟩ := hready
  have hs := processes_awake hproc
  have hp := processSlice_ports p s
  refine portsHold_awake ?_ ?_
  · rw [hp]
    exact portsOk_sent h.1 p _
  · rw [hp]
    exact hs

/-- The ports of a slice period that has begun, from those at the end of the last (R165, R166). -/
theorem beginPeriod_ports (netIn posIn : AudioBlock) (group : Option AudioBlock) (s : State) :
    (beginPeriod netIn posIn group (endPeriod s)).ports =
      micPorts group (startPorts s.period.active (sliced s).period.earpiece s.ports) := by
  obtain ⟨t, hbegun, he⟩ := begun_beginPeriod netIn posIn group (endPeriod s)
  obtain ⟨hports, -⟩ := hbegun.heard (by simp [beginActs])
  rw [he, spendDraw_ports, hports, ← ports_periodStart]
  rfl

/-- The group that completes as a period begins has begun before it (R166; log entry 10). -/
theorem groupsToBegin_groupBefore (group : Option AudioBlock) (s : State) :
    group = none ∨ groupsToBegin (groupBefore group s).ports = false := by
  cases group with
  | none => exact .inl rfl
  | some g =>
    have hp : (groupBefore (some g) s).ports = begunPorts s.ports := (beginGroups_buffered s).ports
    exact .inr (hp ▸ groupsToBegin_begun s.ports)

theorem startPorts_standby (active : Bool) (x : AudioBlock) (r : Ports) : (startPorts active x r).standby = r.standby := by
  unfold startPorts
  split
  · rfl
  · rfl

theorem micPorts_standby (group : Option AudioBlock) (r : Ports) : (micPorts group r).standby = r.standby := by
  unfold micPorts
  cases group with
  | none =>
    split
    · rfl
    · rfl
  | some g =>
    split
    · rfl
    · rfl

theorem portsHold_slicePeriod (netIn posIn : AudioBlock) (group : Option AudioBlock) (h : PortsHold s) :
    PortsHold (slicePeriod netIn posIn group s) := by
  unfold slicePeriod
  split
  · exact h
  · rename_i hs
    have hbefore : PortsOk (groupBefore group s).ports ∧ (groupBefore group s).ports.standby = false := by
      cases group with
      | none => exact ⟨h.1, Bool.eq_false_of_not_eq_true hs⟩
      | some g =>
        have hp : (groupBefore (some g) s).ports = begunPorts s.ports := (beginGroups_buffered s).ports
        rw [hp, begunPorts_standby]
        exact ⟨portsOk_begun h.1, by simpa using hs⟩
    have hp := beginPeriod_ports netIn posIn group (groupBefore group s)
    refine portsHold_awake ?_ ?_
    · rw [hp]
      refine portsOk_micPorts (portsOk_startPorts hbefore.1 _) ((groupsToBegin_groupBefore group s).imp id fun hg => ?_)
      unfold startPorts
      split
      · exact hg
      · exact hg
    · rw [hp, micPorts_standby, startPorts_standby]
      exact hbefore.2

end

/-! ## The events -/

section
variable {s : State} {p : PosIx}

theorem measuring_awake (h : measuring s p = true) : s.ports.standby = false :=
  processes_awake (Bool.and_eq_true_iff.mp h).1

theorem mayAdapt_awake (h : mayAdapt s p = true) : s.ports.standby = false := by
  simp only [mayAdapt, Bool.and_eq_true] at h
  exact processes_awake h.1.1.1.1

theorem portsHold_endInFlight (h : PortsHold s) (due : InFlight → Bool) {finish : InFlight → State → State × ReportBody}
    (hf : ∀ f, (finish f s).1.ports = s.ports) : PortsHold (endInFlight due finish s) := by
  unfold endInFlight
  split
  · exact h
  · exact h.event (fun hd => processes_awake (Bool.and_eq_true_iff.mp hd).1) ((raise_ports ..).trans (hf _))

theorem portsHold_endPass (h : PortsHold s) (p : PosIx) (w : PlayerId) : PortsHold (endPass p w s) := by
  unfold endPass
  split
  · exact h
  · refine h.event (fun hd => processes_awake (Bool.and_eq_true_iff.mp hd).1) ?_
    rw [whisperCheck_ports, raiseAll_ports, ports_of_player (bare_settleRun ..)]

theorem portsHold_loseErle (h : PortsHold s) (p : PosIx) : PortsHold (loseErle p s) := by
  refine h.event (fun hd => mayAdapt_awake hd.1) ?_
  split
  · rw [ports_placeRequest, putCanceller_ports]
  · rfl

end

theorem portsHold_exec (i : Instr) {s t : State} (h : PortsHold s) (he : exec i s = .next t) : PortsHold t := by
  have hlink : ∀ (u : State) (l : Link), PortsHold u → PortsHold (putLink u l) := fun _ _ hu => hu
  cases i with
  | powerOn | resetPin => cases he; exact portsHold_reset rfl
  | frameError len followed => cases he; exact .ite (fun _ => linkEvent_keeps hlink _ _ _ h) h
  | read e => cases he; exact readTransaction_keeps hlink portsHold_perform e s h
  | frameArrival | linkClear | badKind | resetDevice | resetPosition | sleep | wake | portSet | portStatus | setParam | getParam
  | posOpen | posClose | callOffer | callConnect | callHold | callClear | mute | posStatus | ecMode | ecFreeze | search | windowSet
  | ecStatus | playNow | playInterrupt | playNext | playOnly | stopCurrent | stopAll | playerStatus | toneStart | toneStop | clipAlloc
  | clipWrite | clipEnd | clipFree | clipInfo | storeCompact | expandLoad | streamOpen | streamFill | streamStart | streamStop
  | streamClose | streamStatus => cases he; exact writeFrame_keeps hlink portsHold_perform _ s h
  | slicePeriod netIn posIn group => cases he; exact portsHold_slicePeriod netIn posIn group h
  | positionSlice p => cases he; exact portsHold_positionSlice h p
  | floorTrackerRise p which level =>
    cases he
    cases which with
    | microphone => exact h.event (fun hd => measuring_awake hd.1) (putSuppressor_ports ..)
    | callerPath => exact h.event (fun hd => processes_awake hd.1) (putCanceller_ports ..)
  | vadHangoverExpiry p ratio => cases he; exact h.event (fun hd => measuring_awake hd.1) (putSuppressor_ports ..)
  | boostRefresh p => cases he; exact h.event (fun hd => measuring_awake hd.1) ((raiseAll_ports ..).trans (putSuppressor_ports ..))
  | doubleTalkHangoverExpiry p ymax xmax => cases he; exact h.event (fun hd => processes_awake hd.1) (putCanceller_ports ..)
  | converged p => cases he; exact h.event (fun hd => mayAdapt_awake hd.1) (cancellerEvent_ports ..)
  | diverged p estimateLevel returnLevel => cases he; exact h.event (fun hd => mayAdapt_awake hd.1) (cancellerEvent_ports ..)
  | lossOfErle p => cases he; exact portsHold_loseErle h p
  | researchPeriodExpiry p =>
    cases he
    exact h.event (fun hd => processes_awake hd.1) ((ports_placeRequest ..).trans (putCanceller_ports ..))
  | searchStart =>
    cases he
    show PortsHold (startHead s)
    rw [startHead_eq]
    exact h
  | searchCompletes => cases he; exact portsHold_endInFlight h _ fun f => ports_endSearch _ _ f s
  | timedOut => cases he; exact portsHold_endInFlight h _ fun f => ports_endSearch _ _ f s
  | passEnd p which => cases he; exact portsHold_endPass h p which
  | burstComplete p => cases he; exact h.event (fun hd => processes_awake hd.1) ((raiseAll_ports ..).trans (putTone_ports ..))
  | newCycle p => cases he; exact h.event (fun hd => processes_awake hd.1) (putTone_ports ..)
  | halfEmpty k => cases he; exact h.event (fun hd => hd.1) ((raiseAll_ports ..).trans (putStream_ports ..))
  | turn => cases he; exact portsHold_turn h
  | moveCompletes => cases he; exact portsHold_finishMove h
  | frameSync port distance => cases he; exact .ite (portsHold_takeSync h distance) h
  | missingSync port => cases he; exact .ite (fun hj => .ite (fun _ => portsHold_losePort h hj (Nat.zero_le 3)) h) h
  | positionPortGroup x => cases he; exact portsHold_completeGroup h x

/-- Settles O18: outside standby each part of a step keeps the ports or is an operation on them that keeps their order; in standby the
commands of the positions are refused and no event is due, and what is left keeps the call states, compaction and the streams at rest. -/
theorem stepKeepsThePortsAndStandby : Obligations.StepKeepsThePortsAndStandby := by
  unfold Obligations.StepKeepsThePortsAndStandby
  intro s t hp hq hs
  rw [step] at hs
  split at hs
  · cases hs
    exact ⟨hp, hq⟩
  · rename_i c rest _
    exact portsHold_exec c (s := { s with pending := rest }) ⟨hp, hq⟩ hs

end Sys2Proof.Machine

/-! # SLEEP and WAKE (R164, R166 to R170) -/

namespace Sys2Proof.Machine

section
variable {s t : State}

/-- An operation on the ports and the slice period leaves the rest. -/
theorem bare_of_portless (h : portless t = portless s) : bare t = bare { s with ports := t.ports, period := t.period } := by
  have hf : ∀ x : State, bare x = bare { portless x with ports := x.ports, period := x.period } := fun _ => rfl
  rw [hf t, h]
  rfl

/-! ## The report of both ports, and the clock pins -/

@[simp] theorem portsEvent_ports (ev : PortEvent) (r : Ports) (s : State) : (portsEvent ev r s).ports = r := by
  rw [portsEvent, spendDraw_ports, raise_ports, putPorts_ports]

@[simp] theorem portsEvent_period (ev : PortEvent) (r : Ports) (s : State) : (portsEvent ev r s).period = s.period := by
  rw [portsEvent, spendDraw_period, raise_period, putPorts_period]

/-- The report of both ports, whose port is a free value (R168; log entry 6). -/
theorem portsEvent_reports (ev : PortEvent) (r : Ports) (s : State) :
    ∃ n, Message.report (portReport ev (.both s.draws) (portsEvent ev r s).ports) n ∈ (portsEvent ev r s).link.outbound := by
  rw [portsEvent_ports]
  exact raise_mem (portReport ev (.both s.draws) r) (putPorts s r)

theorem clockPins_stopped {r : Ports} {id : PortId} (h : (portOf r id).state = .stopped) :
    clockPins r id = if (portOf r id).acting = .master then .heldLow else .inputs := by
  unfold clockPins
  cases (portOf r id).acting with
  | master => simp [h]
  | slave => rfl

theorem clockPins_started {r : Ports} {id : PortId} {role : PortRole} {m : Vector (Fin 16) 16} (h : portOf r id = startPort role m) :
    clockPins r id = if role = .master then .driven (timingSource r) else .inputs := by
  unfold clockPins
  rw [h]
  cases role with
  | master => rfl
  | slave => rfl

/-! ## SLEEP (R169) -/

/-- The ports that SLEEP leaves. -/
theorem sleepingPorts_ended (d : Period) (r : Ports) :
    sleepingPorts (endedPorts d r) = { r with
      network := { r.network with state := .stopped }
      position := { r.position with state := .stopped }
      standby := true, rx := [], tx := [], grouping := false, ndout := silentBlock, pdout := silentBlock
      slips :=
        if d.active = true ∧ buffering r = true ∧ 3 ≤ r.tx.length then
          { r.slips with txOver := min (r.slips.txOver + 1) 65535 }
        else r.slips } := by
  unfold endedPorts
  by_cases hb : d.active = true ∧ buffering r = true
  · obtain ⟨ha, hbuf⟩ := hb
    by_cases hfull : 3 ≤ r.tx.length
    · simp [ha, hbuf, hfull, sleepingPorts, silencePort, emptyBuffers, stoppedPort, joinedTx, bump16]
    · simp [ha, hbuf, hfull, sleepingPorts, silencePort, emptyBuffers, stoppedPort, joinedTx]
  · rw [if_neg hb, if_neg fun h => hb ⟨h.1, h.2.1⟩]
    rfl

theorem periodEnded_draws (s : State) : (periodEnded s).draws = s.draws := by
  unfold periodEnded
  dsimp only
  rw [putPeriod_draws, raiseAll_draws]
  split
  · rw [joinTx_does]
    split <;> rfl
  · rfl

theorem goToSleep_bare (s : State) :
    bare (goToSleep s) = bare { s with period := noPeriod, ports := sleepingPorts (endedPorts s.period s.ports) } := by
  have hp : (goToSleep s).period = noPeriod := by
    rw [goToSleep_eq, portsEvent_period]
    rfl
  rw [bare_of_portless (portless_goToSleep s), goToSleep_ports, hp]

theorem goToSleep_reports (s : State) :
    ∃ n, Message.report (portReport .stopped (.both s.draws) (goToSleep s).ports) n ∈ (goToSleep s).link.outbound := by
  have h := portsEvent_reports .stopped (sleepingPorts (periodEnded s).ports) (periodEnded s)
  rwa [periodEnded_draws] at h

theorem clockPins_asleep (s : State) (id : PortId) :
    clockPins (goToSleep s).ports id = if (portOf s.ports id).acting = .master then .heldLow else .inputs := by
  have hstop : (portOf (goToSleep s).ports id).state = .stopped := by
    rw [goToSleep_ports]
    cases id <;> rfl
  have hacting : (portOf (goToSleep s).ports id).acting = (portOf s.ports id).acting := by
    rw [goToSleep_ports, sleepingPorts_ended]
    cases id <;> rfl
  rw [clockPins_stopped hstop, hacting]

theorem exec_sleep_device (h : Accepts s) (tag : Byte) :
    exec (.sleep 0xFF tag) s = .next (answered 0x82 0xFF tag
      (if s.ports.standby then refuse s .asleep
       else if allVacant s = false ∨ s.store.compaction.running = true ∨ noStreamRunning s = false then refuse s .busy
       else taken (goToSleep s))) := exec_sleep h ..

/-! ## WAKE (R170) -/

theorem exec_wake_device (h : Accepts s) (tag : Byte) :
    exec (.wake 0xFF tag) s = .next (answered 0x83 0xFF tag
      (if s.ports.standby then taken (portsEvent .started (wokenPorts s.ports) s) else taken s)) := exec_wake h ..

/-- After WAKE a slave Network Port is SYNCING, so that the part is its own timing source (R165, R170). -/
theorem timingSource_woken (r : Ports) : timingSource (wokenPorts r) = .internal := by
  unfold timingSource wokenPorts
  cases r.network.role <;> simp [startPort, startState]

theorem startState_eq (role : PortRole) : startState role = if role = .master then .locked else .syncing := by cases role <;> rfl

theorem wokenPorts_eq (r : Ports) :
    wokenPorts r = { r with
      network := ⟨r.network.role, if r.network.role = .master then .locked else .syncing, 0, r.network.slotMap, r.network.role⟩
      position := ⟨r.position.role, if r.position.role = .master then .locked else .syncing, 0, r.position.slotMap, r.position.role⟩
      standby := false } := by
  rw [← startState_eq, ← startState_eq]
  rfl

theorem clockPins_woken (r : Ports) (id : PortId) :
    clockPins (wokenPorts r) id = if (portOf (wokenPorts r) id).role = .master then .driven .internal else .inputs := by
  rw [← timingSource_woken r]
  cases id with
  | network => exact clockPins_started (r := wokenPorts r) (id := .network) rfl
  | position => exact clockPins_started (r := wokenPorts r) (id := .position) rfl

end

/-- Settles O29: each command's answer by its checks, and the ports that it leaves. -/
theorem sleepAndWakeSwitchStandby : Obligations.SleepAndWakeSwitchStandby := by
  unfold Obligations.SleepAndWakeSwitchStandby
  refine ⟨fun s tag h => ?_, fun s tag h hs => ?_, fun s tag h => ?_⟩
  · obtain ⟨haccepts, hs⟩ := h
    have hawake : ¬s.ports.standby = true := by simp [hs]
    rw [exec_sleep_device haccepts, if_neg hawake]
    refine ⟨fun hbusy => by rw [if_pos hbusy]; rfl, fun hvacant hidle hstopped => ⟨goToSleep s, ?_, ?_, clockPins_asleep s,
      goToSleep_reports s⟩⟩
    · rw [if_neg (by simp [hvacant, hidle, hstopped])]
      rfl
    · rw [goToSleep_bare, sleepingPorts_ended]
  · rw [exec_sleep_device h, exec_wake_device h, if_pos hs, if_pos hs]
    refine ⟨rfl, portsEvent .started (wokenPorts s.ports) s, rfl, ?_, fun id => ?_, portsEvent_reports ..⟩
    · rw [bare_of_portless (portless_portsEvent ..), portsEvent_ports, portsEvent_period, wokenPorts_eq]
    · rw [portsEvent_ports, clockPins_woken]
      cases id <;> rfl
  · obtain ⟨haccepts, hs⟩ := h
    rw [exec_wake_device haccepts, if_neg (by simp [hs])]
    rfl

end Sys2Proof.Machine

/-! # PORT-SET (R163 to R168) -/

namespace Sys2Proof.Machine

/-! ## The bytes of a map -/

section
variable {slots : List Byte}

theorem namedSlots_eq (hl : slots.length = 16) : namedSlots slots = slots.map BitVec.toNat := by
  refine List.ext_getElem (by simp [namedSlots, hl]) fun k hk _ => ?_
  have hk16 : k < slots.length := by simpa [namedSlots, hl] using hk
  simp [namedSlots, byteAt, hk16]

/-- Sixteen slots are valid where each is in range and none appears twice (R163 checks 2 and 3). -/
theorem slotsValid_iff (hl : slots.length = 16) : slotsValid slots = true ↔ (∀ x ∈ slots, x.toNat < 16) ∧ slots.Nodup := by
  have hinj : Function.Injective (BitVec.toNat : Byte → Nat) := fun _ _ => BitVec.eq_of_toNat_eq
  rw [slotsValid, namedSlots_eq hl, Bool.and_eq_true, List.all_map, List.all_eq_true, decide_eq_true_iff, List.nodup_map_iff hinj]
  simp

/-- The bytes that name the slots of a map. -/
def mapBytes (m : Vector (Fin 16) 16) : List Byte := m.toList.map fun x => BitVec.ofNat 8 x.val

theorem toNat_slotByte (x : Fin 16) : (BitVec.ofNat 8 x.val).toNat = x.val := by
  rw [BitVec.toNat_ofNat]
  omega

theorem mapOfSlots_mapBytes (m : Vector (Fin 16) 16) : mapOfSlots (mapBytes m) = m := by
  refine Vector.ext fun k hk => ?_
  have hbyte : byteAt (mapBytes m) k = m[k].val := by
    rw [byteAt, List.getD_eq_getElem _ _ (by simpa [mapBytes] using hk)]
    have hlt := m[k].isLt
    simpa [mapBytes] using Nat.lt_trans hlt (by omega : 16 < 256)
  simp [mapOfSlots, hbyte]

theorem slotsValid_mapBytes {m : Vector (Fin 16) 16} (hm : m.toList.Nodup) : slotsValid (mapBytes m) = true := by
  have hinj : Function.Injective fun x : Fin 16 => (BitVec.ofNat 8 x.val : Byte) := fun a b hab => by
    have hv := congrArg BitVec.toNat hab
    simp only [toNat_slotByte] at hv
    exact Fin.ext hv
  refine (slotsValid_iff (by simp [mapBytes])).2 ⟨fun x hx => ?_, (List.nodup_map_iff hinj).2 hm⟩
  obtain ⟨y, -, rfl⟩ := List.mem_map.1 hx
  rw [toNat_slotByte]
  exact y.isLt

end

/-! ## The ports that a PORT-SET leaves (R163, R164, R167) -/

section
variable {id : PortId} {role : PortRole} {m : Vector (Fin 16) 16} {r : Ports} {s : State}

theorem setPorts_restarted (hr : (portOf r id).role ≠ role) (hs : r.standby = false) :
    setPorts id role m r = restartedPort id role m r := by rw [setPorts, if_neg hr, if_neg (by simp [hs])]

/-- What holds of the three ways of a PORT-SET holds of the ports that it leaves. -/
theorem setPorts_cases {P : Ports → Prop} (hkept : (portOf r id).role = role → P (storedPort id role m r))
    (hasleep : (portOf r id).role ≠ role → r.standby = true → P (onBuffers id emptyBuffers (storedPort id role m r)))
    (hstarted : (portOf r id).role ≠ role → r.standby = false → P (restartedPort id role m r)) : P (setPorts id role m r) := by
  unfold setPorts
  split
  · exact hkept ‹_›
  · split
    · exact hasleep ‹_› ‹_›
    · exact hstarted ‹_› (Bool.eq_false_of_not_eq_true ‹_›)

theorem portOf_setPorts (id : PortId) (role : PortRole) (m : Vector (Fin 16) 16) (r : Ports) :
    portOf (setPorts id role m r) id =
      if (portOf r id).role = role ∨ r.standby = true then { portOf r id with role := role, slotMap := m }
      else ⟨role, if role = .master then .locked else .syncing, 0, m, role⟩ := by
  rw [← startState_eq]
  refine setPorts_cases (P := fun q => portOf q id = _) (fun hr => ?_) (fun _ hs => ?_) fun hr hs => ?_
  · rw [if_pos (.inl hr)]
    cases id <;> rfl
  · rw [if_pos (.inr hs)]
    cases id <;> rfl
  · rw [if_neg (by simp [hr, hs])]
    cases id <;> rfl

theorem portOf_setPorts_other {other : PortId} (ho : other ≠ id) : portOf (setPorts id role m r) other = portOf r other := by
  cases id with
  | network =>
    obtain rfl : other = .position := by cases other with | network => exact absurd rfl ho | position => rfl
    exact setPorts_cases (P := fun q => q.position = r.position) (fun _ => rfl) (fun _ _ => rfl) fun _ _ => rfl
  | position =>
    obtain rfl : other = .network := by cases other with | network => rfl | position => exact absurd rfl ho
    exact setPorts_cases (P := fun q => q.network = r.network) (fun _ => rfl) (fun _ _ => rfl) fun _ _ => rfl

theorem setPorts_slips : (setPorts id role m r).slips = if id = .position then ⟨0, 0, 0, 0⟩ else r.slips := by
  refine setPorts_cases (P := fun q => q.slips = _) (fun _ => ?_) (fun _ _ => ?_) fun _ _ => ?_
  all_goals cases id <;> rfl

/-- Another role of the Position Port empties the buffers (R167). -/
theorem setPorts_buffers :
    ((setPorts id role m r).rx, (setPorts id role m r).tx, (setPorts id role m r).grouping) =
      if id = .position ∧ r.position.role ≠ role then ([], [], false) else (r.rx, r.tx, r.grouping) := by
  cases id with
  | network =>
    rw [if_neg (by simp)]
    exact setPorts_cases (P := fun q => (q.rx, q.tx, q.grouping) = (r.rx, r.tx, r.grouping)) (fun _ => rfl) (fun _ _ => rfl)
      fun _ _ => rfl
  | position =>
    refine setPorts_cases (P := fun q => (q.rx, q.tx, q.grouping) = _) (fun hr => ?_) (fun hr _ => ?_) fun hr _ => ?_
    · rw [if_neg fun h => h.2 hr]
      rfl
    · rw [if_pos ⟨rfl, hr⟩]
      rfl
    · rw [if_pos ⟨rfl, hr⟩]
      rfl

/-- A port that keeps its role, or is set in standby, keeps its output. -/
theorem setPorts_outputs (hk : (portOf r id).role = role ∨ r.standby = true) :
    (setPorts id role m r).ndout = r.ndout ∧ (setPorts id role m r).pdout = r.pdout := by
  refine setPorts_cases (P := fun q => q.ndout = r.ndout ∧ q.pdout = r.pdout) (fun _ => ?_) (fun _ _ => ?_) fun hr hs => ?_
  · cases id <;> exact ⟨rfl, rfl⟩
  · cases id <;> exact ⟨rfl, rfl⟩
  · exact absurd hk (by simp [hr, hs])

/-! ## The clock pins (R164, R165; log entry 38) -/

theorem clockPins_congr {q : Ports} {x : PortId} (ha : (portOf q x).acting = (portOf r x).acting)
    (hst : (portOf q x).state = (portOf r x).state) (ht : timingSource q = timingSource r) : clockPins q x = clockPins r x := by
  rw [clockPins, clockPins, ha, hst, ht]

theorem timingSource_stopped (h : r.network.state = .stopped) : timingSource r = .internal := by simp [timingSource, h]

/-- The state and the role in effect of each port stay where the role is kept and in standby. -/
theorem setPorts_state (hk : (portOf r id).role = role ∨ r.standby = true) (x : PortId) :
    (portOf (setPorts id role m r) x).state = (portOf r x).state ∧
      (portOf (setPorts id role m r) x).acting = (portOf r x).acting := by
  by_cases hx : x = id
  · rw [hx, portOf_setPorts, if_pos hk]
    exact ⟨rfl, rfl⟩
  · rw [portOf_setPorts_other hx]
    exact ⟨rfl, rfl⟩

theorem clockPins_setPorts (hk : (portOf r id).role = role ∨ r.standby = true) (h : PortsOk r) (x : PortId) :
    clockPins (setPorts id role m r) x = clockPins r x := by
  have hstate : (setPorts id role m r).network.state = r.network.state := (setPorts_state hk .network).1
  obtain ⟨hst, hacting⟩ := setPorts_state (m := m) hk x
  refine clockPins_congr hacting hst ?_
  obtain hr | hs := hk
  · have hrole : (setPorts id role m r).network.role = r.network.role := by
      cases id with
      | network =>
        have hself := portOf_setPorts .network role m r
        rw [if_pos (.inl hr)] at hself
        exact (congrArg Port.role hself).trans hr.symm
      | position => exact congrArg Port.role (portOf_setPorts_other (r := r) (role := role) (m := m) (by simp : PortId.network ≠ .position))
    rw [timingSource, timingSource, hrole, hstate]
  · have hstop : r.network.state = .stopped := (h.holds .network).port.1.2 hs
    rw [timingSource_stopped hstop, timingSource_stopped (hstate.trans hstop)]

theorem clockPins_restarted (hr : (portOf r id).role ≠ role) (hs : r.standby = false) :
    clockPins (setPorts id role m r) id = if role = .master then .driven (timingSource (setPorts id role m r)) else .inputs := by
  refine clockPins_started (m := m) ?_
  rw [setPorts_restarted hr hs]
  cases id <;> rfl

/-! ## The state that a PORT-SET leaves -/

theorem setPort_kept (hk : (portOf s.ports id).role = role ∨ s.ports.standby = true) :
    setPort id role m s = putPorts s (setPorts id role m s.ports) := by
  unfold setPort setPorts
  split
  · rfl
  · rename_i hr
    rw [if_pos (hk.resolve_left hr), if_pos (hk.resolve_left hr)]

theorem setPort_restarted (hr : (portOf s.ports id).role ≠ role) (hs : s.ports.standby = false) :
    setPort id role m s = portEvent .started id (setPorts id role m s.ports) s := by
  rw [setPorts_restarted hr hs, setPort, if_neg hr, if_neg (by simp [hs])]

theorem setPort_period (id : PortId) (role : PortRole) (m : Vector (Fin 16) 16) (s : State) : (setPort id role m s).period = s.period := by
  unfold setPort
  split
  · rfl
  · split
    · rfl
    · rw [portEvent, raise_period, putPorts_period]

theorem setPort_bare (id : PortId) (role : PortRole) (m : Vector (Fin 16) 16) (s : State) :
    bare (setPort id role m s) = bare { s with ports := (setPort id role m s).ports } := by
  rw [bare_of_portless (portless_setPort s id role m), setPort_period]

theorem portEvent_reports (ev : PortEvent) (id : PortId) (r : Ports) (s : State) :
    ∃ n, Message.report (portReport ev (.one id) (portEvent ev id r s).ports) n ∈ (portEvent ev id r s).link.outbound := by
  rw [portEvent_ports]
  exact raise_mem _ (putPorts s r)

end

/-! ## The command -/

section
variable {s : State} {port role : Byte} {slots : List Byte}

/-- What PORT-SET of the device answers. -/
theorem exec_portSet_device (h : Accepts s) (tag : Byte) (hl : slots.length = 16) :
    exec (.portSet 0xFF tag port role slots) s = .next (answered 0x85 0xFF tag
      (match portOfCode port.toNat, roleOfCode role.toNat with
      | some id, some x =>
        if slotsValid slots = false then refuse s .badValue
        else if allVacant s = false then refuse s .badState
        else (setPort id x (mapOfSlots slots) s, .ok, byteField (roleCode x) :: mapFields (mapOfSlots slots))
      | _, _ => refuse s .badValue)) := by
  rw [exec_portSet h _ _ _ _ _ hl]
  rfl

theorem portOfCode_none {n : Nat} (h : 1 < n) : portOfCode n = none := by
  match n, h with
  | _ + 2, _ => rfl

theorem roleOfCode_none {n : Nat} (h : 1 < n) : roleOfCode n = none := by
  match n, h with
  | _ + 2, _ => rfl

theorem portOfCode_some {n : Nat} (h : n ≤ 1) : ∃ id, portOfCode n = some id := by
  match n, h with
  | 0, _ => exact ⟨_, rfl⟩
  | 1, _ => exact ⟨_, rfl⟩

theorem roleOfCode_some {n : Nat} (h : n ≤ 1) : ∃ x, roleOfCode n = some x := by
  match n, h with
  | 0, _ => exact ⟨_, rfl⟩
  | 1, _ => exact ⟨_, rfl⟩

theorem portOfCode_portCode (id : PortId) : portOfCode (BitVec.ofNat 8 (portCode id)).toNat = some id := by cases id <;> rfl

theorem roleOfCode_roleCode (x : PortRole) : roleOfCode (BitVec.ofNat 8 (roleCode x)).toNat = some x := by cases x <;> rfl

end

/-- Settles O30: the ports that the command leaves, port by port and field by field, and its refusals in their order. -/
theorem portSetStoresRoleAndMap : Obligations.PortSetStoresRoleAndMap := by
  unfold Obligations.PortSetStoresRoleAndMap
  refine ⟨fun s tag id role m h hm hvacant => ?_, fun s tag port role slots h hl => ⟨fun hbad => ?_, fun hp hr hrange hnodup hv => ?_⟩⟩
  · have hports := setPort_ports id role m s
    refine ⟨setPort id role m s, ?_, setPort_bare id role m s, ?_, ?_, ?_, ?_, ?_, ?_, ?_, ?_, ?_⟩
    · rw [exec_portSet_device h tag (by simp), portOfCode_portCode, roleOfCode_roleCode]
      have hvalid := slotsValid_mapBytes hm
      have hmap := mapOfSlots_mapBytes m
      rw [mapBytes] at hvalid hmap
      simp only [hvalid, hmap, hvacant, Bool.true_eq_false, if_false]
      rfl
    · rw [hports, portOf_setPorts]
    · intro hk hok x
      rw [hports, clockPins_setPorts hk hok]
    · intro hr hs
      rw [hports, clockPins_restarted hr hs]
    · intro other ho
      rw [hports, portOf_setPorts_other ho]
    · rw [hports, setPorts_standby]
    · rw [hports, setPorts_slips]
    · rw [hports, setPorts_buffers]
    · intro hk
      rw [setPort_kept hk]
      exact ⟨rfl, setPorts_outputs hk⟩
    · intro hr hs
      refine ⟨?_, ?_⟩
      · rw [setPort_restarted hr hs]
        exact portEvent_reports ..
      · rw [hports, setPorts_restarted hr hs]
        cases id <;> exact ⟨rfl, rfl⟩
  · rw [exec_portSet_device h tag hl]
    split
    · rename_i id x hport hrole
      have hslots : slotsValid slots = false := by
        rw [← Bool.not_eq_true, slotsValid_iff hl]
        rintro ⟨hrange, hnodup⟩
        obtain hp | hr | ⟨y, hy, hout⟩ | hdup := hbad
        · rw [portOfCode_none hp] at hport
          nomatch hport
        · rw [roleOfCode_none hr] at hrole
          nomatch hrole
        · exact Nat.not_lt.2 hout (hrange y hy)
        · exact hdup hnodup
      rw [if_pos hslots, answered_refuse]
    · rw [answered_refuse]
  · obtain ⟨id, hid⟩ := portOfCode_some hp
    obtain ⟨x, hx⟩ := roleOfCode_some hr
    have hvalid := (slotsValid_iff hl).2 ⟨hrange, hnodup⟩
    rw [exec_portSet_device h tag hl, hid, hx]
    simp only [hvalid, hv, Bool.true_eq_false, if_false, if_true, answered_refuse]

end Sys2Proof.Machine

/-! # The syncs and the groups of the ports (R164, R166 to R168) -/

namespace Sys2Proof.Machine

section
variable {s t : State} {id : PortId} {r : Ports} {x : AudioBlock}

/-! ## Syncs by the state of the port (R164) -/

theorem takeSync_stopped (h : (portOf s.ports id).state = .stopped) (d : Nat) : takeSync id d s = s := by simp only [takeSync, h]

theorem takeSync_syncing (h : (portOf s.ports id).state = .syncing) (d : Nat) :
    takeSync id d s =
      if (portOf s.ports id).goodSync = 0 ∨ d ≠ 256 then putPorts s (setSync id .syncing 1 s.ports)
      else if (portOf s.ports id).goodSync = 3 then lockPort id s
      else putPorts s (setSync id .syncing ((portOf s.ports id).goodSync + 1) s.ports) := by simp only [takeSync, h]

theorem takeSync_locked (h : (portOf s.ports id).state = .locked) (d : Nat) :
    takeSync id d s = if d = 256 then frameBegins id s else losePort id 1 s := by simp only [takeSync, h]

/-- A frame of a LOCKED port begins no group but the first of the Position Port. -/
theorem frameBegins_idle (h : id ≠ .position ∨ s.ports.grouping = true) : frameBegins id s = s := by
  cases id with
  | network => rfl
  | position => exact beginGroups_again s (by simp [groupsToBegin, h.resolve_left (by simp)])

/-- The ports of a slave that has lost its lock, field by field. -/
theorem lostPorts_eq (id : PortId) (n : Nat) (r : Ports) :
    silencePort id (onBuffers id emptyBuffers (setSync id .syncing n r)) =
      { setSync id .syncing n r with
        rx := if id = .position then [] else r.rx
        tx := if id = .position then [] else r.tx
        grouping := if id = .position then false else r.grouping
        ndout := if id = .position then r.ndout else silentBlock
        pdout := if id = .position then silentBlock else r.pdout } := by cases id <;> rfl

/-- The ports of a slave that has locked, field by field. -/
theorem lockedPorts_eq (id : PortId) (r : Ports) :
    onBuffers id centredBuffers (setSync id .locked 3 r) =
      { setSync id .locked 3 r with
        rx := if id = .position then [⟨false, silentBlock⟩] else r.rx
        tx := if id = .position then [silentBlock] else r.tx
        grouping := if id = .position then false else r.grouping } := by cases id <;> rfl

/-! ## The first group (R166; log entry 10) -/

theorem Buffered.bare {a : Prop} (h : Buffered s r a t) : bare t = bare { s with ports := r } := by
  rw [bare_of_portless h.frame, h.ports, h.period]

theorem begunPorts_eq (h : groupsToBegin r = true) :
    begunPorts r = { r with
      grouping := true, tx := r.tx.drop 1, pdout := r.tx.headD silentBlock
      slips := { r.slips with txUnder := if r.tx = [] then min (r.slips.txUnder + 1) 65535 else r.slips.txUnder } } := if_pos h

theorem beginGroups_link (h : groupsToBegin s.ports = true → s.ports.tx ≠ []) : (beginGroups s).link = s.link := by
  rw [beginGroups_does]
  split
  · rename_i hg
    dsimp only
    rw [if_neg (h hg), raiseAll_nil, putPorts_link]
  · rfl

/-! ## A group that completes (R166) -/

theorem begunPorts_tx (hb : buffering r = true) : (begunPorts r).tx = if r.grouping = true then r.tx else r.tx.drop 1 := by
  cases hg : r.grouping with
  | false =>
    rw [begunPorts_eq ((groupsToBegin_iff r).2 ⟨hb, hg⟩)]
    rfl
  | true =>
    rw [begunPorts, if_neg (by simp [groupsToBegin, hg])]
    rfl

theorem nextGroup_eq (hb : buffering r = true) :
    nextGroup x r = { r with
      grouping := true
      rx := (if r.rx.length < 3 then r.rx else r.rx.drop 1) ++ [⟨true, x⟩]
      tx := (begunPorts r).tx.drop 1
      pdout := (begunPorts r).tx.headD silentBlock
      slips := { r.slips with
        rxOver := if 3 ≤ r.rx.length then min (r.slips.rxOver + 1) 65535 else r.slips.rxOver
        txUnder :=
          let before := if r.grouping = false ∧ r.tx = [] then min (r.slips.txUnder + 1) 65535 else r.slips.txUnder
          if (begunPorts r).tx = [] then min (before + 1) 65535 else before } } := by
  have hrx : (if r.rx.length < 3 then r.rx else r.rx.drop 1) = if 3 ≤ r.rx.length then r.rx.drop 1 else r.rx := by
    by_cases h3 : 3 ≤ r.rx.length
    · rw [if_neg (by omega), if_pos h3]
    · rw [if_pos (by omega), if_neg h3]
  rw [hrx, nextGroup]
  cases hg : r.grouping with
  | false =>
    rw [begunPorts_eq ((groupsToBegin_iff r).2 ⟨hb, hg⟩)]
    simp [tookTx, joinedRx, bump16]
  | true =>
    have hbegun : begunPorts r = r := if_neg (by simp [groupsToBegin, hg])
    rw [hbegun]
    simp [tookTx, joinedRx, bump16, hg]

theorem groupFirst_link (h : s.ports.rx.length < 3) : (groupFirst (some x) s).link = s.link := by
  rw [groupFirst, joinRx_does]
  dsimp only
  rw [if_neg (by omega), raiseAll_nil, putPorts_link]

theorem groupLast_link (h : s.ports.tx ≠ []) : (groupLast (some x) s).link = s.link := by
  rw [groupLast, takeTx_does]
  dsimp only
  rw [if_neg h, raiseAll_nil, putPorts_link]

/-- Where no slip occurs nothing is reported. -/
theorem completeGroup_link (hb : buffering s.ports = true) (hrx : s.ports.rx.length < 3) (htx : (begunPorts s.ports).tx ≠ []) :
    (completeGroup x s).link = s.link := by
  have hbegun := (beginGroups_buffered s).ports
  have hjoined : (groupFirst (some x) (beginGroups s)).ports.tx = (begunPorts s.ports).tx := by
    rw [(groupFirst_does (some x) (beginGroups s)).ports, hbegun]
    rfl
  rw [completeGroup_eq x hb, groupLast_link (hjoined ▸ htx), groupFirst_link (by rw [hbegun, begunPorts_rx]; exact hrx)]
  exact beginGroups_link fun hg hn => htx (by rw [begunPorts_eq hg, hn]; rfl)

/-! ## The rows -/

theorem exec_frameSync (hj : judgesSyncs s id = true) (d : Nat) : exec (.frameSync id d) s = .next (takeSync id d s) :=
  congrArg Host.Outcome.next (if_pos hj)

theorem exec_missingSync (hj : judgesSyncs s id = true) : exec (.missingSync id) s = .next (missSync id s) :=
  congrArg Host.Outcome.next (if_pos hj)

/-- A port that judges no syncs takes none. -/
theorem exec_syncs_unjudged (hj : ¬judgesSyncs s id = true) (d : Nat) :
    exec (.frameSync id d) s = .next s ∧ exec (.missingSync id) s = .next s :=
  ⟨congrArg Host.Outcome.next (if_neg hj), congrArg Host.Outcome.next (if_neg hj)⟩

end

/-- Settles O60: the syncs by the state of the port, and the groups by the elastic buffers. -/
theorem portEvents : Obligations.PortEvents := by
  unfold Obligations.PortEvents
  refine ⟨fun s id => ?_, fun s g => ⟨fun hb => ?_, fun hb => ?_⟩⟩
  · intro x slave isPos put lost locked
    have hlost : ∀ n, losePort id n s = raise (portReport .lost (.one id) (lost n)) (putPorts s (lost n)) := fun n => by
      rw [losePort, lostPorts_eq]
      rfl
    have hlocked : lockPort id s = raise (portReport .locked (.one id) locked) (putPorts s locked) := by
      rw [lockPort, lockedPorts_eq]
      rfl
    have hjudges : slave ↔ judgesSyncs s id = true := (judgesSyncs_iff s id).symm
    refine ⟨fun distance => ?_, fun hsl hst => ?_, fun hidle => ?_⟩
    · intro sync
      have hsync : slave → sync = .next (takeSync id distance s) := fun hsl => exec_frameSync (hjudges.1 hsl) distance
      refine ⟨fun hidle => ?_, fun hsl hst hd hp hg => ?_, fun hsl hst hc => ?_, fun hsl hst h0 h3 hd => ?_, fun hsl hst h3 hd => ?_,
        fun hsl hst hd => ?_⟩
      · by_cases hsl : slave
        · rw [hsync hsl]
          obtain hn | hst | ⟨hst, hd, hg⟩ := hidle
          · exact absurd hsl hn
          · rw [takeSync_stopped hst]
          · rw [takeSync_locked hst, if_pos hd, frameBegins_idle hg]
        · exact (exec_syncs_unjudged (fun hj => hsl (hjudges.2 hj)) distance).1
      · have hid : id = .position := hp
        subst hid
        have hbegins : groupsToBegin s.ports = true :=
          (groupsToBegin_iff s.ports).2 ⟨(buffering_iff s.ports).2 ⟨hsl.2, hst⟩, hg⟩
        have hbegun := beginGroups_buffered s
        refine ⟨beginGroups s, ?_, ?_, fun htx => beginGroups_link fun _ => htx, fun htx => (hbegun.slips ⟨hbegins, htx⟩).report⟩
        · rw [hsync hsl, takeSync_locked hst, if_pos hd]
          rfl
        · rw [hbegun.bare, begunPorts_eq hbegins]
      · rw [hsync hsl, takeSync_syncing hst, if_pos hc]
        rfl
      · rw [hsync hsl, takeSync_syncing hst, if_neg (not_or.2 ⟨h0, not_not.2 hd⟩), if_neg h3]
        rfl
      · have h0 : x.goodSync ≠ 0 := fun h => absurd (h3.symm.trans h) (by simp)
        rw [hsync hsl, takeSync_syncing hst, if_neg (not_or.2 ⟨h0, not_not.2 hd⟩), if_pos h3, hlocked]
      · rw [hsync hsl, takeSync_locked hst, if_neg hd, hlost]
    · rw [exec_missingSync (hjudges.1 hsl), missSync, if_pos hst, hlost]
    · by_cases hsl : slave
      · rw [exec_missingSync (hjudges.1 hsl), missSync, if_neg (hidle.resolve_left (not_not.2 hsl))]
      · exact (exec_syncs_unjudged (fun hj => hsl (hjudges.2 hj)) 0).2
  · exact congrArg Host.Outcome.next (if_neg (by simp [hb]))
  · intro tx slip
    have hgroup := completeGroup_buffered g hb
    rw [begunPorts_tx hb] at hgroup
    refine ⟨completeGroup g s, rfl, ?_, fun hrx htx => completeGroup_link hb hrx (by rwa [begunPorts_tx hb]),
      fun hs => (hgroup.slips hs).report⟩
    rw [hgroup.bare, nextGroup_eq hb, begunPorts_tx hb]

end Sys2Proof.Machine
